-- ==== Sys2Proof/Word.lean ====
section
/-! DEFINITION. The word types of the KL9 (R2, R15, R16) and nothing more. -/

namespace Sys2Proof

/-- A dword: a general register, an address, a control register (R2, R15). -/
abbrev Word := BitVec 64

/-- A byte (R2). -/
abbrev Byte := BitVec 8

/-- A 32-bit word: an instruction word, an f32 lane (R2, R41). -/
abbrev W32 := BitVec 32

/-- A vector register (R16). -/
abbrev V512 := BitVec 512

/-- The number of a g or v register in an instruction field (R42). -/
abbrev Reg := BitVec 5

end Sys2Proof
end

