-- ==== Sys2Proof/Syntax.lean ====
section
/-! DEFINITION. The KL9's instructions and device events: one constructor of `Instr` for each row of
spec/opcode_table.json. A constructor of an instruction holds the fields of its encoding (chapter 02);
a constructor of an event holds the party it concerns and whatever comes from outside the module. -/

namespace Sys2Proof

/-- Element types of vector instructions (R119, Table 5.1). -/
inductive VTy where
  | f32 | bf16 | f16 | i32 | n32 | i16 | i8 | n8
deriving DecidableEq, Repr

/-- Conditions of `b.cc` (R52, Table 4.6). -/
inductive Cond where
  | eq | ne | lt | ge | ltn | gen
deriving DecidableEq, Repr

/-- Conditions of `vcmp` (R134). -/
inductive VCond where
  | eq | ne | lt | le
deriving DecidableEq, Repr

/-- Widths of remote operations (R188). -/
inductive Size where
  | b8 | b16 | b32 | b64
deriving DecidableEq, Repr

/-- Types of posted atomics (R188). -/
inductive PTy where
  | i32 | i64 | f32
deriving DecidableEq, Repr

/-- Mask register field and mode bit of formats V and VM (R43, R120). -/
structure Mask where
  reg : BitVec 3
  zero : Bool
deriving DecidableEq, Repr

/-- The fields of a prefix word (R46, Table 2.11). -/
structure Pfx where
  rnd : BitVec 3
  sat : Bool
  fmt : BitVec 3
  ftz : Bool
  te : BitVec 4
deriving DecidableEq, Repr

/-- A strand: its logical core number and its index in the core (R9, R29). -/
structure Sid where
  core : Nat
  strand : Nat
deriving DecidableEq, Repr

/-- A member's contribution to operation `seq` of a group, tagged with its view (R315, R320).
`codes` are the element codes of the collective's type. -/
structure Partial where
  grp : Nat
  view : Nat
  seq : Nat
  member : Nat
  codes : List W32
deriving DecidableEq, Repr

/-- The content of PROPOSE and COMMIT: number, proposing member, lists, NEXTSEQ (R317, Table 12.3). -/
structure Proposal where
  num : Nat
  leader : Nat
  full : List Nat
  joining : List Nat
  nextSeq : Nat
deriving DecidableEq, Repr

/-- A message of the view units (R317, R323, R366, Table 12.3). -/
inductive ViewMsg where
  | propose (p : Proposal)
  /-- an ACK of a module for a view number. -/
  | ack (num mod : Nat)
  | commit (p : Proposal)
  | suspect (m : Nat)
  | joinReq (m : Nat)
  | joinAck (m : Nat)
deriving DecidableEq, Repr

/-- What a flit carries once its payload is read (R326, R327; the manual lays out no payload). -/
inductive LinkMsg where
  | idle
  /-- one copy block: its transfer's identifier, the local-tier address of its first written byte, and from there on each
  byte with its poison, none where the block writes nothing (R209, R210). -/
  | block (src srcSeq ident pa : Nat) (bytes : List (Option (BitVec 8 × Bool)))
  /-- a copy's completion add: the issuer's context (R265), handle, amount and the numbers of the copy's blocks, which it
  follows (R240). -/
  | ctrAdd (src srcSeq ctx handle amount : Nat) (after : List Nat)
  /-- a posted atomic of a strand: 0 add, 1 min, 2 max, 3 or. -/
  | posted (src srcSeq : Nat) (who : Sid) (pa : Nat) (fn : BitVec 2) (t : PTy) (v : BitVec 64)
  /-- a collective partial for a member (R320). -/
  | part (dst : Nat) (p : Partial)
  /-- a message of the view units for a group (R317). -/
  | view (grp : Nat) (msg : ViewMsg)
  /-- a peer read: source module, tag, local-tier line address (R112, R251). -/
  | read (src tag pa : Nat)
  /-- the line that a peer read asked for; none: poisoned. -/
  | data (tag : Nat) (bytes : Option (List (BitVec 8)))
deriving DecidableEq, Repr

/-- A 256-byte flit (R326): header (Table 12.5), 240 payload bytes, CRC-64, and the message read from it. -/
structure Flit where
  hdr : BitVec 64
  payload : List (BitVec 8)
  crc : BitVec 64
  msg : LinkMsg
deriving DecidableEq, Repr

/-- What a host message addresses: an offset in the windows of Table 12.7, or a line of host-tier memory
(Table 8.1). -/
inductive HostTarget where
  | window (off : Nat)
  | hostMem (pa : Nat)
deriving DecidableEq, Repr

/-- What the patrol finds in a half-line (R262, R337). -/
inductive ScrubResult where
  | clean | corrected | uncorrectable
deriving DecidableEq, Repr

/-- A unit of the repair map (R342): a core, a cluster or a home slice of a die. -/
inductive RepairUnit where
  | core (die cluster core : Nat)
  | cluster (die cluster : Nat)
  | slice (die slice : Nat)
deriving DecidableEq, Repr

/-- The debug and management registers that REGISTER_WRITE writes (Table 14.1): those with no row of
their own. -/
inductive DebugReg where
  | dbgsel | dbgcore | dbgstop | wpbase (n : Nat) | acct (k : Nat)
  | trctl | trstart | trstop | trbase | trsize | dumpbuf | dumplen
  | route (mod : Nat)
deriving DecidableEq, Repr

/-- A stage that fails during a start, with the failing unit and part (R369, R370). -/
structure StartFailure where
  stage : Nat
  unit : Nat
  part : Nat
deriving DecidableEq, Repr

/-- The dies of an entry that management installs that are not full members: the joining ones (R312), and dies
outside both lists that it brings back to the group (R323). -/
structure NotFull where
  joining : List Nat
  back : List Nat
deriving DecidableEq, Repr

/-- What management writes to the nonvolatile store (R371, R342): a dword of the configuration record of
Table 17.3, or a repair-map entry of Table 13.4 of a die. -/
inductive StoreRecord where
  | config (dword : Nat) (v : BitVec 64)
  | repair (die index : Nat) (v : BitVec 64)
deriving DecidableEq, Repr

/-- Every instruction and every device event of the opcode table. -/
inductive Instr where
  /-- R99: Writes ga + gb to gd, wrapping modulo 2^64, or saturating under a prefix with sat. -/
  | add (d a b : Reg)
  /-- R99: Writes ga − gb to gd, wrapping, or saturating under a prefix with sat. -/
  | sub (d a b : Reg)
  /-- R99: Writes ga AND gb to gd. -/
  | band (d a b : Reg)
  /-- R99: Writes ga OR gb to gd. -/
  | bor (d a b : Reg)
  /-- R99: Writes ga XOR gb to gd. -/
  | bxor (d a b : Reg)
  /-- R99: Writes ga AND NOT gb to gd. -/
  | bandn (d a b : Reg)
  /-- R99: Shifts ga left by gb[5:0] with zeros in, or saturates under sat. -/
  | shl (d a b : Reg)
  /-- R99: Shifts ga right by gb[5:0] with zeros in. -/
  | shr (d a b : Reg)
  /-- R99: Shifts ga right by gb[5:0] with copies of bit 63 in. -/
  | sra (d a b : Reg)
  /-- R99: Rotates ga left by gb[5:0]. -/
  | rol (d a b : Reg)
  /-- R99: Writes the signed lesser of ga and gb. -/
  | min (d a b : Reg)
  /-- R99: Writes the signed greater of ga and gb. -/
  | max (d a b : Reg)
  /-- R99: Writes the unsigned lesser of ga and gb. -/
  | minn (d a b : Reg)
  /-- R99: Writes the unsigned greater of ga and gb. -/
  | maxn (d a b : Reg)
  /-- R99: Writes 1 if ga < gb as signed integers, and 0 otherwise. -/
  | slt (d a b : Reg)
  /-- R99: Writes 1 if ga < gb as unsigned integers, and 0 otherwise. -/
  | sltn (d a b : Reg)
  /-- R99: Writes 1 if ga = gb, and 0 otherwise. -/
  | seq (d a b : Reg)
  /-- R99: Writes ga if gd is nonzero and gb otherwise, reading gd as the condition. -/
  | sel (d a b : Reg)
  /-- R99: Writes the number of leading zero bits of ga. -/
  | clz (d a : Reg)
  /-- R99: Writes the number of trailing zero bits of ga. -/
  | ctz (d a : Reg)
  /-- R99: Writes the number of 1 bits of ga. -/
  | pop (d a : Reg)
  /-- R99: Writes ga with its eight bytes in reverse order. -/
  | bswap (d a : Reg)
  /-- R100: Adds bits 31:0 of the operands and writes the sign-extended result. -/
  | addW (d a b : Reg)
  /-- R100: Subtracts on 32 bits and writes the sign-extended result. -/
  | subW (d a b : Reg)
  /-- R100: ANDs on 32 bits and writes the sign-extended result. -/
  | bandW (d a b : Reg)
  /-- R100: ORs on 32 bits and writes the sign-extended result. -/
  | borW (d a b : Reg)
  /-- R100: XORs on 32 bits and writes the sign-extended result. -/
  | bxorW (d a b : Reg)
  /-- R100: Computes AND NOT on 32 bits and writes the sign-extended result. -/
  | bandnW (d a b : Reg)
  /-- R100: Shifts left on 32 bits by gb[4:0] and writes the sign-extended result. -/
  | shlW (d a b : Reg)
  /-- R100: Shifts right logically on 32 bits and writes the sign-extended result. -/
  | shrW (d a b : Reg)
  /-- R100: Shifts right arithmetically on 32 bits and writes the sign-extended result. -/
  | sraW (d a b : Reg)
  /-- R100: Rotates left on 32 bits and writes the sign-extended result. -/
  | rolW (d a b : Reg)
  /-- R100: Writes the signed 32-bit lesser, sign-extended. -/
  | minW (d a b : Reg)
  /-- R100: Writes the signed 32-bit greater, sign-extended. -/
  | maxW (d a b : Reg)
  /-- R100: Writes the unsigned 32-bit lesser, sign-extended. -/
  | minnW (d a b : Reg)
  /-- R100: Writes the unsigned 32-bit greater, sign-extended. -/
  | maxnW (d a b : Reg)
  /-- R100: Performs a signed 32-bit less-than comparison. -/
  | sltW (d a b : Reg)
  /-- R100: Performs an unsigned 32-bit less-than comparison. -/
  | sltnW (d a b : Reg)
  /-- R100: Performs a 32-bit equality comparison. -/
  | seqW (d a b : Reg)
  /-- R100: Selects on gd[31:0] between the 32-bit operands and writes the sign-extended result. -/
  | selW (d a b : Reg)
  /-- R100: Counts the leading zeros of ga[31:0]. -/
  | clzW (d a : Reg)
  /-- R100: Counts the trailing zeros of ga[31:0]. -/
  | ctzW (d a : Reg)
  /-- R100: Counts the 1 bits of ga[31:0]. -/
  | popW (d a : Reg)
  /-- R100: Reverses bytes 3 to 0 of ga and writes the sign-extended result. -/
  | bswapW (d a : Reg)
  /-- R106: Writes the low 64 bits of ga × gb. -/
  | mul (look : BitVec 4) (d a b : Reg)
  /-- R106: Writes the high half of the signed 128-bit product. -/
  | mulh (look : BitVec 4) (d a b : Reg)
  /-- R106: Writes the high half of the unsigned 128-bit product. -/
  | mulhn (look : BitVec 4) (d a b : Reg)
  /-- R106: Writes the signed quotient under Table 3.1, and raises DIVZ if enabled. -/
  | div (look : BitVec 4) (d a b : Reg)
  /-- R106: Writes the unsigned quotient under Table 3.1. -/
  | divn (look : BitVec 4) (d a b : Reg)
  /-- R106: Writes the signed remainder under Table 3.1. -/
  | rem (look : BitVec 4) (d a b : Reg)
  /-- R106: Writes the unsigned remainder under Table 3.1. -/
  | remn (look : BitVec 4) (d a b : Reg)
  /-- R106: Multiplies on 32 bits and writes the sign-extended result. -/
  | mulW (look : BitVec 4) (d a b : Reg)
  /-- R106: Writes the signed high half of the 32-bit product. -/
  | mulhW (look : BitVec 4) (d a b : Reg)
  /-- R106: Writes the unsigned high half of the 32-bit product. -/
  | mulhnW (look : BitVec 4) (d a b : Reg)
  /-- R106: Performs a signed 32-bit division. -/
  | divW (look : BitVec 4) (d a b : Reg)
  /-- R106: Performs an unsigned 32-bit division. -/
  | divnW (look : BitVec 4) (d a b : Reg)
  /-- R106: Writes the signed 32-bit remainder. -/
  | remW (look : BitVec 4) (d a b : Reg)
  /-- R106: Writes the unsigned 32-bit remainder. -/
  | remnW (look : BitVec 4) (d a b : Reg)
  /-- R102: Adds a sign-extended 14-bit immediate to ga. -/
  | addImm (d a : Reg) (imm : BitVec 14)
  /-- R102: ANDs ga with a zero-extended 14-bit immediate. -/
  | bandImm (d a : Reg) (imm : BitVec 14)
  /-- R102: ORs ga with a zero-extended 14-bit immediate. -/
  | borImm (d a : Reg) (imm : BitVec 14)
  /-- R102: XORs ga with a zero-extended 14-bit immediate. -/
  | bxorImm (d a : Reg) (imm : BitVec 14)
  /-- R102: Compares ga with a sign-extended immediate as signed integers. -/
  | sltImm (d a : Reg) (imm : BitVec 14)
  /-- R102: Compares ga with a sign-extended immediate as unsigned integers. -/
  | sltnImm (d a : Reg) (imm : BitVec 14)
  /-- R102: Shifts ga left by an immediate amount. -/
  | shlImm (d a : Reg) (n : BitVec 6)
  /-- R102: Shifts ga right logically by an immediate amount. -/
  | shrImm (d a : Reg) (n : BitVec 6)
  /-- R102: Shifts ga right arithmetically by an immediate amount. -/
  | sraImm (d a : Reg) (n : BitVec 6)
  /-- R102: Rotates ga left by an immediate amount. -/
  | rolImm (d a : Reg) (n : BitVec 6)
  /-- R102: Adds a sign-extended immediate on 32 bits and writes the sign-extended result. -/
  | addWImm (d a : Reg) (imm : BitVec 14)
  /-- R103: Extracts a bit field of ga and sign-extends it. -/
  | extI (d a : Reg) (lenm pos : BitVec 6)
  /-- R103: Extracts a bit field of ga and zero-extends it. -/
  | extN (d a : Reg) (lenm pos : BitVec 6)
  /-- R103: Inserts the low len bits of ga into gd at pos. -/
  | ins (d a : Reg) (lenm pos : BitVec 6)
  /-- R104: Writes ga + (gb << s). -/
  | lea (d a b : Reg) (sh : BitVec 3)
  /-- R105: Writes PC + off19 × 4 to gd. -/
  | lpc (d : Reg) (off : BitVec 19)
  /-- R109: Loads a byte and sign-extends it. -/
  | ldI8 (look : BitVec 4) (d a : Reg) (imm : BitVec 10)
  /-- R109: Loads a byte and zero-extends it. -/
  | ldN8 (look : BitVec 4) (d a : Reg) (imm : BitVec 10)
  /-- R109: Loads a half and sign-extends it. -/
  | ldI16 (look : BitVec 4) (d a : Reg) (imm : BitVec 10)
  /-- R109: Loads a half and zero-extends it. -/
  | ldN16 (look : BitVec 4) (d a : Reg) (imm : BitVec 10)
  /-- R109: Loads a word and sign-extends it. -/
  | ldI32 (look : BitVec 4) (d a : Reg) (imm : BitVec 10)
  /-- R109: Loads a word and zero-extends it. -/
  | ldN32 (look : BitVec 4) (d a : Reg) (imm : BitVec 10)
  /-- R109: Loads a dword, including a counter snapshot from the counter window. -/
  | ld64 (look : BitVec 4) (d a : Reg) (imm : BitVec 10)
  /-- R110: Stores the low byte of gd. -/
  | st8 (d a : Reg) (imm : BitVec 14)
  /-- R110: Stores the low half of gd. -/
  | st16 (d a : Reg) (imm : BitVec 14)
  /-- R110: Stores the low word of gd. -/
  | st32 (d a : Reg) (imm : BitVec 14)
  /-- R110: Stores gd as a dword. -/
  | st64 (d a : Reg) (imm : BitVec 14)
  /-- R111: Loads two dwords from one 16-byte sector into gd and gb. -/
  | ldp (look : BitVec 4) (d a b : Reg) (off : BitVec 5)
  /-- R111: Stores gd and gb as one 16-byte access. -/
  | stp (d a b : Reg) (off : BitVec 5)
  /-- R114: Compares ga with gb and branches when the condition holds. -/
  | bCc (c : Cond) (a b : Reg) (off : BitVec 11)
  /-- R115: Decrements ga and branches while the result is nonzero. -/
  | dbnz (a : Reg) (off : BitVec 11)
  /-- R116: Jumps PC-relative. -/
  | j (off : BitVec 24)
  /-- R116: Writes PC + 4 to g31 and jumps PC-relative. -/
  | call (off : BitVec 24)
  /-- R116: Jumps to ga. -/
  | jr (a : Reg)
  /-- R116: Jumps to ga and writes PC + 4 to g31. -/
  | callr (a : Reg)
  /-- R107: Writes a sign-extended 46-bit immediate to gd. -/
  | li (d : Reg) (imm : BitVec 46)
  /-- R107: Writes imm32 to gd[63:32] and keeps gd[31:0]. -/
  | lih (d : Reg) (imm : BitVec 32)
  /-- R107: Writes ga + sext(imm32); the only prefixable 64-bit form. -/
  | addl (d a : Reg) (imm : BitVec 32)
  /-- R117: Compares and branches with a 32-bit word offset. -/
  | bCcLong (c : Cond) (a b : Reg) (off : BitVec 32)
  /-- R117: Jumps with a 32-bit word offset. -/
  | jLong (off : BitVec 32)
  /-- R117: Writes PC + 8 to g31 and jumps with a 32-bit word offset. -/
  | callLong (off : BitVec 32)
  /-- R46: Prefix word that modifies the rounding, saturation, format, flush and trap enables of the next instruction. -/
  | pfx (p : Pfx)
  /-- R129: Adds the active elements. -/
  | vadd (m : Mask) (t : VTy) (d a b : Reg)
  /-- R129: Subtracts the active elements. -/
  | vsub (m : Mask) (t : VTy) (d a b : Reg)
  /-- R129: Multiplies the active elements. -/
  | vmul (m : Mask) (t : VTy) (d a b : Reg)
  /-- R129: Writes the elementwise minimum. -/
  | vmin (m : Mask) (t : VTy) (d a b : Reg)
  /-- R129: Writes the elementwise maximum. -/
  | vmax (m : Mask) (t : VTy) (d a b : Reg)
  /-- R130: Computes the fused va × vb + vd with one rounding. -/
  | vfma (m : Mask) (t : VTy) (d a b : Reg)
  /-- R130: Computes the fused vd − va × vb with one rounding. -/
  | vfms (m : Mask) (t : VTy) (d a b : Reg)
  /-- R129: Divides floating-point elements. -/
  | vdiv (m : Mask) (t : VTy) (d a b : Reg)
  /-- R131: Writes the elementwise absolute value. -/
  | vabs (m : Mask) (t : VTy) (d a : Reg)
  /-- R131: Writes the elementwise negation. -/
  | vneg (m : Mask) (t : VTy) (d a : Reg)
  /-- R131: Writes the elementwise square root. -/
  | vsqrt (m : Mask) (t : VTy) (d a : Reg)
  /-- R131: Writes the elementwise reciprocal square root. -/
  | vrsq (m : Mask) (t : VTy) (d a : Reg)
  /-- R131: Writes 2^x elementwise. -/
  | vexp2 (m : Mask) (t : VTy) (d a : Reg)
  /-- R131: Writes log2 x elementwise. -/
  | vlog2 (m : Mask) (t : VTy) (d a : Reg)
  /-- R131: Writes the elementwise reciprocal. -/
  | vrcp (m : Mask) (t : VTy) (d a : Reg)
  /-- R132: ANDs the element bit patterns. -/
  | vand (m : Mask) (t : VTy) (d a b : Reg)
  /-- R132: ORs the element bit patterns. -/
  | vor (m : Mask) (t : VTy) (d a b : Reg)
  /-- R132: XORs the element bit patterns. -/
  | vxor (m : Mask) (t : VTy) (d a b : Reg)
  /-- R132: Computes va AND NOT vb on the element bit patterns. -/
  | vandn (m : Mask) (t : VTy) (d a b : Reg)
  /-- R133: Shifts integer elements left. -/
  | vshl (m : Mask) (t : VTy) (d a b : Reg)
  /-- R133: Shifts integer elements right logically. -/
  | vshr (m : Mask) (t : VTy) (d a b : Reg)
  /-- R133: Shifts integer elements right arithmetically. -/
  | vsra (m : Mask) (t : VTy) (d a b : Reg)
  /-- R134: Compares the elements and writes mask bits. -/
  | vcmp (c : VCond) (m : Mask) (t : VTy) (d a b : Reg)
  /-- R135: Selects each element from va or vb by the mask. -/
  | vsel (vm : BitVec 3) (t : VTy) (d a b : Reg)
  /-- R136: ANDs the mask bits. -/
  | mand (d a b : Reg)
  /-- R136: ORs the mask bits. -/
  | mor (d a b : Reg)
  /-- R136: XORs the mask bits. -/
  | mxor (d a b : Reg)
  /-- R136: Inverts the mask bits. -/
  | mnot (d a : Reg)
  /-- R136: Counts the set mask bits into gd. -/
  | mpop (d a : Reg)
  /-- R136: Writes the index of the lowest set mask bit, or 64, to gd. -/
  | mfirst (d a : Reg)
  /-- R137: Converts elements from type s to type t. -/
  | vcvt (m : Mask) (t s : VTy) (d a : Reg)
  /-- R138: Decodes view-k codes held in a register into type t. -/
  | vcvtFromView (m : Mask) (t : VTy) (k : BitVec 3) (d a : Reg)
  /-- R138: Encodes type-t elements into a view-k code stream. -/
  | vcvtToView (m : Mask) (t : VTy) (k : BitVec 3) (d a : Reg)
  /-- R139: Narrows two registers into one. -/
  | vpack (m : Mask) (t : VTy) (d a b : Reg)
  /-- R139: Widens one half of a register exactly. -/
  | vunpack (m : Mask) (t : VTy) (d a : Reg) (h : Bool)
  /-- R141: Permutes elements by the indices in vb. -/
  | vperm (m : Mask) (t : VTy) (d a b : Reg)
  /-- R141: Slides elements by gb. -/
  | vslide (m : Mask) (t : VTy) (d a b : Reg)
  /-- R142: Broadcasts ga to every element. -/
  | vbcast (m : Mask) (t : VTy) (d a : Reg)
  /-- R142: Extracts one element to gd. -/
  | vextr (t : VTy) (d a b : Reg)
  /-- R142: Inserts ga into one element. -/
  | vins (t : VTy) (d a b : Reg)
  /-- R143: Writes ga + i × gb to element i. -/
  | vidx (m : Mask) (t : VTy) (d a b : Reg)
  /-- R145: Sums the participating elements by the fixed tree. -/
  | vredsum (vm : BitVec 3) (t : VTy) (d a : Reg)
  /-- R145: Reduces the participating elements to their maximum. -/
  | vredmax (vm : BitVec 3) (t : VTy) (d a : Reg)
  /-- R145: Reduces the participating elements to their minimum. -/
  | vredmin (vm : BitVec 3) (t : VTy) (d a : Reg)
  /-- R146: Writes the global index of the highest-ranked element. -/
  | vargmax (vm : BitVec 3) (t : VTy) (d a b : Reg)
  /-- R147: Writes the top k values and their indices to vd and v(d + 1). -/
  | vtopk (vm : BitVec 3) (t : VTy) (d a b : Reg)
  /-- R148: Sorts the lanes stably by key and writes the permutation and the key counts. -/
  | vbucket (vm : BitVec 3) (t : VTy) (d a : Reg)
  /-- R150: Block-quantises the elements of vd into a view with scales. -/
  | vquant (t : VTy) (d a : Reg)
  /-- R149: Multiplies the elements by the block scales of a view. -/
  | vscale (m : Mask) (t : VTy) (d a b : Reg)
  /-- R140: Stochastically rounds f32 elements onto the bf16 or f16 grid. -/
  | vsrnd (m : Mask) (t : VTy) (d a : Reg)
  /-- R140: Stochastically rounds f32 elements onto the grid of view k. -/
  | vsrndView (m : Mask) (k : BitVec 3) (d a : Reg)
  /-- R144: Copies the element bits. -/
  | vmov (m : Mask) (t : VTy) (d a : Reg)
  /-- R144: Fills the elements from a replicated 32-bit pattern. -/
  | vli (m : Mask) (t : VTy) (d : Reg) (imm : BitVec 32)
  /-- R153: Loads 64 bytes, or 16 view-decoded f32 lanes. -/
  | vld (look : BitVec 4) (m : Mask) (d a : Reg) (imm : BitVec 6)
  /-- R153: Loads one datum and broadcasts it. -/
  | vldb (look : BitVec 4) (d a : Reg) (imm : BitVec 6)
  /-- R154: Stores the active bytes, or the view-encoded lanes. -/
  | vst (vm : BitVec 3) (d a : Reg) (imm : BitVec 6)
  /-- R155: Performs a strided load. -/
  | vlds (m : Mask) (t : VTy) (d a b : Reg)
  /-- R155: Performs a strided store. -/
  | vsts (m : Mask) (t : VTy) (d a b : Reg)
  /-- R156: Gathers elements by the offsets in vb. -/
  | vgather (m : Mask) (t : VTy) (d a b : Reg)
  /-- R156: Scatters elements by the offsets in vb. -/
  | vscatter (m : Mask) (t : VTy) (d a b : Reg)
  /-- R168: Accumulates A × B into an accumulator in sequencer steps of 16. -/
  | tmma (look acc : BitVec 4) (a b : Reg)
  /-- R168: Accumulates transposed-A × B into an accumulator. -/
  | tmmat (look acc : BitVec 4) (a b : Reg)
  /-- R178: Writes +0 to the enabled accumulator elements. -/
  | tzero (look acc : BitVec 4)
  /-- R179: Loads an accumulator from memory. -/
  | tld (look acc : BitVec 4) (a : Reg)
  /-- R180: Stores the enabled accumulator elements to memory. -/
  | tst (look acc : BitVec 4) (a : Reg)
  /-- R174: Fetches and pins the lines of a region in the cluster cache. -/
  | tfetch (look : BitVec 4) (a : Reg)
  /-- R176: Releases the chunk's pins on a region. -/
  | tunpin (look : BitVec 4) (a : Reg)
  /-- R185: Writes a tile geometry register. -/
  | tgeom (look : BitVec 4) (n : BitVec 10) (a : Reg)
  /-- R182: Adds accumulator as into ad. -/
  | tadd (look acc src : BitVec 4)
  /-- R182: Scales the accumulator columns by vector lanes. -/
  | tscale (look acc : BitVec 4) (va : Reg)
  /-- R183: Copies one accumulator row into a vector. -/
  | trget (look acc : BitVec 4) (d a : Reg)
  /-- R183: Writes a vector into one accumulator row. -/
  | trput (look acc : BitVec 4) (a b : Reg)
  /-- R184: Reduces each accumulator row to its maximum. -/
  | trmax (look acc : BitVec 4) (d : Reg)
  /-- R184: Reduces each accumulator row to its sum. -/
  | trsum (look acc : BitVec 4) (d : Reg)
  /-- R181: Block-quantises an accumulator into a view. -/
  | tquant (look acc : BitVec 4) (a : Reg)
  /-- R194: Releases an add of gb[31:0] to a counter at commit. -/
  | kadd (a b : Reg)
  /-- R194: Releases an add of imm32 to a counter at commit. -/
  | kaddi (a : Reg) (imm : BitVec 32)
  /-- R195: Ends the chunk and sends a check-and-arm for the counter at commit. -/
  | kwait (a b : Reg)
  /-- R196: Reads a snapshot of a counter. -/
  | kread (look : BitVec 4) (d a : Reg)
  /-- R197: Ends the chunk and releases a draw from a loop counter pair. -/
  | kdraw (look : BitVec 4) (d a : Reg)
  /-- R198: Releases a set of a counter at commit (privileged). -/
  | kset (a b : Reg)
  /-- R201: Ends the chunk and performs a remote scratchpad read that returns the value. -/
  | rld (look : BitVec 4) (w : Size) (d a : Reg)
  /-- R201: Releases a remote scratchpad store at commit. -/
  | rst (w : Size) (a b : Reg)
  /-- R201: Ends the chunk and performs a remote add that returns the old value. -/
  | radd (look : BitVec 4) (w : Size) (d a b : Reg)
  /-- R201: Releases a posted remote add at commit, returning nothing. -/
  | raddPosted (w : Size) (a b : Reg)
  /-- R201: Ends the chunk and performs a remote compare-and-swap. -/
  | rcas (look : BitVec 4) (w : Size) (d a b : Reg)
  /-- R201: Ends the chunk and performs a remote swap. -/
  | rswp (look : BitVec 4) (w : Size) (d a b : Reg)
  /-- R203: Releases a posted atomic add to global memory. -/
  | padd (t : PTy) (a b : Reg)
  /-- R203: Releases a posted atomic minimum. -/
  | pmin (t : PTy) (a b : Reg)
  /-- R203: Releases a posted atomic maximum. -/
  | pmax (t : PTy) (a b : Reg)
  /-- R203: Releases a posted atomic OR. -/
  | por (t : PTy) (a b : Reg)
  /-- R204: Ends the current chunk after itself. -/
  | cut
  /-- R205: Ends the chunk before itself and opens a held region. -/
  | hold
  /-- R204: Closes the held region and ends the chunk. -/
  | unhold
  /-- R206: Squashes the chunk at once if a conflict has already doomed it. -/
  | chk
  /-- R207: Reads an engine register into gd. -/
  | xer (look : BitVec 4) (n : BitVec 10) (d : Reg)
  /-- R208: Checks the copy shadow set, ends the chunk and forks a copy transfer at commit. -/
  | xeGo (look : BitVec 4) (d : Reg)
  /-- R211: Checks the collective staging set, ends the chunk and binds it to an engine slot at commit. -/
  | ceGo (look : BitVec 4) (d : Reg)
  /-- R207: Writes ga to an engine register. -/
  | xew (n : BitVec 10) (a : Reg)
  /-- R323: An S write to ce.join that sends a JOINACK for a group being joined. -/
  | ceJoin (a : Reg)
  /-- R212: Requests to bind w cores into a bunch, ending the chunk. -/
  | compose (d a : Reg)
  /-- R309: Dissolves the bunch at commit. -/
  | release
  /-- R213: Writes the bunch's c0 and w to gd. -/
  | bq (d : Reg)
  /-- R215: Submits a child launch record at commit, ending the chunk. -/
  | launch (a : Reg)
  /-- R216: Has no effect. -/
  | nop
  /-- R216: Raises TRAP with TRAPVAL = n. -/
  | trap (n : BitVec 5)
  /-- R217: Returns from a trap to TRAPPC at the level in CAUSE.PPRIV. -/
  | tret
  /-- R216: Raises BRK, or stops the strand on a core armed by the debug unit. -/
  | brk (n : BitVec 5)
  /-- R217: Commits the chunk and stops the strand without completing the instance. -/
  | halt
  /-- R217: Ends the strand's instance when its chunk commits. -/
  | idle
  /-- R218: Reads a control register into gd. -/
  | sget (n : BitVec 12) (d : Reg)
  /-- R218: Writes a control register, cutting where Table 1.2 says so. -/
  | sset (n : BitVec 12) (a : Reg)
  /-- R219: After commit, writes a line back to its home and drops the issuer's cached copies. -/
  | lflush (a : Reg)
  /-- R220: After commit, drops every cached copy of a line on the module. -/
  | linv (a : Reg)
  /-- R221: Removes cached translations for the context; its commit waits for confirmation. -/
  | tlbinv (a : Reg)
  /-- R222: Writes the strand record in husk layout. -/
  | hsave (a : Reg)
  /-- R222: Loads a strand record for a following tret. -/
  | hload (a : Reg)
  /-- R223: Orders the strand's cross-module operations. -/
  | xfence
  /-- R57: A fetched word that is not an allocated encoding, or that has a nonzero unused field, raises ILLOP with the subcode of Table 2.20. -/
  | unallocatedEncoding (sub : BitVec 4) (val : Word)
  /-- R58: An instruction fetch from an unmapped, non-executable or window-region address raises PAGE, PROT or ADDR at that address. -/
  | instructionFetchFault (cause : BitVec 8) (sub : BitVec 4) (val : Word)
  /-- R245: Speculative sectors drain to homes as pending data, waiting for pending space. -/
  | pendingDrain (c : Sid)
  /-- R231: The arbiter grants a chunk, making its pending data committed and releasing its operations. -/
  | chunkGrant (c : Sid)
  /-- R234: A chunk squashed four times takes an arbiter's solo slot and starts its solo attempt. -/
  | soloSlotGrant (c : Sid)
  /-- R189: The result of a returning operation is written after commit, before the next chunk. -/
  | resultReturn (c : Sid)
  /-- R331: A chunk with a synchronous trap re-runs in stepping mode and ends before the trapping instruction. -/
  | steppingReexecution (c : Sid)
  /-- R330: The strand takes a trap at a chunk boundary, setting the trap registers and jumping to TVEC. -/
  | trapEntry (c : Sid)
  /-- R288: All strands of a quantum group reach their boundary and the events of Table 8.3 are placed. -/
  | quantumEnd (group : Nat)
  /-- R194: An add arrives at a counter's port and applies, saturating. -/
  | counterAdd (op : Nat)
  /-- R195: A kwait request atomically checks a counter and arms a wait. -/
  | checkAndArm (op : Nat)
  /-- R197: A draw is served atomically at the pair's port and returns a portion. -/
  | counterDraw (op : Nat)
  /-- R198: A kset sets a counter and satisfies the qualifying waits. -/
  | counterSet (op : Nat)
  /-- R285: An operation held because the spill ring was full or unusable is retried. -/
  | spillRetry (op : Nat)
  /-- R201: A remote scratchpad operation executes atomically at the owner's port between chunks. -/
  | remoteOperation (op : Nat)
  /-- R203: A posted atomic combines at the home level of its page. -/
  | postedAtomic (op : Nat)
  /-- R209: A forked copy takes a slot and starts once its wait counter qualifies. -/
  | copyTransferStart (x : Nat)
  /-- R209: A copy writes one 512-byte destination block and advances xe.ctr. -/
  | copyBlockWrite (x block : Nat)
  /-- R313: A collective operation starts once every full member has issued it and staging is free. -/
  | collectiveStart (k : Nat)
  /-- R320: An engine receives a partial and combines, holds or drops it by view number. -/
  | collectivePartial (die : Nat) (p : Partial)
  /-- R316: A collective writes its destination from staging, then writes ce.status and adds to ce.ctr. -/
  | collectiveComplete (k : Nat)
  /-- R317: Every 2 µs each working link sends a heartbeat flit. -/
  | heartbeatSend (port : Nat)
  /-- R317: A heartbeat from a remote module arrives. -/
  | heartbeat (mod : Nat)
  /-- R317: After 8 µs without heartbeats, a remote module's members turn suspect. -/
  | heartbeatTimeout (mod : Nat)
  /-- R317: A die of the module misses four of its own heartbeats and turns suspect. -/
  | dieHeartbeatMiss (die : Nat)
  /-- R324: A compute die reports a fatal error; its chunks are abandoned and it turns suspect. -/
  | dieFatalError (die : Nat)
  /-- R366: A SUSPECT(m) message marks member m suspect in the group entries that list it. -/
  | suspect (m : Nat)
  /-- R317: A PROPOSE message is acknowledged and held when its number is above the committed view. -/
  | propose (grp : Nat) (p : Proposal)
  /-- R317: An ACK reaches the proposer; when all full members have acknowledged, COMMIT is sent. -/
  | ack (grp num mod : Nat)
  /-- R317: A COMMIT for the held proposal arrives and the view is applied. -/
  | viewCommit (grp : Nat) (p : Proposal)
  /-- R317: The 50 µs proposal timer expires; non-acknowledging members are removed and the proposer proposes again or stalls. -/
  | proposalTimeout (grp : Nat)
  /-- R317: No COMMIT arrives within 100 µs and the proposer's module is marked suspect. -/
  | holdTimeout (grp : Nat)
  /-- R318: Management forces a stalled group to propose again without the majority rule. -/
  | force (grp : Nat)
  /-- R323: A JOINREQ asks the full members' hubs to admit a returning die as joining. -/
  | joinreq (grp m : Nat)
  /-- R323: A JOINACK makes the proposer list the joining member as full in the next view. -/
  | joinack (grp m : Nat)
  /-- R326: A port receives a 256-byte flit and checks its CRC and SEQ. -/
  | flitReceive (port : Nat) (f : Flit)
  /-- R327: A reported bad flit makes the sender resend from its replay buffer. -/
  | linkReplay (port lastGood : Nat)
  /-- R327: After 16 failed resends the port goes down and its traffic moves to other ports. -/
  | portDown (port : Nat)
  /-- R327: A Dexnieno port returns to service without resending abandoned operations. -/
  | portUp (port : Nat)
  /-- R328: A host read returns a line-atomic snapshot as HRDR. -/
  | hrd (off size : Nat)
  /-- R328: A host write is applied as one write event per line at its home. -/
  | hwr (t : HostTarget) (data : BitVec 512) (mask : BitVec 64)
  /-- R328: A host counter add is placed after every earlier HWR of the stream. -/
  | hcadd (handle : Nat) (amount : BitVec 32)
  /-- R252: A peer-tier read not completed within 20 µs returns the line poisoned. -/
  | peerReadTimeout (c : Sid)
  /-- R256: A walker translates through four table levels with line-atomic reads. -/
  | pageWalk (core : Nat) (va : Word)
  /-- R259: A threshold crossing writes a notification record and adds to NQCTR. -/
  | notificationRecord (die : Nat)
  /-- R260: A store waiting on write-block walks again after the tlbinv and proceeds. -/
  | writeBlockResume (c : Sid)
  /-- R174: A tfetch fill of a line completes, possibly after its chunk has ended. -/
  | tfetchFill (fill : Nat)
  /-- R262: A home slice reads and corrects each line once per 24 hours. -/
  | patrolScrub (pa : Nat) (r : ScrubResult)
  /-- R343: A site's corrected errors reach CETHRESH in a window and a repair entry is added. -/
  | cethreshReached (u : RepairUnit)
  /-- R344: A core, cluster or slice is moved to a spare site without renumbering. -/
  | liveRetirement (u : RepairUnit)
  /-- R375: Every 10 µs the launch unit rereads a queue descriptor it does not yet serve, beginning its hold when valid. -/
  | queuePoll (q : Nat)
  /-- R267: The launch unit reads the next record when the submission counter exceeds FETCHED. -/
  | recordFetch (q : Nat)
  /-- R290: After earlier launches retire, the context's mode changes to the record's. -/
  | modeChange (q : Nat)
  /-- R281: A waiting D1/D2 record takes its footprint once it is free. -/
  | footprintReserve (q : Nat)
  /-- R277: A node becomes ready when its counter reaches WVAL, and its predicate is read. -/
  | nodeReady (lid node : Nat)
  /-- R280: The die scheduler places a ready instance on a free slot. -/
  | instanceDispatch (lid node i core strand : Nat)
  /-- R278: A launch retires, frees its cores and adds RETAMT to RETCTR. -/
  | launchRetire (lid : Nat)
  /-- R283: A pool entry that has waited past PDELAY pre-empts victim occupancies. -/
  | preempt (lid victim core : Nat)
  /-- R286: A husked occupancy reloads, replays its spill entries and resumes. -/
  | huskResume (lid core : Nat)
  /-- R292: After a second mismatch the chunk runs on a third core and the dissenter is retired. -/
  | twinThirdRun (c : Sid) (hash : BitVec 64)
  /-- R345: A droop detector stretches a cluster cycle. -/
  | droopStretch (cluster : Nat)
  /-- R346: A cluster switches to steady 0.96 GHz over 2 µs. -/
  | clockModeChange (cluster : Nat)
  /-- R346: 2 µs after its last steady occupancy leaves, a cluster returns to elastic mode. -/
  | elasticReturn (cluster : Nat)
  /-- R372: Every 100 µs module power is sampled and elastic clocks are lowered above PLIMIT. -/
  | powerSample (watts hottest : Nat)
  /-- R372: After 1 ms over PLIMIT at 0.8 GHz, dispatch and resume stop. -/
  | dispatchThrottle
  /-- R372: A junction above 105 °C powers the module off. -/
  | junctionTrip (die : Nat)
  /-- R348: A core whose strands all wait enters its idle depth. -/
  | idleDepthEntry (core : Nat)
  /-- R349: A core wakes when a strand becomes able to run. -/
  | coreWake (core : Nat)
  /-- R358: An imprecise watch report reaches the named strand as a trap request. -/
  | watchDelivery (c : Sid)
  /-- R352: DBGCORE.HALT = 1 stops the core's strands at their next chunk end. -/
  | debugHalt (core : Nat)
  /-- R354: DBGCORE.HALT = 0 resumes the stopped strands. -/
  | debugResume (core : Nat)
  /-- R352: DBGSTOP CMD 1 stops every core of a launch. -/
  | dbgstopStop (lid : Nat)
  /-- R354: DBGSTOP CMD 2 resumes every core of a launch. -/
  | dbgstopResume (lid : Nat)
  /-- R352: A quiesced halt reaches STOPPED with QOPEN after 1 ms. -/
  | quiesceTimeout (core : Nat)
  /-- R350: A read of DBGREC returns and removes the oldest debug record dword. -/
  | dbgrecRead
  /-- R350: A read of DBGSTAT returns and clears RLOST. -/
  | dbgstatRead
  /-- R354: The debug unit writes a stopped strand's state in strand-record layout. -/
  | debugStateWrite (c : Sid) (off : Nat) (v : Word)
  /-- R355: A write of WPCTL arms a watchpoint, translating its base or leaving it pending. -/
  | watchpointArm (core n : Nat) (v : Word)
  /-- R359: A write of TRCTL.EN = 1 arms the trace and clears TRNEXT and TRLOST. -/
  | traceArm (v : Word)
  /-- R360: A start or stop condition on KIND, L or TIME starts or stops tracing. -/
  | traceTrigger (stop : Bool)
  /-- R361: A missing logged event after 10 ms, or an unlogged event, stops the launch. -/
  | replayDivergence (lid : Nat)
  /-- R363: A write of DUMPCTL writes a dump of a core, the trace ring or the debug registers. -/
  | dumpRequest (v : Word)
  /-- R350: A write to a debug or management register that has no row of its own stores its fields. -/
  | registerWrite (r : DebugReg) (v : Word)
  /-- R367: A cold start runs every stage, with full self-test and training. -/
  | coldStart (fails : List (List StartFailure))
  /-- R368: A requested warm start abandons the contexts and runs the warm stages. -/
  | warmStart (fails : List (List StartFailure))
  /-- R368: A warm start that keeps committed HBM and the key slots. -/
  | keepMemoryWarmStart (fails : List (List StartFailure))
  /-- R368: Power is lost and the next start is cold. -/
  | powerLoss
  /-- R263: Management loads an encryption key slot. -/
  | keySlotLoad (slot : Nat) (key : Nat)
  /-- R263: Management clears a key slot and its flag. -/
  | keySlotClear (slot : Nat)
  /-- R371: Management writes a configuration record or repair entry to the nonvolatile store. -/
  | storeWrite (w : StoreRecord)
  /-- R312: Management creates a group entry, and view 1 is then committed. -/
  | groupEntryCreate (grp : Nat) (quorum : Bool) (full : List Nat) (rest : NotFull)
  /-- R373: A signed token unlocks test access after clearing every key slot. -/
  | unlockToken (valid : Bool)
  /-- R278: The runtime ends a live launch through management. -/
  | launchTerminate (lid : Nat)
  /-- R217: The runtime restarts a strand that halt or an unhandled trap has stopped. -/
  | haltedStrandRestart (c : Sid)
  /-- R343: At every multiple of 86,400 × 10^9 of TIME a new 24-hour window of corrected-error counting begins for every site. -/
  | correctedErrorWindow
  /-- R373: Management writes a firmware image into the serial-flash slot that did not boot. -/
  | flashSlotWrite (slot version : Nat) (verifies : Bool)
  /-- R346: 2 µs after a change of clock mode began, the cluster's cores resume issuing at the new clock. -/
  | clockModeChangeEnd (cluster : Nat)
deriving DecidableEq, Repr

end Sys2Proof
end

