-- ==== Sys2Proof/Config.lean ====
section
/-! DEFINITION. What the spec leaves to the implementation or leaves open: the free values (opaque
constants: no statement can know them) and the choice of what happens next. -/

namespace Sys2Proof.Config

/-- Where an uncorrectable error strikes (R337, R338). The spec says what follows from each; no row of the
opcode table makes one happen, so it is something that the schedule brings. -/
inductive Upset where
  /-- a half-line of HBM at its home, by number PA ÷ 32. -/
  | halfLine (n : Nat)
  /-- a 32-bit word of a core's pool, by its pool key ÷ 4. -/
  | poolWord (core n : Nat)
  /-- a register of a strand: 1 to 31 for g, 32 to 63 for v (R339). -/
  | register (c : Sid) (n : Nat)
  /-- a counter of a core. -/
  | counter (core i : Nat)
  /-- a speculative sector of the strand's `k`-th chunk, counted from the oldest that has not committed. -/
  | sector (c : Sid) (k : Nat)
  /-- an undo entry (its granule) of such a chunk. -/
  | undoEntry (c : Sid) (k granule : Nat)
  /-- the shadow bank of such a chunk. -/
  | shadow (c : Sid) (k : Nat)
  /-- a line whose integrity tag no longer verifies, by number PA ÷ 64. -/
  | tag (line : Nat)
  /-- an error that the hardware corrects, at the site of a unit (R337). -/
  | corrected (u : RepairUnit)
deriving DecidableEq, Repr

/-- What happens next: a strand issues its next instruction, a device event takes place, `ns` of TIME pass,
a cluster's clock advances one cycle, an uncorrectable error strikes, a start runs a stage, or a debugger begins or ends the
replay of a launch (R361). -/
inductive Action where
  | issue (c : Sid)
  | event (i : Instr)
  | elapse (ns : Nat)
  | tick (cluster : Nat)
  | upset (u : Upset)
  /-- the start under way runs its next stage (R367). -/
  | stage
  /-- the launch to be replayed and the trace records of its order log, or the end of replay mode (R361). Log 110
  (DESIGN CHOICE). -/
  | replay (run : Option (Nat × List (List (BitVec 64))))
deriving DecidableEq, Repr

/-- What happens when the agenda of the state is empty: free (R7, R226, R238: grants, arrivals and issue come
in any order the rules allow). None: nothing happens. Log 1 (DESIGN CHOICE), 89 (DEDUCED), 124 (DESIGN CHOICE). -/
opaque schedule : Nat → Option Action

/-- A byte of another module's memory as a snapshot read returns it (R112, R251): free. Arguments: the draw
and the peer address. Log 9 (DESIGN CHOICE). -/
opaque peerByte : Nat → Nat → Byte

/-- The byte that a slot without a key gives of an encrypted line (R263, R340): key, address, plaintext.
Log 10 (DESIGN CHOICE). -/
opaque xts : Nat → Nat → Byte → Byte

/-- Which entry a full TLB or walker cache replaces (R256): free. Log 11 (DESIGN CHOICE). -/
opaque victim : Nat → Nat

/-- Whether the line request leaves the cluster, and so counts (R258, R259): free.
Log 12 (DESIGN CHOICE). -/
opaque leavesCluster : Nat → Nat → Bool

/-- Whether the cluster cache has a way left to pin the line in (R175; the spec gives its sets no number): free.
Arguments: the draw and the line. Log 13 (DESIGN CHOICE). -/
opaque wayLeft : Nat → Nat → Bool

/-- Whether a tie between two narrow codes whose mantissas are both even takes the upper (R84 gives no
result for it): free. Arguments: the format descriptor and the lower code.
Log 14 (DESIGN CHOICE). -/
opaque evenTieUp : Nat → Nat → Bool

/-- The payload of a flit (R326; its layout is not given): free. Log 15 (DESIGN CHOICE). -/
opaque flitBody : LinkMsg → Nat → Byte

/-- The module at the far end of a port's link (the manual fixes no wiring): free.
Log 16 (DESIGN CHOICE). -/
opaque farEnd : Nat → Nat

/-- Whether a source line of a copy was read when the transfer started rather than when its block is placed (R236
allows any point between): free. Arguments: the draw and the line. Log 17 (DESIGN CHOICE). -/
opaque readsEarly : Nat → Nat → Bool

/-- Whether a peer-tier source line of a copy has not come within 20 µs (R252): free. Arguments: the draw and the line.
Log 17 (DESIGN CHOICE). -/
opaque copyLate : Nat → Nat → Bool

/-- Whether the members of other modules agree with an operation (0), and whether their sources and destinations can be
used (1) (R313, R314): free, the same for every member. Arguments: which of the two, the group, the sequence number and
the view. Log 18 (DESIGN CHOICE). -/
opaque remoteOk : Nat → Nat → Nat → Nat → Bool

end Sys2Proof.Config
end

