-- ==== Sys2Proof/Machine/State.lean ====
section
/-! DEFINITION. The state of a KL9 module as plain data: strands with their chunks, cores, clusters, dies, the
hub's units, memory; the reasons a step can stop; and the state right after a cold start. -/

namespace Sys2Proof.Machine

/-- A finite map from numbers, as a list of pairs with strictly rising keys. -/
abbrev FMap (α : Type) := List (Nat × α)

/-- Memory: canonical cells (Ops and Map keep the form). Keys: a local-tier PA as it is, a host-tier PA plus
2^52 (`hostBase`). -/
abbrev Mem := List Host.Cell

/-- Why a step stops with a fault. -/
inductive Fault where
  /-- raised by an instruction of a program when the strand `cur` does not exist (R9). Safe: nothing runs. -/
  | noStrand
deriving DecidableEq, Repr

/-- Why an instruction has no meaning. -/
inductive Refusal where
  /-- raised by an arm of `exec` that has no meaning yet. Safe. -/
  | notModelled (mnemonic : String)
deriving DecidableEq, Repr

/-! ## Strands and chunks -/

/-- A trap: cause code and subcode (Table 13.1) and TRAPVAL. -/
structure Trap where
  code : BitVec 8
  sub : BitVec 4
  val : Word
deriving DecidableEq, Repr

/-- The state of a strand that a squash restores (R10, R12, Table 1.1). `cr` and `eng` hold the control and
engine registers by number (Tables 1.2, 1.1a); an absent number holds its reset value. -/
structure Arch where
  pc : Word
  g : FMap Word
  v : FMap V512
  cr : FMap Word
  eng : FMap Word
  /-- STATUS.PRIV: true is S (Table 1.3). -/
  priv : Bool
  /-- STATUS.STEP. -/
  step : Bool
  /-- poisoned register words by register number (R338, R339). -/
  bad : FMap Bool
deriving DecidableEq, Repr

/-- A register write that waits for its lookahead window to end (R45): the register (g 0 to 31, v 32 to 63),
its value, how many more instructions its window contains, and its place in program order. -/
structure Late where
  reg : Nat
  val : V512
  left : Nat
  born : Nat
deriving DecidableEq, Repr

/-- A write of an accumulator whose lookahead window is open (R45): elements 16 i + j with their codes, how many more
instructions its window contains, and whether its instruction has steps left (R172). -/
structure AccPend where
  els : List (Nat × Nat)
  left : Nat
  steps : Bool
deriving DecidableEq, Repr

/-- An accumulator with open windows: what the windows show of the elements written (code, poison), and the writes still
to show, oldest first (R45, R166, R172). -/
structure AccView where
  acc : Nat
  seen : List (Nat × Nat × Bool)
  pend : List AccPend
deriving DecidableEq, Repr

/-- An operation held until its chunk commits (R190, Table 7.2). -/
inductive Rel where
  | add (handle : Word) (amount : Nat)
  | set (handle : Word) (v : Word)
  | arm (handle : Word) (v : Word) (pc : Word)
  | draw (handle : Word) (pc : Word)
  /-- operation 0 rld, 1 rst, 2 radd, 3 rcas, 4 rswp; width in bytes; operand; compare value; returning. -/
  | remote (fn width : Nat) (ea data cmp : Word) (ret : Bool)
  /-- 0 add, 1 min, 2 max, 3 or through the pointer, with the key and leaf found at execution. -/
  | posted (fn : BitVec 2) (t : PTy) (va : Word) (key : Nat) (leaf : Word) (data : Word)
  | copy (set : FMap Word) (ident : Word)
  | coll (set : FMap Word) (ident : Word)
  | compose (w : Nat)
  | dissolve
  /-- the record's address and the launch that submits it. -/
  | launch (va : Word) (lid : Nat)
  | lineFlush (key : Nat)
  | lineInv (key : Nat)
  | tlbinv (arg : Word)
  | fence
  | join (grp : Nat)
  | quantum (v : Nat)
  | tret
  | idle
  | halt
deriving DecidableEq, Repr

/-- A watchpoint (R355): WPBASE, WPCTL, its translated place (a memory key, or an offset of the scratchpad),
and whether it waits for an occupancy. -/
structure Watch where
  base : Word
  ctl : Word
  place : Option (Bool × Nat)
  pending : Bool
deriving DecidableEq, Repr

/-- What a line written by a chunk needs at its home: key slot, replicated page (R248, R263). -/
structure LineInfo where
  key : Nat
  repl : Bool
  /-- the bunch member whose L1 holds it (R300). -/
  member : Nat
  /-- the pointer of the chunk's first store to each of its half-lines, by 0 and 1 (R339). -/
  ptrs : FMap Word
deriving DecidableEq, Repr

/-- A translation that a chunk used: context, page number VA[59:16], and whether it is that of a 512-MiB page (R257). -/
structure Page where
  ctx : Nat
  page : Nat
  big : Bool
deriving DecidableEq, Repr

/-- A chunk from its first instruction to its grant (R10 to R14, R231). -/
structure Chunk where
  /-- the shadow bank: the strand's state at the chunk's first instruction (R12). -/
  start : Arch
  /-- the quantum count at the chunk's start: a squashed attempt does not count (R331). -/
  quantum : Nat
  /-- CHUNKCTL.ENDCODE at its start: why the chunk before it ended (R12, R25). -/
  prevEnd : Nat
  retired : Nat
  /-- speculative bytes by memory key (R12, R244). -/
  writes : FMap Byte
  lines : FMap LineInfo
  rsig : BitVec 2048
  wsig : BitVec 2048
  /-- the widest arbiter its pages need: 0 none, 1 cluster, 2 die, 3 package (R230). -/
  scope : Nat
  /-- pool granules read and written (R14). -/
  poolR : FMap Bool
  poolW : FMap Bool
  /-- undo entries, newest first: granule, its 16 old bytes, poison of its 4 words (R12). -/
  undo : List (Nat × List Byte × List Bool)
  /-- operations released at commit, in program order (R191). -/
  ops : List Rel
  /-- lines that count as pinned (R174, R175), by number key ÷ 64, with the draw at which the line was fetched
  (R177), or 0 where no way was left to pin it. -/
  pins : FMap Nat
  /-- the translations it used (R257). -/
  pages : List Page
  /-- results of lookahead windows still open (R45). -/
  late : List Late
  /-- accumulators with open windows (R45). -/
  accs : List AccView
  /-- a prefix word whose pair has not executed yet (R46, R48). -/
  pfx : Option Pfx
  /-- the word after that prefix, as it was fetched and checked with it (R48). -/
  pair : Option W32
  /-- the operand pointers of a `tmma` or `tmmat` with steps left, as its first step of the chunk read them (R168). -/
  tile : Option (Word × Word)
  /-- VIEW.N during the chunk (R31). -/
  viewN : Nat
  held : Bool
  solo : Bool
  stepping : Bool
  /-- watchpoint and pointer of the first watched byte accessed, once a watch has matched (R356). -/
  watch : Option (Nat × Word)
  /-- the watchpoints in force during the chunk (R355: a write acts at the next boundary). -/
  watches : FMap Watch
  /-- the chunk ends after the instruction in progress, with this ENDCODE (R356, R374). -/
  mustEnd : Option Nat
  /-- speculative data has drained to the homes as pending data and the commit request is sent (R231, R245). -/
  drained : Bool
  /-- every TLB has removed what its `tlbinv` instructions name (R221, R257). -/
  purged : Bool
  endCode : Nat
  /-- half-lines that receive poison from a saved register at commit (R338). -/
  taint : List Nat
  /-- an undo entry or the shadow bank needed by a squash is uncorrectable (R338). -/
  badUndo : List Nat
  badShadow : Bool
  /-- cycles of this attempt in accounts 0 to 2 (R362). -/
  cycles : List Nat
deriving DecidableEq, Repr

/-- Whether a strand exists and can issue (R9, R189, R195, R217). -/
inductive RunState where
  /-- no instance: the strand does not exist or has ended. -/
  | none
  | ready
  /-- its chunk awaits a result (R189). -/
  | result
  | kwait
  /-- reached its quantum boundary (R288). -/
  | boundary
  /-- stopped by halt (false) or an unhandled trap (true) (R217, R333). -/
  | halted (unhandled : Bool)
  /-- its die is lost (R324). -/
  | lost
deriving DecidableEq, Repr

/-- The result a strand waits for (R189): register, and the value once it has arrived (none inside: the
operation was refused and the register stays). -/
structure Await where
  rd : Nat
  got : Option (Option Word)
deriving DecidableEq, Repr

/-- A kwait in progress (R195): handle, value and the address of the instruction. -/
structure KWait where
  handle : Word
  val : Word
  pc : Word
deriving DecidableEq, Repr

/-- An asynchronous cause that waits for a boundary (R332), with the address to report if it is not the next
instruction's. -/
structure Pending where
  trap : Trap
  pc : Option Word
deriving DecidableEq, Repr

/-- A commit arbiter (R230, Table 8.2). -/
inductive Arbiter where
  | core (l : Nat)
  | cluster (n : Nat)
  | die (d : Nat)
  | package
deriving DecidableEq, Repr

/-- A third run of a twin chunk (R292): the hashes of the two copies, and the spare site, by die, row and column. -/
structure ThirdRun where
  first : Word
  second : Word
  place : Nat × Nat × Nat
deriving DecidableEq, Repr

/-- A strand (R9). -/
structure Strand where
  arch : Arch
  run : RunState
  opened : Option Chunk
  /-- chunks that have ended, oldest first; one that has drained has requested its commit (R231). -/
  waiting : List Chunk
  /-- the synchronous trap to take once every chunk before it is granted; the chunk that raised it stays open until then
  where it is squashed for it (R228, R331). -/
  sync : Option Trap
  /-- asynchronous causes in arrival order (R332). -/
  pend : List Pending
  /-- a debug stop is requested, with the REASON of its record (R351, R352). -/
  debugReq : Option Nat
  parkReq : Bool
  preReq : Bool
  stopped : Bool
  parked : Bool
  await : Option Await
  kw : Option KWait
  /-- instructions retired since the last quantum end (R288). -/
  quantum : Nat
  chunkSeq : Nat
  sqcnt : Nat
  endCode : Nat
  ceStatus : Word
  /-- the number of its most recent ce.go operation (R211). -/
  ceLast : Nat
  /-- the next attempt runs in stepping mode (R331). -/
  stepping : Bool
  /-- the arbiter whose solo slot the next attempt needs (R234), and whether it has it. -/
  solo : Option Arbiter
  soloHeld : Bool
  /-- the strand of its core to whose solo chunk it has lost its slot, and that strand's CHUNKSEQ once that chunk has
  committed (R14, R234). -/
  soloAfter : Option (Nat × Nat)
  /-- the next instruction is the first of the trap handler (R333). -/
  handler : Bool
  idx : FMap Word
  lid : Nat
  node : Nat
  inst : Nat
  /-- the other copy of a twin instance, whether this is the first copy, and mismatches so far (R291). -/
  twin : Option (Sid × Bool)
  mismatch : Nat
  /-- of the first copy: its chunk runs a third time (R292). -/
  third : Option ThirdRun
  /-- number of `xfence` points it has released (R223). -/
  epoch : Nat
  /-- a peer-tier read of its next instruction has timed out (R252). -/
  peerLate : Bool
  /-- what the strand did since the last cycle: account 0 to 2 of R362. -/
  issued : Nat
  /-- dwords of its record that the debug unit has written while it is stopped, by offset (R354). -/
  written : FMap Word
  /-- its store waits at a write-blocked page: the translation, and whether `tlbinv` has removed it since (R260). -/
  blocked : Option (Page × Bool)
deriving DecidableEq, Repr

/-! ## Cores, clusters, dies -/

/-- A leaf translation held by a TLB (R256). -/
structure TlbEntry where
  ctx : Nat
  /-- VA[59:16] of the page's first 64 KiB. -/
  page : Nat
  big : Bool
  leaf : Word
deriving DecidableEq, Repr

/-- An armed wait on a counter (R195). -/
structure Arm where
  i : Nat
  val : Nat
  who : Sid
  ctx : Nat
deriving DecidableEq, Repr

/-- A bunch, as each of its members records it (R294). -/
structure Bunch where
  c0 : Nat
  w : Nat
  leader : Sid
deriving DecidableEq, Repr

/-- A core, by logical number (R8, R29). -/
structure Core where
  nstr : Nat
  nacc : Nat
  strands : FMap Strand
  /-- pool bytes: scratchpad by offset, accumulator a at 2^17 + 1,024 a (R17, R27). -/
  pool : FMap Byte
  /-- poisoned 32-bit words of the pool, by key ÷ 4 (R338). -/
  poolBad : FMap Bool
  /-- scratchpad bytes written since the launch took the core (Table 10.9). -/
  inUse : Nat
  ctr : FMap Word
  ctrBad : FMap Bool
  arms : List Arm
  /-- the launch that claims it (R265). -/
  claim : Option Nat
  /-- an occupancy of this launch is husked here (R284). -/
  husked : List Nat
  /-- the context for which a queue holds it (R375). -/
  hold : Option Nat
  /-- the first-fault latch (R334). -/
  latch : Option Nat
  bunch : Option Bunch
  tlb : List TlbEntry
  asleep : Bool
  /-- the idle depth in which it sleeps (R33, R348). -/
  depth : Nat
  /-- debug: DBGCORE fields (Table 14.2). -/
  armBrk : Bool
  dbgHalt : Bool
  quiesce : Bool
  qopen : Bool
  quiesceSince : Option Nat
  watches : FMap Watch
  /-- strand state has been lost here: the core's site is to be retired (R343). -/
  stateLoss : Bool
  /-- operations queued at the port of a stopped core, and held at a retirement (R344, R353). -/
  portQ : List Nat
  acct : FMap Nat
  /-- the member bank and its shadow copy, by register (R298): the leader's registers as of its last grant. -/
  bank : FMap V512
  bankShadow : FMap V512
deriving DecidableEq, Repr

/-- A cluster: CYCLE, clock mode (R32, R346), shared TLB (R256). -/
structure Cluster where
  cycle : Nat
  steady : Bool
  /-- TIME at which a mode change in progress ends, and the mode it leads to. -/
  changing : Option (Nat × Bool)
  /-- TIME since which no steady occupancy is there. -/
  idleSince : Option Nat
  tlb : List TlbEntry
deriving DecidableEq, Repr

/-- An entry of a die's access counter table (R258): context, page and count. -/
structure Access where
  ctx : Nat
  page : Nat
  /-- the page is one of 512 MiB; `page` is the number of its first 64 KiB. -/
  big : Bool
  count : Nat
deriving DecidableEq, Repr

/-- A notification record due (R259): context, page, kind, count, TIME of the crossing. -/
structure Notice where
  ctx : Nat
  page : Nat
  kind : Nat
  count : Nat
  stamp : Nat
deriving DecidableEq, Repr

/-- A compute die. -/
structure Die where
  lost : Bool
  access : List Access
  /-- pages that found the table full (R258). -/
  full : List (Nat × Nat)
  notices : List Notice
  /-- issue counts by group (R313). -/
  issue : FMap Nat
  /-- view numbers that a D1 or D2 quantum group still sees, by quantum group × 4,096 + group, and whether the latest
  committed view removed a full member (R319, R322). -/
  view : FMap (Nat × Bool)
  /-- elastic clock in MHz (R347). -/
  mhz : Nat
  /-- corrected errors of the window, by site (R343; `siteCode`). -/
  ce : FMap Nat
  /-- walker cache: context, level, table index path, entry (R256). -/
  walk : List (Nat × Nat × Nat × Word)
deriving DecidableEq, Repr

/-! ## The hub -/

/-- An operation in flight between its release and its place in commit order (R191, R235). -/
structure Op where
  /-- its place in the order of release. -/
  num : Nat
  src : Sid
  ctx : Nat
  rel : Rel
  /-- xfence points released before it (R223). -/
  epoch : Nat
  /-- it waits in the spill ring of its context (R285). -/
  spilled : Bool
  /-- it comes from an engine, a port or the launch unit, not from a strand (Table 10.1a). -/
  unit : Bool
  /-- the sending port holds it: the ring was full or unusable (R285). -/
  held : Bool
  /-- the quantum group that places it, or 0 at D0 (R239). -/
  grp : Nat
deriving DecidableEq, Repr

/-- Committed memory as it stood when a copy started (R236, R237). -/
structure Snap where
  mem : Mem
  poison : FMap Bool
  tags : FMap Nat
  cores : FMap Core
deriving DecidableEq, Repr

/-- State of a forked copy. -/
inductive CopyState where
  | queued | slotted | running
deriving DecidableEq, Repr

/-- A copy transfer (R208 to R210). -/
structure Copy where
  num : Nat
  ident : Word
  src : Sid
  ctx : Nat
  set : FMap Word
  st : CopyState
  /-- destination blocks already placed (VA ÷ 512). -/
  done : List Nat
  epoch : Nat
  grp : Nat
  snap : Option Snap
  /-- of its blocks and error reports sent to other modules, the module and the message number (R210, R240). -/
  sent : List (Nat × Nat)
  /-- blocks of another module that its completion add is to count, by module (R209, R210). -/
  owed : FMap Nat
deriving DecidableEq, Repr

/-- A collective operation bound to a die's slot (R211, R313). -/
structure Coll where
  num : Nat
  ident : Word
  src : Sid
  ctx : Nat
  set : FMap Word
  /-- collective group and sequence number; quantum group of the issuer. -/
  grp : Nat
  seq : Nat
  qgrp : Nat
  running : Bool
  /-- n of the view under which it started, and the view it now runs under (R321). -/
  n0 : Nat
  view : Nat
  changed : Bool
  slotted : Bool
  /-- it ends with STATE 6 (R313, R314). -/
  failed : Bool
  /-- the result in staging, once it is there, and how many 512-byte blocks of it are placed (R316). -/
  out : Option (List Byte)
  placed : Nat
deriving DecidableEq, Repr

/-- A member's group entry (Table 12.1) and its hub's view state (Table 12.3). -/
structure Group where
  valid : Bool
  quorum : Bool
  /-- 0 stable, 1 proposing, 2 holding, 3 stalled. -/
  state : Nat
  viewN : Nat
  leader : Nat
  nextSeq : Nat
  pendN : Nat
  full : List Nat
  joining : List Nat
  prop : Option Proposal
  acks : List Nat
  deadline : Nat
  joinReq : List Nat
  joinAck : List Nat
  /-- members that this hub suspects, until a view that omits them commits (R317, R366). -/
  suspects : List Nat
  /-- the first operation of a member that became full after view 1: NEXTSEQ of that view (R323). -/
  since : FMap Nat
deriving DecidableEq, Repr

/-- A flit kept for replay, with the operation's strand and fence epoch (R223, R327), and of a copy its context and the
address of its error word (R210). -/
structure Sent where
  flit : Flit
  src : Option (Sid × Nat)
  err : Option (Nat × Word)
deriving DecidableEq, Repr

/-- A Dexnieno port (R325 to R327): the SEQ of its last flit sent, the highest SEQ received in order, and its place in the
round of traffic classes (R326). -/
structure Port where
  up : Bool
  turn : Nat
  txSeq : Nat
  rxSeq : Nat
  fails : Nat
  buffer : List Sent
deriving DecidableEq, Repr

/-- A level of a launch's hierarchy (Table 10.4). -/
structure Level where
  twin : Bool
  scope : Nat
  domain : Nat
  fanout : Nat
deriving DecidableEq, Repr

/-- Progress of a node. -/
inductive NodeState where
  | waiting
  /-- its counter has reached WVAL; the predicate is not read yet (R277). -/
  | due
  | ready | skipped | done
deriving DecidableEq, Repr

/-- A node of a launch (Table 10.7) and its progress. -/
structure Node where
  entry : Word
  dctr : Nat
  wctr : Nat
  level : Nat
  count : Nat
  wval : Word
  damt : Nat
  pred : Word
  st : NodeState
  since : Nat
  /-- the first core of each instance placed so far (R280). -/
  sites : FMap Nat
  completed : Nat
deriving DecidableEq, Repr

/-- A husked occupancy (R284, R306): its core, the TIME of husking (R279), what the hub keeps of its strands beside
the husk slot, and the bunch that it led. -/
structure Husk where
  core : Nat
  since : Nat
  strands : FMap Strand
  kept : Option Bunch
  /-- an operation has found the spill ring unusable meanwhile (R285). -/
  unusable : Bool
deriving DecidableEq, Repr

/-- A live launch (R268 to R278). -/
structure Launch where
  lid : Nat
  queue : Option Nat
  parent : Option Nat
  ctx : Nat
  recVA : Word
  prio : Nat
  steady : Bool
  det : Nat
  nstr : Nat
  nacc : Nat
  anchor : Nat
  placeBase : Nat
  twinBase : Nat
  arg : Word
  lenm : Nat
  fcsr : Word
  seed : Word
  tvec : Word
  quantum : Nat
  viewg : Nat
  levels : List Level
  fmt : List Word
  retctr : Word
  retamt : Nat
  nodes : List Node
  /-- cores it took: footprint at D1 and D2, anchor and dispatched cores at D0. -/
  cores : List Nat
  /-- running instances: node, instance number, strands not yet ended. -/
  running : List (Nat × Nat × List Sid)
  husks : List Husk
  /-- instances stopped by halt or an unhandled trap. -/
  halted : List Sid
deriving DecidableEq, Repr

/-- A record read from a queue or a child launch, not yet accepted (R267, R274). -/
structure Rec where
  queue : Option Nat
  parent : Option Nat
  ctx : Nat
  va : Word
  dwords : List Word
  /-- TIME at which it was read (R283). -/
  since : Nat
  /-- what it describes, as the tables stood when it was checked (R270): none before the check and for KIND 1. -/
  body : Option Launch
deriving DecidableEq, Repr

/-- A queue of the launch unit (R266, R267, R375): the hub's copy of the RO fields of its descriptor. -/
structure Queue where
  served : Bool
  hold : Option Nat
  fetched : Nat
  errCount : Nat
  lastErr : Nat
  waitingRec : Option Rec
  polled : Nat
  /-- its descriptor has been read since the start, was invalid then, and the submission counter's value (R267, R375). -/
  read : Bool
  invalid : Bool
  seen : Nat
deriving DecidableEq, Repr

/-- The hub's copy of a context's RO fields (Table 10.1). -/
structure Context where
  put : Nat
  take : Nat
  dropped : Nat
  steady : Bool
  det : Nat
deriving DecidableEq, Repr

/-- An input from outside held for a quantum end (R237). -/
inductive Input where
  | add (handle : Word) (amount : Nat)
  | write (pa : Nat) (data : List Byte) (mask : BitVec 64)
  | block (src srcSeq ident pa : Nat) (bytes : List (Option (Byte × Bool)))
  | posted (src srcSeq : Nat) (who : Sid) (pa : Nat) (fn : BitVec 2) (t : PTy) (v : Word)
  /-- a copy's completion add from another module for a context, with the numbers of what must be placed before it. -/
  | after (src srcSeq ctx : Nat) (handle : Word) (amount : Nat) (blocks : List Nat)
deriving DecidableEq, Repr

/-- Launch unit and scheduler (chapter 10). -/
structure LaunchUnit where
  queues : FMap Queue
  contexts : FMap Context
  launches : FMap Launch
  nextLid : Nat
  /-- child records submitted and not yet processed. -/
  children : List Rec
  throttled : Bool
deriving DecidableEq, Repr

/-- Operations, copies and collectives between commit and their own events. -/
structure Engines where
  ops : List Op
  nextOp : Nat
  copies : List Copy
  colls : List Coll
  /-- partials received, by die (R320), and partials on their way to a die of the module. -/
  partials : List (Nat × Partial)
  flying : List (Nat × Partial)
  /-- fills of tfetch still to complete after their chunk: number and line key (R174). -/
  fills : List (Nat × Nat)
  /-- hub writes into husks that wait at a write-blocked page, oldest first: context, address, bytes (R192, R260). -/
  pokes : List (Nat × Word × List Byte)
deriving DecidableEq, Repr

/-- View unit, ports and host attachment (chapter 12). -/
structure Links where
  groups : FMap Group
  /-- TIME of the last heartbeat from each module. -/
  beats : FMap Nat
  ports : FMap Port
  routes : FMap Nat
  applied : List (Nat × Nat)
  inputs : List Input
  uciModules : Nat
  hostErr : Nat
  /-- the last HRDR: data bytes and the error flag. -/
  hrdr : Option (List Byte × Bool)
  /-- view messages sent, newest first: destination module, group, kind, number. -/
  sent : List (Nat × Nat × Nat × Nat)
  /-- view messages and collective partials for members of other modules that no working port can take yet (R327). -/
  held : List (Nat × LinkMsg)
  nextSrcSeq : Nat
deriving DecidableEq, Repr

/-- An imprecise watch report on its way to its strand (R357, R358): core, watchpoint, WPCTL, subcode, ADDR and
TRAPVAL. -/
structure Report where
  core : Nat
  wp : Nat
  ctl : Word
  sub : Nat
  addr : Word
  source : Word
deriving DecidableEq, Repr

/-- A run that is being replayed (R361): its launch, the trace records still to come, and TIME of the last event placed. -/
structure Replay where
  lid : Nat
  log : List (List Word)
  since : Nat
deriving DecidableEq, Repr

/-- The debug unit (chapter 14): registers by name, record queue, trace. -/
structure Debug where
  sel : Word
  reports : List Report
  stopLid : Nat
  records : List (List Word)
  recPos : Nat
  rlost : Nat
  trctl : Word
  trstart : Word
  trstop : Word
  trbase : Word
  trsize : Word
  trnext : Nat
  trlost : Nat
  tracing : Bool
  traceOver : Bool
  /-- the trace has stopped because its ring was full (R359). -/
  traceCut : Bool
  /-- TIME at which a condition on TIME has started the trace, no event being recorded since, and at which one has stopped it
  before it had started (R360). -/
  traceBegan : Option Nat
  traceEnded : Option Nat
  /-- records of the order log that found no room: dwords 0, 1, 2 and 3 (R361). -/
  trwait : List (Nat × Nat × Nat × Nat)
  /-- position in the commit order of each source (ORDERSEQ, Table 14.4). -/
  orderSeq : FMap Nat
  /-- replay mode (R361). -/
  replay : Option Replay
  dumpctl : Word
  dumpbuf : Word
  dumplen : Word
  dumpstat : Word
  /-- what the last read of DBGREC or DBGSTAT returned: the model's own. -/
  lastRead : Word
deriving DecidableEq, Repr

/-- A start under way (R367 to R370): its kind, the stage to run next, the starts made since the request, the kinds to go on
with if it fails, and the failures of this start and of those. -/
structure StartRun where
  kind : Nat
  stage : Nat
  tries : Nat
  retry : List Nat
  fails : List (List StartFailure)
deriving DecidableEq, Repr

/-- A unit that is to be retired once its strands rest (R343, R344): the reason, and the place where a third run has chosen it
(R292). -/
structure Move where
  unit : RepairUnit
  reason : Nat
  place : Option (Nat × Nat × Nat)
deriving DecidableEq, Repr

/-- Start-up, store, management (chapters 13 and 17). -/
structure Boot where
  powered : Bool
  bootstat : Word
  /-- the start that runs, if one does. -/
  start : Option StartRun
  nextCold : Bool
  /-- the configuration in force: dwords 0 to 3 of Table 17.3. -/
  conf : FMap Word
  /-- the store's configuration record. -/
  store : FMap Word
  /-- the repair map in force: die × 512 + index (Table 13.4), and the store's, which a start loads (Table 17.1). -/
  repair : FMap Word
  repairStore : FMap Word
  keys : FMap Nat
  flagged : FMap Bool
  /-- firmware slots: version and whether the image verifies; the slot that booted (R373). -/
  flash : FMap (Nat × Bool)
  bootSlot : Nat
  testLocked : Bool
  /-- the 24-hour window of corrected-error counting that TIME was last seen in (R343). -/
  window : Nat
  /-- repair entries marked UNAVAIL that the next cold start takes: die and entry (R344). -/
  doomed : List (Nat × Word)
  /-- live retirements under way (R344). -/
  moves : List Move
  /-- the management mailbox beside its BOOTSTAT dword (R329, R373). -/
  mailbox : FMap Byte
  /-- TIME since which power exceeds PLIMIT with every elastic die at 0.8 GHz (R372). -/
  overSince : Option Nat
deriving DecidableEq, Repr

/-- The module. -/
structure State where
  /-- the strand whose instruction `exec` runs: the model's own. -/
  cur : Sid
  /-- what happens next: the model's own. -/
  agenda : List Config.Action
  /-- how many free values have been drawn: the model's own. -/
  draws : Nat
  /-- TIME in ns (R32). -/
  time : Nat
  mem : Mem
  /-- poisoned half-lines by number key ÷ 32 (R262). -/
  poison : FMap Bool
  /-- the key under which a line's tag was made, plus 1, by key ÷ 64; 0 or absent: no tag (R263). -/
  tags : FMap Nat
  cores : FMap Core
  clusters : FMap Cluster
  dies : FMap Die
  solo : List (Arbiter × Sid)
  lu : LaunchUnit
  eng : Engines
  net : Links
  dbg : Debug
  boot : Boot
deriving DecidableEq, Repr

/-! ## Values at reset -/

/-- A strand's registers where nothing is written: zero, control registers at their reset values. -/
def Arch.reset : Arch :=
  { pc := 0, g := [], v := [], cr := [], eng := [], priv := false, step := false, bad := [] }

/-- A strand with no instance (R40). Log 6 (DESIGN CHOICE). -/
def Strand.reset : Strand :=
  { arch := Arch.reset, run := .none, opened := none, waiting := [], sync := none, pend := [],
    debugReq := none, parkReq := false, preReq := false, stopped := false, parked := false,
    await := none, kw := none, quantum := 0, chunkSeq := 0, sqcnt := 0, endCode := 0, ceStatus := 0, ceLast := 0,
    stepping := false, solo := none, soloHeld := false, soloAfter := none, handler := false, idx := [], lid := 0,
    node := 0, inst := 0, twin := none, mismatch := 0, third := none, epoch := 0, peerLate := false, issued := 1, written := [],
    blocked := none }

/-- A core idle at depth 1 with no context (R40). Log 8 (DEDUCED). -/
def Core.reset : Core :=
  { nstr := 0, nacc := 0, strands := [], pool := [], poolBad := [], inUse := 0, ctr := [], ctrBad := [],
    arms := [], claim := none, husked := [], hold := none, latch := none, bunch := none,
    tlb := [], asleep := true, depth := 1, armBrk := false, dbgHalt := false, quiesce := false,
    qopen := false, quiesceSince := none, watches := [], stateLoss := false, portQ := [], acct := [],
    bank := [], bankShadow := [] }

/-- A cluster after a cold start: elastic, CYCLE 0 (R32, R40). Log 8 (DEDUCED). -/
def Cluster.reset : Cluster := { cycle := 0, steady := false, changing := none, idleSince := none, tlb := [] }

/-- A compute die after a cold start (R345: 1.1 GHz). Log 8 (DEDUCED). -/
def Die.reset : Die :=
  { lost := false, access := [], full := [], notices := [], issue := [], view := [],
    mhz := 1100, ce := [], walk := [] }

/-- A trained port (R325). Log 6 (DESIGN CHOICE). -/
def Port.reset : Port := { up := true, turn := 0, txSeq := 0, rxSeq := 0, fails := 0, buffer := [] }

/-- A queue not yet served (R266). -/
def Queue.reset : Queue :=
  { served := false, hold := none, fetched := 0, errCount := 0, lastErr := 0, waitingRec := none, polled := 0,
    read := false, invalid := false, seen := 0 }

/-- A context with no launch: D0, elastic, empty spill ring (Table 10.1). -/
def Context.reset : Context := { put := 0, take := 0, dropped := 0, steady := false, det := 0 }

/-- A group number with no entry (Table 12.1). -/
def Group.reset : Group :=
  { valid := false, quorum := false, state := 0, viewN := 0, leader := 0, nextSeq := 0, pendN := 0,
    full := [], joining := [], prop := none, acks := [], deadline := 0, joinReq := [], joinAck := [], suspects := [], since := [] }

/-- An unset watchpoint (Table 14.2). Log 6 (DESIGN CHOICE). -/
def Watch.reset : Watch := { base := 0, ctl := 0, place := none, pending := false }

/-- The module right after a cold start from an unwritten store: BOOTSTAT says ready at stage 8 after one
start (R367, R369, R371), HBM zero, no launch, no context.
Log 6 (DESIGN CHOICE), 7 (DESIGN CHOICE). -/
def State.reset : State :=
  { cur := ⟨0, 0⟩, agenda := [], draws := 0, time := 0, mem := [], poison := [], tags := [],
    cores := [], clusters := [], dies := [], solo := [],
    lu := { queues := [], contexts := [], launches := [], nextLid := 1, children := [], throttled := false },
    eng := { ops := [], nextOp := 0, copies := [], colls := [], partials := [], flying := [], fills := [], pokes := [] },
    net := { groups := [], beats := [], ports := [], routes := [], applied := [],
             inputs := [], uciModules := 8, hostErr := 0, hrdr := none, sent := [], held := [], nextSrcSeq := 0 },
    dbg := { sel := 0, reports := [], stopLid := 0, records := [], recPos := 0, rlost := 0, trctl := 0, trstart := 0,
             trstop := 0, trbase := 0, trsize := 0, trnext := 0, trlost := 0, tracing := false,
             traceOver := false, traceCut := false, traceBegan := none, traceEnded := none, trwait := [], orderSeq := [], replay := none, dumpctl := 0, dumpbuf := 0, dumplen := 0, dumpstat := 0, lastRead := 0 },
    boot := { powered := true, bootstat := 0x0000FFFF00010108, start := none, nextCold := false,
              conf := [(2, 1), (3, 3000)], store := [(2, 1), (3, 3000)], repair := [], repairStore := [], keys := [],
              flagged := [], flash := [(0, (1, true))], bootSlot := 0, testLocked := true, window := 0, doomed := [], moves := [], mailbox := [],
              overSince := none } }

end Sys2Proof.Machine
end

