-- ==== Sys2Proof/Machine/Map.lean ====
section
/-! DEFINITION. Finite maps and memory: reading, writing, canonical form; little-endian assembly (R2). -/

namespace Sys2Proof.Machine

/-- The entry at `k`. -/
def ffind {α : Type} : FMap α → Nat → Option α
  | [], _ => none
  | (a, v) :: t, k => if a = k then some v else ffind t k

/-- The entry at `k`, or `d`. -/
def fget {α : Type} (m : FMap α) (d : α) (k : Nat) : α := (ffind m k).getD d

/-- `m` with `v` at `k`; the keys stay strictly rising. -/
def fset {α : Type} : FMap α → Nat → α → FMap α
  | [], k, v => [(k, v)]
  | (a, w) :: t, k, v =>
    if k < a then (k, v) :: (a, w) :: t else if a = k then (k, v) :: t else (a, w) :: fset t k v

/-- `m` without `k`. -/
def fdel {α : Type} : FMap α → Nat → FMap α
  | [], _ => []
  | (a, v) :: t, k => if a = k then t else (a, v) :: fdel t k

/-- The keys rise strictly from above `lo`. -/
def risingFrom {α : Type} : Nat → FMap α → Bool
  | _, [] => true
  | lo, (a, _) :: t => decide (lo ≤ a) && risingFrom (a + 1) t

/-- What a byte of memory that nothing has written reads as: zero (R367 for HBM).
Log 3 (DESIGN CHOICE). -/
def Mem.unlisted : Byte := 0

/-- The byte at a memory key. -/
def Mem.read (m : Mem) (a : Nat) : Byte := fget m Mem.unlisted a

/-- Memory with the byte `b` at `a`, in canonical form. -/
def Mem.write (m : Mem) (a : Nat) (b : Byte) : Mem := if b = Mem.unlisted then fdel m a else fset m a b

/-- The canonical form: strictly rising addresses, no entry equal to what an unlisted address reads as. -/
def Mem.wf (m : Mem) : Bool := risingFrom 0 m && m.all fun c => c.2 != Mem.unlisted

/-- Consecutive bytes from `a`. -/
def Mem.bytes (m : Mem) (a : Nat) : Nat → List Byte
  | 0 => []
  | n + 1 => m.read a :: Mem.bytes m (a + 1) n

/-- Memory with consecutive bytes from `a`. -/
def Mem.store (m : Mem) (a : Nat) : List Byte → Mem
  | [] => m
  | b :: t => Mem.store (m.write a b) (a + 1) t

/-- Memory with every pair of `w` written in order. -/
def Mem.apply (m : Mem) : FMap Byte → Mem
  | [] => m
  | (a, b) :: t => Mem.apply (m.write a b) t

/-- The number whose little-endian bytes are the list (R2). -/
def leNat : List Byte → Nat
  | [] => 0
  | b :: t => b.toNat + 256 * leNat t

/-- `n` little-endian bytes of a number (R2). -/
def leBytes : Nat → Nat → List Byte
  | 0, _ => []
  | n + 1, x => BitVec.ofNat 8 x :: leBytes n (x / 256)

/-- Sixty-four bits from little-endian bytes. -/
def leWord (l : List Byte) : Word := BitVec.ofNat 64 (leNat l)

/-- `[lo, lo + n)` in rising order. -/
def upto (lo : Nat) : Nat → List Nat
  | 0 => []
  | n + 1 => lo :: upto (lo + 1) n

/-- Bit field `hi:lo` of a word as a number (R2). -/
def bits (w : Word) (hi lo : Nat) : Nat := (w.toNat >>> lo) % 2 ^ (hi - lo + 1)

/-- Bit `n` of a word. -/
def bitOf (w : Word) (n : Nat) : Bool := w.toNat.testBit n

/-- A word as a signed number. -/
def sgn (w : Word) : Int := w.toInt

/-- An integer modulo 2^64. -/
def ofI (x : Int) : Word := BitVec.ofInt 64 x

/-- Entry `i` of a list, or `d`. -/
def nth {α : Type} (l : List α) (d : α) (i : Nat) : α := (l[i]?).getD d

/-- A list with entry `i` replaced. -/
def setNth {α : Type} (l : List α) (i : Nat) (v : α) : List α := l.set i v

/-- Is the number a power of two from 1 to 32,768 (Tables 9.7, 10.1, 10.2)? -/
def ringSize (n : Nat) : Bool := (upto 0 16).any fun k => n == 2 ^ k

end Sys2Proof.Machine
end

