-- ==== Sys2Proof/Machine/Crypt.lean ====
section
/-! DEFINITION. The encryption of local-tier lines (R263): AES-256, XTS with one 16-byte sector per data unit, and the GMAC tag.
The spec names the algorithms; their steps are those of FIPS 197, IEEE 1619 and SP 800-38D. Log 118 (PRESUMED). -/

namespace Sys2Proof.Machine

/-! ## AES-256 (FIPS 197) -/

/-- Doubling in GF(2^8). -/
def xtime (a : Nat) : Nat := if a < 128 then 2 * a else (2 * a - 256) ^^^ 0x1B

/-- The product in GF(2^8), bit by bit of the second factor from bit `i` down. -/
def gfMul (a b : Nat) : Nat → Nat
  | 0 => 0
  | i + 1 => xtime (gfMul a (b / 2) i) ^^^ (if b % 2 = 1 then a else 0)

/-- The product in GF(2^8). -/
def gf (a b : Nat) : Nat := gfMul a b 8

/-- x to the power 254, the inverse of a nonzero byte. -/
def gfInv (x : Nat) : Nat :=
  let p := fun (y : Nat) => gf (gf y y) x
  let y := p (p (p (p (p (p x)))))
  gf y y

/-- A byte rotated left. -/
def rotByte (x n : Nat) : Nat := (x * 2 ^ n + x / 2 ^ (8 - n)) % 256

/-- The S-box and its inverse. -/
def subByte (x : Nat) : Nat :=
  let y := gfInv x
  y ^^^ rotByte y 1 ^^^ rotByte y 2 ^^^ rotByte y 3 ^^^ rotByte y 4 ^^^ 0x63

def invSubByte (x : Nat) : Nat := gfInv (rotByte x 1 ^^^ rotByte x 3 ^^^ rotByte x 6 ^^^ 0x05)

/-- Byte by byte exclusive or. -/
def xorBytes (a b : List Nat) : List Nat := List.zipWith (· ^^^ ·) a b

/-- Words of the key schedule, newest first: word `i`, then `n` more. -/
def expandFrom : Nat → Nat → Nat → List (List Nat) → List (List Nat)
  | 0, _, _, ws => ws
  | n + 1, i, rcon, ws =>
    let t := ws.headD []
    let u := if i % 8 = 0 then xorBytes ((t.drop 1 ++ t.take 1).map subByte) [rcon, 0, 0, 0]
      else if i % 8 = 4 then t.map subByte else t
    expandFrom n (i + 1) (if i % 8 = 0 then xtime rcon else rcon) (xorBytes (nth ws [] 7) u :: ws)

/-- The 15 round keys of a 32-byte key. -/
def roundKeys (key : List Nat) : List (List Nat) :=
  let ws := (expandFrom 52 8 1 (((upto 0 8).map fun i => (key.drop (4 * i)).take 4).reverse)).reverse
  (upto 0 15).map fun r => ((ws.drop (4 * r)).take 4).flatten

/-- Moves byte r + 4c of a block from column c + r, or back with `c + 3r`. -/
def shiftRows (back : Bool) (b : List Nat) : List Nat :=
  (upto 0 16).map fun k => nth b 0 (k % 4 + 4 * ((k / 4 + (if back then 3 else 1) * (k % 4)) % 4))

/-- Multiplies each column by the circulant matrix with this first row. -/
def mixColumns (row : List Nat) (b : List Nat) : List Nat :=
  (upto 0 16).map fun k => (upto 0 4).foldl (fun x j => x ^^^ gf (nth b 0 (k / 4 * 4 + j)) (nth row 0 ((j + 4 - k % 4) % 4))) 0

/-- AES-256 of a 16-byte block. -/
def aesEnc (key b : List Nat) : List Nat :=
  match roundKeys key with
  | [] => b
  | k0 :: ks =>
    let s := (ks.take 13).foldl (fun s k => xorBytes (mixColumns [2, 3, 1, 1] (shiftRows false (s.map subByte))) k) (xorBytes b k0)
    xorBytes (shiftRows false (s.map subByte)) (nth ks [] 13)

/-- Its inverse. -/
def aesDec (key b : List Nat) : List Nat :=
  match (roundKeys key).reverse with
  | [] => b
  | k14 :: ks =>
    let s := (ks.take 13).foldl (fun s k => mixColumns [14, 11, 13, 9] (xorBytes ((shiftRows true s).map invSubByte) k))
      (xorBytes b k14)
    xorBytes ((shiftRows true s).map invSubByte) (nth ks [] 13)

/-! ## Key slots and lines (R263) -/

/-- Bytes of a number, least significant first. -/
def numBytes (n x : Nat) : List Nat := (upto 0 n).map fun i => x / 256 ^ i % 256

/-- The parts of a slot's key material: the two XTS keys, bits 255:0 and 511:256, and the tag key, bits 767:512. -/
def dataKey (m : Nat) : List Nat := numBytes 32 m
def tweakKey (m : Nat) : List Nat := numBytes 32 (m / 2 ^ 256)
def tagKey (m : Nat) : List Nat := numBytes 32 (m / 2 ^ 512)

/-- XTS of one 16-byte sector at an address, in one direction or the other. -/
def xtsSector (dir : List Nat → List Nat → List Nat) (m pa : Nat) (b : List Nat) : List Nat :=
  let t := aesEnc (tweakKey m) (numBytes 16 (pa / 16 % 2 ^ 48))
  xorBytes (dir (dataKey m) (xorBytes b t)) t

/-- XTS of a line of 64 bytes. -/
def xtsLine (dir : List Nat → List Nat → List Nat) (m pa : Nat) (l : List Byte) : List Byte :=
  (upto 0 4).flatMap fun k =>
    (xtsSector dir m (pa + 16 * k) (((l.drop (16 * k)).take 16).map fun b => b.toNat)).map fun x => BitVec.ofNat 8 x

/-- The product in the field of GHASH; blocks are numbers, first byte highest. -/
def ghashMul (x : Nat) : Nat → Nat → Nat → Nat
  | 0, z, _ => z
  | i + 1, z, v =>
    ghashMul x i (if x.testBit i then z ^^^ v else z) (if v % 2 = 1 then (v / 2) ^^^ 0xE1000000000000000000000000000000 else v / 2)

/-- A block as a number, first byte highest. -/
def blockNum (l : List Nat) : Nat := l.foldl (fun n b => n * 256 + b) 0

/-- The 32-bit tag of the ciphertext of a line: GMAC, truncated to bits 31:0. -/
def gmacTag (m pa : Nat) (l : List Byte) : Nat :=
  let h := blockNum (aesEnc (tagKey m) (List.replicate 16 0))
  let blocks := (upto 0 4).map (fun k => blockNum (((l.drop (16 * k)).take 16).map fun b => b.toNat)) ++ [512 * 2 ^ 64]
  let s := blocks.foldl (fun y b => ghashMul (y ^^^ b) 128 0 h) 0
  let j0 := (numBytes 12 (pa / 64 % 2 ^ 46)).reverse ++ [0, 0, 0, 1]
  (blockNum (aesEnc (tagKey m) j0) ^^^ s) % 2 ^ 32

end Sys2Proof.Machine
end

