-- ==== Sys2Proof/Machine/Regs.lean ====
section
/-! DEFINITION. Getting at strands, cores and launches, and the registers: general, vector, control (Table 1.2)
and engine registers (Tables 6.1, 7.5, 7.6). -/

namespace Sys2Proof.Machine

/-! ## Parts of the state -/

/-- Core `l`. -/
def State.core (s : State) (l : Nat) : Core := fget s.cores Core.reset l

/-- The state with core `l` replaced. -/
def State.setCore (s : State) (l : Nat) (c : Core) : State := { s with cores := fset s.cores l c }

/-- A strand. -/
def State.strand (s : State) (c : Sid) : Strand := fget (s.core c.core).strands Strand.reset c.strand

/-- The state with a strand replaced. -/
def State.setStrand (s : State) (c : Sid) (st : Strand) : State :=
  s.setCore c.core { s.core c.core with strands := fset (s.core c.core).strands c.strand st }

/-- The strand whose instruction runs. -/
def State.me (s : State) : Strand := s.strand s.cur

/-- The state with that strand replaced. -/
def State.setMe (s : State) (st : Strand) : State := s.setStrand s.cur st

/-- The cluster of a core, numbered die × 200 + lc (R29). -/
def clusterOf (l : Nat) : Nat := l / 16

/-- The die of a core (R29). -/
def dieOf (l : Nat) : Nat := l / 3200

/-- Cluster `n`. -/
def State.cluster (s : State) (n : Nat) : Cluster := fget s.clusters Cluster.reset n

/-- The state with cluster `n` replaced. -/
def State.setCluster (s : State) (n : Nat) (c : Cluster) : State := { s with clusters := fset s.clusters n c }

/-- Die `d`. -/
def State.die (s : State) (d : Nat) : Die := fget s.dies Die.reset d

/-- The state with die `d` replaced. -/
def State.setDie (s : State) (d : Nat) (x : Die) : State := { s with dies := fset s.dies d x }

/-- The live launch of a number. -/
def State.launch (s : State) (lid : Nat) : Option Launch := (ffind s.lu.launches lid).map fun x => { x with lid := lid }

/-- The state with live launch `lid` replaced. -/
def State.setLaunch (s : State) (lid : Nat) (x : Launch) : State :=
  { s with lu := { s.lu with launches := fset s.lu.launches lid x } }

/-- The determinism level of a launch: 0 D0, 1 D1, 2 D2 (R287). -/
def detOf (s : State) (lid : Nat) : Nat := match s.launch lid with | some x => x.det | none => 0

/-- Does the strand run under the cut rules of D1 (R287, R291)? -/
def ordered (s : State) (st : Strand) : Bool := detOf s st.lid != 0 || st.twin.isSome

/-- The context of a launch, by descriptor address. -/
def ctxOf (s : State) (lid : Nat) : Nat := match s.launch lid with | some x => x.ctx | none => 0

/-- The context of a strand. -/
def State.ctx (s : State) (c : Sid) : Nat := ctxOf s (s.strand c).lid

/-- The launch whose quantum group a launch belongs to: its oldest ancestor (R274, R288). -/
def rootOf (s : State) : Nat → Nat → Nat
  | 0, lid => lid
  | n + 1, lid =>
    match s.launch lid with
    | some x => match x.parent with | some p => rootOf s n p | none => lid
    | none => lid

/-- The quantum group of a launch. -/
def groupOf (s : State) (lid : Nat) : Nat := rootOf s (s.lu.launches.length + 1) lid

/-- QUANTUM of a launch's group, at least 256 (R26, R287). Log 25 (DEDUCED). -/
def quantumOf (s : State) (lid : Nat) : Nat :=
  match s.launch (groupOf s lid) with | some x => Nat.max 256 x.quantum | none => 256

/-! ## Pool layout (R17, R27, Table 1.7) -/

/-- Kibibytes of the register files of `n` strands: 2,304 bytes each, rounded up. -/
def regFileKib (n : Nat) : Nat := (n * 2304 + 1023) / 1024

/-- SPKIB. -/
def Core.spkib (c : Core) : Nat := if c.nstr = 0 then 0 else 96 - regFileKib c.nstr - c.nacc

/-- Bytes of scratchpad. -/
def Core.spBytes (c : Core) : Nat := c.spkib * 1024

/-- The key of byte `off` of accumulator `a` in the pool map. -/
def accKey (a off : Nat) : Nat := 0x20000 + a * 1024 + off

/-! ## General and vector registers (R15, R16) -/

/-- gr; g0 reads zero. -/
def Arch.rg (a : Arch) (r : Reg) : Word := if r = 0 then 0 else fget a.g 0 r.toNat

/-- a with gr written; a write to g0 is discarded, and any other clears poison of the register. -/
def Arch.wg (a : Arch) (r : Reg) (x : Word) : Arch :=
  if r = 0 then a else { a with g := fset a.g r.toNat x, bad := fdel a.bad r.toNat }

/-- vr. -/
def Arch.rv (a : Arch) (r : Reg) : V512 := fget a.v 0 r.toNat

/-- a with vr written. -/
def Arch.wv (a : Arch) (r : Reg) (x : V512) : Arch :=
  { a with v := fset a.v r.toNat x, bad := fdel a.bad (32 + r.toNat) }

/-- Is register word `n` (g 1 to 31, v 32 to 63) poisoned (R338, R339)? -/
def Arch.poisoned (a : Arch) (n : Nat) : Bool := fget a.bad false n

/-- Writes a late result to its register, g 0 to 31, v 32 to 63 (R45). -/
def Late.apply (a : Arch) (l : Late) : Arch :=
  if l.reg < 32 then a.wg (BitVec.ofNat 5 l.reg) (l.val.truncate 64)
  else if l.reg < 64 then a.wv (BitVec.ofNat 5 (l.reg - 32)) l.val
  else a

/-! ## Control registers (Table 1.2) -/

/-- The reset value of a stored control register (Tables 1.2 to 1.6). -/
def crReset (n : Nat) : Word :=
  if n = 0x010 then 1 else if n = 0x021 then 0xF00 else if n = 0x070 then 1 else 0

/-- A stored control register. -/
def Arch.cr' (a : Arch) (n : Nat) : Word := fget a.cr (crReset n) n

/-- With a stored control register written. -/
def Arch.wcr (a : Arch) (n : Nat) (x : Word) : Arch := { a with cr := fset a.cr n x }

/-- FCSR (Table 1.5). -/
def Arch.fcsr (a : Arch) : Word := a.cr' 0x010

/-- SEED.VALUE (Table 3.4). -/
def Arch.seed (a : Arch) : W32 := (a.cr' 0x011).truncate 32

/-- LENM (Table 1.6). -/
def Arch.lenm (a : Arch) : Nat := bits (a.cr' 0x021) 13 8

/-- FD.k, FB.k and FS.k (R19). -/
def Arch.fd (a : Arch) (k : Nat) : Word := a.cr' (0x100 + k)
def Arch.fb (a : Arch) (k : Nat) : Word := a.cr' (0x108 + k)
def Arch.fs (a : Arch) (k : Nat) : Word := a.cr' (0x110 + k)

/-- FD.k.VALID (R81). -/
def fdValid (w : Word) : Bool :=
  let width := bits w 3 0
  let sign := bits w 4 4
  let e := bits w 11 8
  let m := bits w 15 12
  let blk := bits w 19 18
  decide (1 ≤ width) && decide (width ≤ 8) && sign + e + m == width && decide (1 ≤ e + m)
  && (!bitOf w 16 || (decide (2 ≤ e) && decide (1 ≤ m))) && blk != 3
  && (blk == 0 || decide (bits w 21 20 ≤ 1))

/-- FD.k as stored after a write: the RW fields, and VALID recomputed (R80, Table 3.5). -/
def fdStore (w : Word) : Word :=
  let f := w &&& 0x000000FF003DFF1F
  if fdValid f then f ||| 0x8000000000000000 else f

/-- What a write of `x` leaves in control register `n` whose old content is `old` (R4, R22 to R26, R31,
R33, R76, R80). -/
def crStore (n : Nat) (x : Word) : Word :=
  if n = 0x001 then x &&& 0x2FFF
  else if n = 0x002 ∨ n = 0x004 then x &&& 0xFFFFFFFFFFFFFFFC
  else if n = 0x010 then
    let f := x &&& 0x7FFF
    if bits f 2 0 = 0 ∨ bits f 2 0 = 7 then (f &&& 0x7FF8) ||| 1 else f
  else if n = 0x011 then x &&& 0xFFFFFFFF
  else if n = 0x021 then x &&& 0x3F00
  else if n = 0x060 then x &&& 0xFFFF
  else if n = 0x070 then (if 3 < x.toNat then 3 else x)
  else if 0x101 ≤ n ∧ n ≤ 0x107 then fdStore x
  else x

/-- A software write of a stored control register. CAUSE.FIRST is read-only (Table 1.4). -/
def Arch.setCr (a : Arch) (n : Nat) (x : Word) : Arch :=
  if n = 0x001 then a.wcr n ((crStore n x) ||| (a.cr' 1 &&& 0x1000)) else a.wcr n (crStore n x)

/-- The repair-map entries of a die (Table 13.4) that assign a logical unit. -/
def repairEntry (s : State) (die kind lidx lc : Nat) : Option Word :=
  (s.boot.repair.filter fun p =>
    p.1 / 512 == die && bits p.2 63 61 == kind && bits p.2 60 58 == die && bits p.2 57 50 == lidx
    && (kind != 1 || bits p.2 49 46 == lc)).getLast?.map Prod.snd

/-- The physical cluster row and column of a logical cluster (R342). -/
def clusterSite (s : State) (die lc : Nat) : Nat × Nat :=
  match repairEntry s die 2 lc 0 with
  | some e => (bits e 45 42, bits e 41 38)
  | none => (lc / 16, lc % 16)

/-- The newest entry that concerns a logical core: its own, or its cluster's. Log 46 (DEDUCED). -/
def coreEntry (s : State) (l : Nat) : Option Word :=
  (s.boot.repair.filter fun p =>
    p.1 / 512 == dieOf l && bits p.2 60 58 == dieOf l && bits p.2 57 50 == (l % 3200) / 16
    && (bits p.2 63 61 == 2 || (bits p.2 63 61 == 1 && bits p.2 49 46 == l % 16))).getLast?.map Prod.snd

/-- Row, column and site of a logical core (R29, R342). -/
def coreSite (s : State) (l : Nat) : Nat × Nat × Nat :=
  match coreEntry s l with
  | some e => (bits e 45 42, bits e 41 38, if bits e 63 61 = 1 then bits e 37 32 else l % 16)
  | none => let p := clusterSite s (dieOf l) ((l % 3200) / 16); (p.1, p.2, l % 16)

/-- MESH (Table 1.8). -/
def meshWord (s : State) (l : Nat) : Word :=
  let p := coreSite s l
  BitVec.ofNat 64 (dieOf l * 0x10000 + p.1 * 0x1000 + p.2.1 * 0x100 + p.2.2)

/-- Is the logical core UNAVAIL (R344)? -/
def unavail (s : State) (l : Nat) : Bool := match coreEntry s l with | some e => bitOf e 15 | none => false

/-- Does the strand lead a bunch (R22)? -/
def leads (s : State) (c : Sid) : Option Bunch :=
  match (s.core c.core).bunch with
  | some b => if b.leader = c then some b else none
  | none => none

/-- The base-two logarithm of a bunch width. -/
def log2w (w : Nat) : Nat := if w ≤ 2 then 1 else if w ≤ 4 then 2 else if w ≤ 8 then 3 else 4

/-- Is the strand inside a held region (R12)? -/
def Strand.held (st : Strand) : Bool := match st.opened with | some ch => ch.held | none => false

/-- STATUS (Table 1.3). -/
def statusWord (s : State) (c : Sid) : Word :=
  let st := s.strand c
  let bw := match leads s c with | some b => 0x100 + (log2w b.w - 1) * 0x200 | none => 0
  let steady := match s.launch st.lid with | some x => x.steady | none => false
  BitVec.ofNat 64 (c.strand % 4 * 0x1000 + (if st.twin.isSome then 0x800 else 0) + bw
    + (if st.held then 0x80 else 0) + (if st.arch.step then 0x40 else 0)
    + (if steady then 0x20 else 0) + detOf s st.lid * 2 + (if st.arch.priv then 1 else 0))

/-- The number of the group's view as a die's strands outside D1 and D2 see it: 0 unless the die is full (R31, R312). -/
def entryView (s : State) (d grp : Nat) : Nat :=
  let g := fget s.net.groups Group.reset grp
  if g.valid && g.full.contains (bits (fget s.boot.conf 0 0) 6 0 * 8 + d) then g.viewN else 0

/-- The same for a quantum group (0: none), which sees a new view from its next quantum end on (R319). -/
def seenView (s : State) (d q grp : Nat) : Nat :=
  match ffind (s.die d).view (q * 4096 + grp) with
  | some p => if q = 0 then entryView s d grp else p.1
  | none => entryView s d grp

/-- VIEW.N of a strand for a group (R31). Log 98 (DEDUCED). -/
def viewNumber (s : State) (c : Sid) (grp : Nat) : Nat :=
  let lid := (s.strand c).lid
  seenView s (dieOf c.core) (if detOf s lid = 0 then 0 else groupOf s lid) grp

/-- CHUNKCTL (Table 1.6). -/
def chunkctlWord (st : Strand) : Word :=
  let solo := match st.opened with | some ch => ch.solo | none => st.soloHeld
  BitVec.ofNat 64 (st.sqcnt * 0x100000 + st.endCode * 0x10000 + st.arch.lenm * 0x100 + (if solo then 1 else 0))

/-- The value of control register `n` as `sget` reads it (R21 to R33). -/
def crRead (s : State) (c : Sid) (n : Nat) : Word :=
  let st := s.strand c
  let co := s.core c.core
  if n = 0x000 then statusWord s c
  else if n = 0x020 then BitVec.ofNat 64 (quantumOf s st.lid)
  else if n = 0x021 then chunkctlWord st
  else if n = 0x022 then BitVec.ofNat 64 st.chunkSeq
  else if n = 0x030 then BitVec.ofNat 64 (co.spkib * 0x10000 + co.nacc * 0x100 + co.nstr)
  else if 0x040 ≤ n ∧ n ≤ 0x047 then fget st.idx 0 (n - 0x040)
  else if n = 0x050 then
    BitVec.ofNat 64 (match st.twin with | some (p, false) => p.core | _ => c.core)
  else if n = 0x051 then meshWord s c.core
  else if n = 0x052 then BitVec.ofNat 64 st.lid
  else if n = 0x053 then BitVec.ofNat 64 st.node
  else if n = 0x061 then
    BitVec.ofNat 64 (match st.opened with
      | some ch => ch.viewN
      | none => viewNumber s c (st.arch.cr' 0x060).toNat)
  else if n = 0x080 then BitVec.ofNat 64 (s.cluster (clusterOf c.core)).cycle
  else if n = 0x081 then BitVec.ofNat 64 s.time
  else st.arch.cr' n

/-- Registers without writable bits (R21). -/
def crReadOnly (n : Nat) : Bool :=
  n == 0x022 || n == 0x030 || (decide (0x040 ≤ n) && decide (n ≤ 0x047))
  || (decide (0x050 ≤ n) && decide (n ≤ 0x053)) || n == 0x061 || n == 0x080 || n == 0x081

/-- Registers that U may not read (Table 1.2, "none"). -/
def crNoUser (n : Nat) : Bool := decide (1 ≤ n) && decide (n ≤ 5)

/-- Registers that U may not write and that are not read-only throughout (R21). -/
def crNoUserWrite (n : Nat) : Bool := crNoUser n || n == 0x000 || n == 0x020

/-- Registers whose write cuts (Table 1.2). -/
def crCuts (n : Nat) : Bool :=
  n == 0x000 || n == 0x004 || n == 0x020 || n == 0x021 || n == 0x060 || n == 0x070

/-! ## Engine registers (Tables 6.1, 6.2, 7.5, 7.6) -/

/-- Reset values: tg.k and the strides 16, the masks all ones, zero otherwise. -/
def engReset (n : Nat) : Word :=
  if n = 0x000 ∨ n = 0x001 ∨ n = 0x002 ∨ n = 0x004 then 16 else if n = 0x003 then 0xFFFFFFFF else 0

/-- The writable bits. -/
def engMask (n : Nat) : Word :=
  if n = 0x000 then 0x1FFF
  else if n = 0x001 ∨ n = 0x002 ∨ n = 0x004 then 0xFFFFFFFFFFFFFFFF
  else if n = 0x003 ∨ n = 0x006 ∨ n = 0x007 ∨ n = 0x008 then 0xFFFFFFFF
  else if n = 0x005 then 1
  else if n = 0x009 then 0x3FF
  else if n = 0x00A then 0xFFFFFFFF0FFFFFFF
  else if n = 0x104 then 0xFFFF
  else if n = 0x105 then 0xFFFFFF
  else if n = 0x10A ∨ n = 0x10B then 0
  else if 0x100 ≤ n ∧ n ≤ 0x109 then 0xFFFFFFFFFFFFFFFF
  else if n = 0x200 then 0xFF
  else if n = 0x201 ∨ n = 0x202 ∨ n = 0x207 then 0xFFFFFFFFFFFFFFFF
  else if n = 0x203 then 0xFFFFFFFF
  else if n = 0x204 then 7
  else if n = 0x205 then 0xFFFF
  else if n = 0x206 then 3
  else 0

/-- An engine register. -/
def Arch.re (a : Arch) (n : Nat) : Word := fget a.eng (engReset n) n

/-- A software write of an engine register: its writable bits (R4). -/
def Arch.we (a : Arch) (n : Nat) (x : Word) : Arch :=
  if engMask n = 0 then a else { a with eng := fset a.eng n (x &&& engMask n) }

/-- xe.seq advances (R208). -/
def Arch.bumpSeq (a : Arch) : Arch :=
  { a with eng := fset a.eng 0x10B (BitVec.ofNat 64 (((a.re 0x10B).toNat + 1) % 2 ^ 30)) }

/-- The identifier of a go read (R208): core, strand, xe.seq. -/
def goIdent (c : Sid) (a : Arch) : Word :=
  BitVec.ofNat 64 (c.core * 2 ^ 32 + c.strand % 4 * 2 ^ 30 + (a.re 0x10B).toNat)

/-! ## Windows and handles (R36, Table 1.9, R193) -/

/-- The kinds of virtual address. -/
inductive Place where
  /-- outside the window region. -/
  | paged
  /-- offset in the local scratchpad. -/
  | scratch (off : Nat)
  /-- core and offset. -/
  | remote (core off : Nat)
  /-- core and byte offset within its 512 bytes of counters. -/
  | counter (core off : Nat)
  | nowhere
deriving DecidableEq, Repr

/-- Where the address bits 59:0 of a pointer fall (R36). -/
def placeOf (p : Word) : Place :=
  let a := bits p 59 0
  if a < 0x0C00000000000000 then .paged
  else if a < 0x0C00000000000000 + 25600 * 0x200 then
    .counter ((a - 0x0C00000000000000) / 0x200) ((a - 0x0C00000000000000) % 0x200)
  else if 0x0D00000000000000 ≤ a ∧ a < 0x0D00000000000000 + 25600 * 0x20000 then
    .remote ((a - 0x0D00000000000000) / 0x20000) ((a - 0x0D00000000000000) % 0x20000)
  else if 0x0E00000000000000 ≤ a ∧ a < 0x0E00000000000000 + 0x20000 then .scratch (a - 0x0E00000000000000)
  else .nowhere

/-- A counter handle's core and index, if the handle is valid (R193). -/
def handleOf (h : Word) : Option (Nat × Nat) :=
  if bits h 63 60 ≠ 0 then none
  else match placeOf h with
    | .counter l off => if off % 8 = 0 then some (l, off / 8) else none
    | _ => none

/-- Does a launch of the context claim the core (R265)? -/
def claims (s : State) (ctx l : Nat) : Bool :=
  match (s.core l).claim with | some lid => ctxOf s lid == ctx | none => false

/-- Does a queue of the context hold the core (R375)? -/
def holds (s : State) (ctx l : Nat) : Bool := (s.core l).hold == some ctx

/-- What becomes of an operation addressed to a core (Table 10.1a). -/
inductive Fate where
  | apply | spill | refuse
deriving DecidableEq, Repr

/-- Is an occupancy of a launch of the context husked on the core? -/
def huskedHere (s : State) (ctx l : Nat) : Bool := (s.core l).husked.any fun lid => ctxOf s lid == ctx

/-- Table 10.1a. The anchor's counters are never husked (R272); `anchorOk` says that a counter is meant. -/
def fateOf (s : State) (ctx l : Nat) (counter : Bool) : Fate :=
  let anchored := s.lu.launches.any fun p => p.2.anchor == l && p.2.ctx == ctx
  if huskedHere s ctx l && !(counter && anchored) then .spill
  else if claims s ctx l || holds s ctx l || (huskedHere s ctx l && anchored) then .apply
  else .refuse

end Sys2Proof.Machine
end

