-- ==== Sys2Proof/Machine/Ops.lean ====
section
/-! DEFINITION. The operations that every meaning shares: chunks (start, end, squash), retiring an instruction,
taking an exception and returning from one, debug and trace records. -/

namespace Sys2Proof.Machine

/-- The answer of a step. -/
abbrev Res := Host.Outcome State Fault Refusal

/-- Why an instruction does not complete. -/
inductive Stop where
  /-- it raises a synchronous trap (R331). -/
  | trap (t : Trap)
  /-- INTEG with the key slot to flag (R340). -/
  | integ (slot : Nat) (val : Word)
  /-- it waits and is issued again (R110, R14). -/
  | wait
  /-- the chunk must end before it: 0 length, 1 L1, 2 undo log, 3 pins, 4 a cutting instruction (R11). -/
  | cut (code : Nat)
  /-- its own chunk is squashed by R14. -/
  | conflict (counts : Bool)
  /-- a solo chunk touches a page that needs a wider arbiter (R234). -/
  | widen (scope : Nat)
  /-- a watch matched: the chunk runs again in stepping mode (R356). -/
  | restep
  /-- its store waits at a write-blocked page (R260). -/
  | blocked (page : Page)
  /-- as `e`, with the reads and line requests that it had made by then, in state `u` (R228, R258). -/
  | after (u : State) (e : Stop)
deriving DecidableEq, Repr

/-- What an instruction computes, or why it does not complete. -/
abbrev Ex (α : Type) := Except Stop α

/-- A trap with numeric code and subcode. -/
def mkTrap (code sub : Nat) (val : Word) : Trap := ⟨BitVec.ofNat 8 code, BitVec.ofNat 4 sub, val⟩

/-- Raises a synchronous trap. -/
def raise {α : Type} (code sub : Nat) (val : Word) : Ex α := .error (.trap (mkTrap code sub val))

/-- Does the instruction come back with the same requests, so that they count at its last attempt alone? -/
def Stop.waits : Stop → Bool
  | .wait | .cut _ | .blocked _ | .after _ _ => true
  | _ => false

/-- An access that does not complete keeps what its instruction had read and requested before it (R228, R258). -/
def keep {α : Type} (s : State) (x : Ex α) : Ex α :=
  match x with
  | .ok a => .ok a
  | .error e => .error (if e.waits then e else .after s e)

/-! ## Traces and debug records -/

/-- A trace condition of code 2 (R360) met by an event of a kind at a core. -/
def traceCond (w : Word) (kind l : Nat) : Bool :=
  bits w 63 62 == 2 && bits w 61 56 == kind && (!bitOf w 55 || bits w 54 40 == l)

/-- A trace condition of code 3: TIME has come. -/
def traceDue (w : Word) (time : Nat) : Bool := bits w 63 62 == 3 && decide (bits w 55 0 ≤ time)

/-- The source of a trace record's order (Table 14.4): one number per arbiter or port. -/
def sourceCode (a : Arbiter) : Nat :=
  match a with
  | .core l => l * 4 + 3
  | .cluster n => n * 4
  | .die d => d * 4 + 1
  | .package => 2

/-- SCOPE of a trace record (Table 14.4). -/
def sourceScope (a : Arbiter) : Nat :=
  match a with | .cluster _ => 0 | .die _ => 1 | .package => 2 | .core _ => 3

/-- Whether the next record has no room (R359, R361). -/
def traceFull (s : State) : Bool := decide (s.dbg.trsize.toNat ≤ s.dbg.trnext)

/-- Populated memory of one die from `a` on, `n` bytes, of a die that is not lost: the local tier of Table 9.1 (R241). -/
def plainMemory (s : State) (a n : Nat) : Bool :=
  decide (a / 0x2000000000 < 8) && decide (a % 0x2000000000 + n ≤ 0x1800000000) && !(s.die (a / 0x2000000000)).lost

/-- Is the order log kept (R361)? -/
def ordering (s : State) : Bool := bitOf s.dbg.trctl 0 && bitOf s.dbg.trctl 3

/-- Appends the 32 bytes of a trace record at its place in the ring. Where the ring has no room the trace stops; a record of
the order log is kept until it has (R359, R361). -/
def traceWrite (s : State) (r : Nat × Nat × Nat × Nat) : State :=
  let a := s.dbg.trbase.toNat + s.dbg.trnext % s.dbg.trsize.toNat * 32
  if ordering s && (s.dbg.trsize == 0 || traceFull s || !plainMemory s a 32) then
    { s with dbg := { s.dbg with trwait := s.dbg.trwait ++ [r] } }
  else if s.dbg.trsize = 0 ∨ (traceFull s ∧ ¬ bitOf s.dbg.trctl 2) ∨ !plainMemory s a 32 then
    { s with dbg := { s.dbg with trlost := s.dbg.trlost + 1, tracing := false, traceOver := true, traceCut := true } }
  else
    { s with mem := s.mem.store a (leBytes 8 r.1 ++ leBytes 8 r.2.1 ++ leBytes 8 r.2.2.1 ++ leBytes 8 r.2.2.2),
             dbg := { s.dbg with trnext := s.dbg.trnext + 1 } }

/-- A record of now. -/
def tracePut (s : State) (d0 d1 d3 : Nat) : State := traceWrite s (d0, d1, s.time, d3)

/-- A trigger marker (Table 14.4). -/
def traceMarker (s : State) : State := tracePut s (6 * 2 ^ 58) 0 0

/-- What TIME does to an armed trace (R360): it starts with a trigger marker, and it stops for good; both at once leave
the marker alone. -/
def traceTime (s : State) : State :=
  let d := s.dbg
  if !bitOf d.trctl 0 || bitOf d.trctl 3 || d.traceOver then s
  else
    let begins := !d.tracing && traceDue d.trstart s.time
    let s := if begins
      then let s := traceMarker s
           { s with dbg := { s.dbg with tracing := !s.dbg.traceOver, traceBegan := some s.time } }
      else s
    if traceDue d.trstop s.time
    then { s with dbg := { s.dbg with tracing := false, traceOver := true,
                                      traceEnded := if begins || d.tracing then none else some s.time } }
    else s

/-- Dword 0 of a trace record (Table 14.4). -/
def traceHead (kind : Nat) (a : Arbiter) (cause : Nat) (c : Sid) (seq : Nat) : Nat :=
  kind * 2 ^ 58 + sourceScope a * 2 ^ 56 + cause * 2 ^ 52 + c.strand % 4 * 2 ^ 50 + c.core * 2 ^ 35 + seq % 2 ^ 32

/-- Source of a record of the order log, as `sourceCode` numbers it: KIND, SCOPE, L and, for the home of a posted atomic, its
line fix it. Log 114 (DESIGN CHOICE). -/
def recordSource (r : List Word) : Nat :=
  let d0 := nth r (0 : Word) 0
  let l := bits d0 49 35
  match bits d0 57 56 with
  | 0 => l / 16 * 4
  | 1 => (if bits d0 63 58 = 2 then (nth r (0 : Word) 1).toNat / 0x2000000000 else l / 3200) * 4 + 1
  | 2 => 2
  | _ => l * 4 + 3

/-- An event that the order log names: kind, strand at its arbiter or port, WHAT and OTHER (Table 14.4). -/
structure Logged where
  kind : Nat
  who : Sid
  what : Nat
  other : Nat
deriving DecidableEq, Repr

/-- Kinds of event that replay places in order: commits, posted atomics, operations at ports, engine blocks and dispatches;
squashes and multicasts follow from these (R361). -/
def replayKinds : List Nat := [0, 2, 3, 5, 7]

/-- Does a record name the event? WHAT counts for ports, engine blocks and instances, OTHER for atomics and ports.
Log 110 (DESIGN CHOICE). -/
def Logged.named (e : Logged) (r : List Word) : Bool :=
  let d0 := nth r (0 : Word) 0
  bits d0 63 58 == e.kind && bits d0 49 35 == e.who.core && bits d0 51 50 == e.who.strand % 4
    && (!([3, 5, 7].contains e.kind) || (nth r (0 : Word) 1).toNat == e.what % 2 ^ 64)
    && (!([2, 3].contains e.kind) || bits (nth r (0 : Word) 3) 63 49 == e.other)

/-- The next logged event of a source that replay waits for (R361). -/
def replayNext (s : State) (a : Arbiter) : Option (List Word) :=
  match s.dbg.replay with
  | none => none
  | some p => p.log.find? fun r => recordSource r == sourceCode a && replayKinds.contains (bits (nth r (0 : Word) 0) 63 58)

/-- May an event be placed now: outside replay mode always; in it, for an event of the launch, when it is the next of its
source (R361). Log 110 (DESIGN CHOICE). -/
def replayTurn (s : State) (lid : Nat) (a : Arbiter) (e : Logged) : Bool :=
  match s.dbg.replay with
  | none => true
  | some p => p.lid != lid || match replayNext s a with | some r => e.named r | none => false

/-- A logged event has been placed. -/
def replayed (s : State) (lid kind : Nat) (a : Arbiter) : State :=
  match s.dbg.replay, replayNext s a with
  | some p, some r => if p.lid = lid ∧ replayKinds.contains kind
    then { s with dbg := { s.dbg with replay := some { p with log := p.log.erase r, since := s.time } } } else s
  | _, _ => s

/-- The record of an event that starts or stops an armed trace, or falls in a running one, `put` being its record (R360).
Where a condition on TIME has started or stopped the trace in the same hub cycle, one record is all. -/
def traceTriggered (s : State) (put : State → State) (start stop : Bool) : State :=
  let d := s.dbg
  if d.traceOver then
    (if start && d.traceEnded == some s.time then
       let s := put s
       { s with dbg := { s.dbg with tracing := false, traceOver := true, traceEnded := none } }
     else if d.traceCut then { s with dbg := { d with trlost := d.trlost + 1 } } else s)
  else if !d.tracing && !start then s
  else
    let s := if stop && d.traceBegan == some s.time then s else put s
    { s with dbg := { s.dbg with tracing := !stop && !s.dbg.traceOver, traceOver := s.dbg.traceOver || stop, traceBegan := none } }

/-- An event that the trace may record (R359, R360, R361, Table 14.4): kind, source, squash cause, strand,
SEQ, WHAT, source core, and the launch concerned. No filter but the launch, and no trigger, applies to the order log. -/
def traceEvent (s : State) (kind : Nat) (a : Arbiter) (cause : Nat) (c : Sid) (seq what other lid : Nat) : State :=
  let n := fget s.dbg.orderSeq 0 (sourceCode a)
  let s := replayed s lid kind a
  let s := traceTime { s with dbg := { s.dbg with orderSeq := fset s.dbg.orderSeq (sourceCode a) (n + 1) } }
  let ctl := s.dbg.trctl
  let put := fun s => tracePut s (traceHead kind a cause c seq) what (other * 2 ^ 49 + n % 2 ^ 48)
  if !bitOf ctl 0 || !(bits ctl 63 32 == 0 || bits ctl 63 32 == lid) then s
  else if bitOf ctl 3 then put s
  else if bitOf ctl 1 && sourceScope a != 2 then s
  else traceTriggered s put (traceCond s.dbg.trstart kind c.core) (traceCond s.dbg.trstop kind c.core)

/-- The replica multicasts of a placed write: one record for each line (R249, R359). -/
def traceCasts (s : State) (c : Sid) (seq : Nat) (lines : List Nat) (lid : Nat) : State :=
  lines.foldl (fun s n => traceEvent s 4 .package 0 c seq (n * 64) c.core lid) s

/-- Appends a debug record (R351, Table 14.3), or counts it as lost. -/
def debugRecord (s : State) (c : Sid) (reason wp sub : Nat) (addr source : Word) : State :=
  let st := s.strand c
  let d0 := st.lid % 2 ^ 32 * 2 ^ 32 + st.node % 4096 * 2 ^ 20 + c.strand % 4 * 2 ^ 16 + c.core % 2 ^ 15
  let d1 := reason * 2 ^ 56 + wp * 2 ^ 54 + sub * 2 ^ 50 + st.inst % 2 ^ 32
  let r := [BitVec.ofNat 64 d0, BitVec.ofNat 64 d1, BitVec.ofNat 64 st.chunkSeq, st.arch.pc, addr, source]
  if s.dbg.records.length < 256 then { s with dbg := { s.dbg with records := s.dbg.records ++ [r] } }
  else { s with dbg := { s.dbg with rlost := s.dbg.rlost + 1 } }

/-! ## Taking an exception, and returning -/

/-- CAUSE after a trap (Table 1.4). -/
def causeWord (t : Trap) (priv first : Bool) : Word :=
  BitVec.ofNat 64 ((if priv then 0x2000 else 0) + (if first then 0x1000 else 0) + t.sub.toNat * 0x100 + t.code.toNat)

/-- The registers of a strand that takes trap `t` at `pc` (R330, R333): CAUSE, TRAPPC, TRAPVAL; level S; the pc
at TVEC, or where it was while TVEC is 0. -/
def trapArch (a : Arch) (t : Trap) (pc : Word) (first : Bool) : Arch :=
  let b := ((a.wcr 1 (causeWord t a.priv first)).wcr 2 (pc &&& 0xFFFFFFFFFFFFFFFC)).wcr 3 t.val
  { b with priv := true, pc := if a.cr' 4 = 0 then a.pc else a.cr' 4 }

/-- Marks the strand as stopped by an unhandled trap (R333). Log 84 (DEDUCED). -/
def unhandled (s : State) (c : Sid) : State :=
  let st := s.strand c
  let s := s.setStrand c { st with run := .halted true, opened := none, handler := false, sync := none }
  let s := debugRecord s c 3 0 0 0 0
  match s.launch st.lid with
  | some x => s.setLaunch st.lid { x with halted := x.halted ++ [c] }
  | none => s

/-- Notes when a core was first asked to stop, or stopped (R352). -/
def noteStop (s : State) (l : Nat) : State :=
  let co := s.core l
  if co.quiesceSince.isSome then s else s.setCore l { co with quiesceSince := some s.time }

/-- A `brk` on an armed core stops the strand at the boundary, its pc where it stands (R216, R205, R352). -/
def stopAtBrk (s : State) (c : Sid) : State :=
  let s := noteStop s c.core
  let s := s.setStrand c { s.strand c with stopped := true, sync := none, opened := none, stepping := false }
  debugRecord s c 1 0 0 0 0

/-- Taking a trap at a chunk boundary (R330, R333, R334): the one shared operation. `pc` is the address that
TRAPPC receives. Log 84 (DEDUCED). -/
def enterTrap (s : State) (c : Sid) (t : Trap) (pc : Word) : State :=
  let co := s.core c.core
  let st := s.strand c
  let first := co.latch.isNone
  let s := s.setCore c.core { co with latch := if first then some c.strand else co.latch }
  let s := s.setStrand c { st with arch := trapArch st.arch t pc first, run := .ready, sync := none,
                                   kw := none, opened := none, stepping := false, handler := true }
  if st.arch.cr' 4 = 0 then unhandled s c else s

/-- The trap, or the stop of an armed `brk`. -/
def takeTrap (s : State) (c : Sid) (t : Trap) (pc : Word) : State :=
  if t.code = 0x0D ∧ (s.core c.core).armBrk then stopAtBrk s c else enterTrap s c t pc

/-- The registers after `tret` (R217): the level in CAUSE.PPRIV, the pc in TRAPPC. -/
def tretArch (a : Arch) : Arch := { a with priv := bitOf (a.cr' 1) 13, pc := a.cr' 2 }

/-! ## Signatures (R229) -/

/-- A 9-bit left rotation. -/
def rotl9 (p n : Nat) : Nat := ((p <<< n) ||| (p >>> (9 - n))) % 512

/-- The H3-class hash of bank `j` for line number `x`. -/
def sigHash (x j : Nat) : Nat :=
  (upto 0 6).foldl (fun h m => h ^^^ rotl9 ((x >>> (9 * m)) % 512) ((2 * j + m) % 9)) 0

/-- The signature with a line inserted. -/
def sigInsert (sig : BitVec 2048) (x : Nat) : BitVec 2048 :=
  (upto 0 4).foldl (fun b j => b ||| BitVec.ofNat 2048 (2 ^ (512 * j + sigHash x j))) sig

/-- Two signatures conflict when their AND is nonzero in all four banks. -/
def sigConflict (a b : BitVec 2048) : Bool :=
  (upto 0 4).all fun j => (a &&& b).extractLsb' (512 * j) 512 != 0

/-- The line number that a signature takes of a memory key: PA[51:6]. -/
def lineNo (key : Nat) : Nat := key % 2 ^ 52 / 64

/-! ## Chunks -/

/-- The arbiter of a scope for a core (R230). -/
def arbiterOf (l scope : Nat) : Arbiter :=
  match scope with | 0 => .core l | 1 => .cluster (clusterOf l) | 2 => .die (dieOf l) | _ => .package

/-- The rank of an arbiter. -/
def Arbiter.rank : Arbiter → Nat
  | .core _ => 0 | .cluster _ => 1 | .die _ => 2 | .package => 3

/-- A new chunk of the strand (R12, R31); solo when the strand has its slot and no solo chunk of it awaits its grant
(R234). Log 98 (DEDUCED). -/
def newChunk (s : State) (c : Sid) : Chunk :=
  let st := s.strand c
  { start := st.arch, quantum := st.quantum, prevEnd := st.endCode, retired := 0, writes := [], lines := [], rsig := 0, wsig := 0,
    scope := 0, poolR := [], poolW := [], undo := [], ops := [], pins := [], pages := [], late := [], accs := [],
    pfx := none, pair := none, tile := none, viewN := viewNumber s c (st.arch.cr' 0x060).toNat, held := false,
    solo := st.soloHeld && !(st.waiting.any fun ch => ch.solo), stepping := st.stepping, watch := none, watches := (s.core c.core).watches,
    mustEnd := none, drained := false, purged := false, endCode := 0, taint := [], badUndo := [], badShadow := false,
    cycles := [0, 0, 0] }

/-- The open chunk of a strand, or the one it would open. -/
def chunkOf (s : State) (c : Sid) : Chunk := ((s.strand c).opened).getD (newChunk s c)

/-- The state with the strand's chunk open; no store of it waits. -/
def openFor (s : State) (c : Sid) : State := s.setStrand c { s.strand c with opened := some (chunkOf s c), blocked := none }

/-- The state with the strand's open chunk replaced. -/
def State.setChunk (s : State) (c : Sid) (ch : Chunk) : State := s.setStrand c { s.strand c with opened := some ch }

/-- Every chunk of a strand, oldest first. -/
def Strand.chunks (st : Strand) : List Chunk := st.waiting ++ st.opened.toList

/-- Does a squash from the strand's `k`-th chunk on squash a solo chunk (R231, R234)? -/
def Strand.soloFrom (st : Strand) (k : Nat) : Bool := (st.chunks.drop k).any fun ch => ch.solo

/-- Does the strand's next attempt, which is to run solo, wait until its earlier chunks are granted? A squash of one of them
would squash it too (R231, R234). Log 98 (DEDUCED). -/
def Strand.soloHeldBack (st : Strand) : Bool := st.soloHeld && !st.waiting.isEmpty && !(st.waiting.any fun ch => ch.solo)

/-- The reads of a strand's open chunk and the counts of its line requests as they stand in `u` (R228, R258). -/
def State.afterReads (s : State) (c : Sid) (u : State) : State :=
  let r := chunkOf u c
  let s := { s with dies := u.dies }
  match (s.strand c).opened with
  | some ch => s.setChunk c { ch with rsig := r.rsig, scope := r.scope, pages := r.pages, poolR := r.poolR }
  | none => s

/-- Applies every late result, oldest first: the windows end with the chunk (R45). -/
def flushLate (a : Arch) (l : List Late) : Arch := l.foldl Late.apply a

/-- Ends the strand's open chunk (R11). A chunk without stores has nothing to drain and requests its commit at once, at D0
unless an earlier chunk of the strand still awaits its grant (R231). Log 93 (DEDUCED), 94 (DEDUCED). -/
def endChunk (s : State) (c : Sid) (code : Nat) : State :=
  let st := s.strand c
  match st.opened with
  | none => s
  | some ch =>
    let ch' := { ch with late := [], accs := [], endCode := code, drained := ch.writes.isEmpty && (st.waiting.isEmpty || ordered s st),
                         pfx := none, pair := none, held := false }
    s.setStrand c { st with arch := flushLate st.arch ch.late, opened := none, waiting := st.waiting ++ [ch'],
                            endCode := code, stepping := false }

/-- Writes old pool contents back, newest first (R12). -/
def undoPool (p : FMap Byte × FMap Bool) (l : List (Nat × List Byte × List Bool)) : FMap Byte × FMap Bool :=
  l.foldl (fun p e =>
    (Mem.store p.1 (e.1 * 16) e.2.1,
     (upto 0 4).foldl (fun b i => if nth e.2.2 false i then fset b (e.1 * 4 + i) true else fdel b (e.1 * 4 + i)) p.2)) p

/-- Releases the strand's solo slot or its place in line for one. -/
def dropSolo (s : State) (c : Sid) : State :=
  { s with solo := s.solo.filter fun p => p.2 != c }

/-- Squashes the strand's chunks from the `k`-th on (0 the oldest waiting) (R12, R231, R234). A chunk that ran in stepping
mode runs again so (R331). `other` is the core that the squash comes from (Table 14.4). -/
def squashFrom (s : State) (c : Sid) (k cause : Nat) (counts : Bool) (other : Nat := c.core) : State :=
  let st := s.strand c
  match (st.chunks).drop k with
  | [] => s
  | ch :: rest =>
    let co := s.core c.core
    let p := undoPool (co.pool, co.poolBad) ((ch :: rest).reverse.flatMap fun x => x.undo)
    let bad := (ch :: rest).flatMap fun x => x.badUndo
    let pb := bad.foldl (fun b g => (upto 0 4).foldl (fun b i => fset b (g * 4 + i) true) b) p.2
    let lostRegs := (ch :: rest).any fun x => x.badShadow
    let sq := if counts then Nat.min 4 (st.sqcnt + 1) else st.sqcnt
    let wantSolo := sq == 4 && st.solo.isNone
    let arb := arbiterOf c.core ch.scope
    let moved := (ch :: rest).foldl (fun n x => n + x.cycles.foldl (· + ·) 0) 0
    let acct := (upto 0 3).foldl (fun m i =>
      fset m (c.strand * 8 + i) (fget m 0 (c.strand * 8 + i)
        - (ch :: rest).foldl (fun n x => n + nth x.cycles 0 i) 0)) co.acct
    let s := s.setCore c.core { co with
      pool := p.1, poolBad := pb, stateLoss := co.stateLoss || lostRegs,
      acct := fset acct (c.strand * 8 + 5) (Nat.min (2 ^ 48 - 1) (fget acct 0 (c.strand * 8 + 5) + moved)) }
    let arch := if lostRegs then { ch.start with g := [], v := [], bad := [] } else ch.start
    let s := s.setStrand c { st with
      arch := arch, opened := none, waiting := st.waiting.take k, quantum := ch.quantum, sqcnt := sq,
      run := (match st.run with | .none => .none | .halted b => .halted b | .lost => .lost | _ => .ready),
      blocked := none, await := none, kw := none, stepping := ch.stepping, endCode := ch.prevEnd,
      sync := if lostRegs then some (mkTrap 0x12 5 0) else none, third := none,
      solo := if wantSolo then some arb else st.solo }
    let s := if wantSolo then { s with solo := s.solo ++ [(arb, c)] } else s
    traceEvent s 1 arb cause c (st.chunkSeq + k) st.inst other st.lid

/-- Squashes the strand's open chunk. -/
def squashOpen (s : State) (c : Sid) (cause : Nat) (counts : Bool) : State :=
  squashFrom s c (s.strand c).waiting.length cause counts

/-! ## What follows when an instruction does not complete -/

/-- Reports trap `t` of the strand's open chunk, if it has one, which is squashed for it: a held region back to its `hold`
(R205), or a chunk none of whose instructions has retired. The loss of the shadow bank takes precedence (R338). -/
def reportTrap (s : State) (c : Sid) (t : Trap) : State :=
  let s := match (s.strand c).opened with
    | some ch => if ch.retired = 0 then s.setStrand c { s.strand c with opened := none } else squashOpen s c 3 false
    | none => s
  takeTrap s c (((s.strand c).sync.filter fun u => u.code == 0x12 && u.sub == 5).getD t) (s.strand c).arch.pc

/-- A synchronous trap of the strand's own instruction (R331, R205). The chunk that it squashes stays as it is, its
signatures and marks in force, until every earlier chunk is granted and the trap is reported (R228): a held region, or a
chunk at its first instruction. Else the first attempt is squashed and runs again in stepping mode, or the stepping attempt
ends before the instruction. Log 93 (DEDUCED). -/
def raiseSync (s : State) (c : Sid) (t : Trap) : State :=
  let st := s.strand c
  let s := if st.peerLate then s.setStrand c { st with peerLate := false } else s
  let st := s.strand c
  let whole := match st.opened with | some ch => ch.held || ch.retired == 0 | none => true
  if whole then (if st.waiting.isEmpty then reportTrap s c t else s.setStrand c { st with sync := some t })
  else if (chunkOf s c).stepping then
    let s := endChunk s c 6
    s.setStrand c { s.strand c with sync := some t }
  else
    let s := squashOpen s c 3 false
    if (s.strand c).sync.isSome then s else s.setStrand c { s.strand c with stepping := true }

/-- Flags a key slot to management (R263, R340). -/
def flagSlot (s : State) (slot : Nat) : State := { s with boot := { s.boot with flagged := fset s.boot.flagged slot true } }

/-- Can an asynchronous cause be taken at the next boundary (R332)? -/
def takeable (st : Strand) : Bool := !st.pend.isEmpty && !st.arch.priv

/-- Will the strand take a pending cause at the boundary at which it stands or waits (R332)? -/
def trapFirst (st : Strand) : Bool :=
  takeable st && (match st.run with | .ready | .kwait | .boundary => true | _ => false)

/-- Does a request of a debugger or of the scheduler reach the open chunk (R11)? Log 36 (DEDUCED). -/
def asked (st : Strand) : Bool := takeable st || st.debugReq.isSome || st.preReq

/-- Does a request end the open chunk after the instruction in progress (R11)? At D1 and D2, where chunks end only as R287
says, only the parking for a bunch (R295). Log 36 (DEDUCED). -/
def requested (st : Strand) : Bool := asked st || st.parkReq

/-- CHUNKSEQ of a strand once its solo chunk has committed (R231 step 7). -/
def Strand.soloSeq (st : Strand) : Nat :=
  (st.chunkSeq + ((st.chunks.findIdx? fun ch => ch.solo).getD 0) + 1) % 2 ^ 64

/-- The lowest strand of the core below `c` whose solo chunk has taken its place, with its CHUNKSEQ after that chunk (R14,
R234). -/
def soloWinner (s : State) (c : Sid) : Option (Nat × Nat) :=
  ((s.core c.core).strands.find? fun p => decide (p.1 < c.strand) && p.2.chunks.any fun ch => ch.solo).map
    fun p => (p.1, p.2.soloSeq)

/-- Does a request that reaches the strand squash its open chunk where that waits (R260, R284)? Not a held region, and not a
solo chunk, which only R234's three ways squash. -/
def waitEnds (s : State) (c : Sid) : Bool :=
  !(chunkOf s c).held && !(chunkOf s c).solo
    && (takeable (s.strand c) || (!ordered s (s.strand c) && asked (s.strand c)))

/-- The state after an instruction that does not complete. A trap, or a stop that reaches a chunk which waits, squashes it
(R260); a chunk that is to park waits on (R295). Log 28 (DEDUCED), 36 (DEDUCED), 99 (DEDUCED). -/
def stopped (s : State) (c : Sid) (e : Stop) : State :=
  match e with
  | .trap t => raiseSync s c t
  | .integ slot v => raiseSync (flagSlot s slot) c (mkTrap 0x13 0 (v ||| 0x8000000000000000))
  | .wait =>
    if waitEnds s c then squashOpen s c 4 false
    else s.setStrand c { s.strand c with issued := 2 }
  | .cut code =>
    if (chunkOf s c).held then raiseSync s c (mkTrap 0x0A code 0)
    else if (chunkOf s c).retired = 0 then s.setStrand c { s.strand c with issued := 2 }
    else endChunk s c code
  | .conflict counts =>
    let s := squashOpen s c 1 counts
    if counts then s
    else
      let st := s.strand c
      let arb := st.solo.getD (.core c.core)
      let s := dropSolo (s.setStrand c { st with soloHeld := false, soloAfter := soloWinner s c }) c
      { s with solo := s.solo ++ [(arb, c)] }
  | .widen scope =>
    let s := squashOpen s c 1 false
    let s := dropSolo (s.setStrand c { s.strand c with soloHeld := false, solo := some (arbiterOf c.core scope) }) c
    { s with solo := s.solo ++ [(arbiterOf c.core scope, c)] }
  | .restep =>
    let s := squashOpen s c 3 false
    s.setStrand c { s.strand c with stepping := true }
  | .blocked p =>
    if waitEnds s c then squashOpen s c 4 false
    else s.setStrand c { s.strand c with issued := 2, blocked := some (p, false) }
  | .after u e => stopped (s.afterReads c u) c e

/-- A strand rests at its boundary: a debug stop with its record (R351, R352; a watch report has its own), or
parked (R295). -/
def restNow (s : State) (c : Sid) : State :=
  let st := s.strand c
  match st.debugReq with
  | some r =>
    let s := (noteStop s c.core).setStrand c { st with debugReq := none, stopped := true }
    if r = 2 then s else debugRecord s c r 0 0 0 0
  | none => s.setStrand c { st with parkReq := false, parked := true }

/-- A strand that issues nothing anyway rests at once when it is asked to and no chunk of it is open or waits; under the D1
rules it stops though ended chunks await their quantum end, which waits for it (R295, R352). A trap that can be taken at its
boundary comes first (R332). Log 63 (DEDUCED). -/
def restIfIdle (s : State) (c : Sid) : State :=
  let st := s.strand c
  if (st.debugReq.isSome || st.parkReq) && st.run != .ready && st.opened.isNone && !trapFirst st
      && (st.waiting.isEmpty || (ordered s st && st.debugReq.isSome)) then restNow s c
  else s

/-! ## Retiring an instruction -/

/-- How an instruction ends its chunk (R189): the run state it leaves, what it waits for. -/
structure Ending where
  run : RunState
  await : Option Await
  kw : Option KWait
deriving DecidableEq, Repr

/-- What an instruction does when it completes: the state, the next pc if it jumps, whether it stays for another
step (R169), results with their look values, how it ends the chunk. -/
structure Fx where
  s : State
  jump : Option Word
  again : Bool
  late : List (Nat × V512 × Nat)
  ending : Option Ending

/-- An instruction that completes in state `s` and goes on to the next. -/
def fx (s : State) : Fx := { s := s, jump := none, again := false, late := [], ending := none }

/-- Completes in `s`. -/
def done (s : State) : Ex Fx := .ok (fx s)

/-- Completes with one register result that has a look value (R45). -/
def doneLate (s : State) (reg : Nat) (v : V512) (look : BitVec 4) : Ex Fx :=
  .ok { fx s with late := [(reg, v, look.toNat)] }

/-- Completes and jumps. -/
def doneJump (s : State) (pc : Word) : Ex Fx := .ok { fx s with jump := some pc }

/-- Completes and ends its chunk (R189). -/
def doneCut (s : State) (e : Ending) : Ex Fx := .ok { fx s with ending := some e }

/-- A plain end. -/
def plainEnd : Ending := { run := .ready, await := none, kw := none }

/-- One instruction of every open window has retired: the results whose window has ended are written unless a
younger write of the register has been made (R45). -/
def tickLate (a : Arch) (l : List Late) : Arch × List Late :=
  let due := l.filter fun x => x.left == 0
  let rest := (l.filter fun x => x.left != 0).map fun x => { x with left := x.left - 1 }
  let a' := due.foldl Late.apply a
  let rest' := rest.filter fun x => !(due.any fun d => d.reg == x.reg && decide (x.born < d.born))
  (a', rest')

/-- Late results that a direct write of the registers in `rs` makes void (R45: the youngest write stays). -/
def voidLate (l : List Late) (rs : List Nat) : List Late := l.filter fun x => !rs.contains x.reg

/-- Elements that a window shows from now on; older writes of them are void (R45). -/
def AccView.show (v : AccView) (els : List (Nat × Nat)) : AccView :=
  { v with
    seen := v.seen.filter (fun x => !(els.any fun e => e.1 == x.1)) ++ els.map fun e => (e.1, e.2, false),
    pend := v.pend.map fun p => { p with els := p.els.filter fun x => !(els.any fun e => e.1 == x.1) } }

/-- One instruction of every open window of an accumulator has retired; the writes whose window has ended show, oldest
first, and what is older than one of them does no more (R45). An instruction with steps left keeps its window. -/
def AccView.tick (v : AccView) : AccView :=
  v.pend.foldl (fun a p =>
    if p.steps then { a with pend := a.pend ++ [p] }
    else if p.left = 0 then a.show p.els
    else { a with pend := a.pend ++ [{ p with left := p.left - 1 }] }) { v with pend := [] }

/-- The same for every accumulator; one without an open window is shown as it stands. -/
def tickAccs (l : List AccView) : List AccView := (l.map AccView.tick).filter fun v => !v.pend.isEmpty

/-- The chunk length limit at D0: LEN, or w × LEN in a bunch (R11, R25, R302). -/
def lengthLimit (s : State) (c : Sid) : Nat :=
  ((s.strand c).arch.lenm + 1) * 256 * (match leads s c with | some b => b.w | none => 1)

/-- WPCTL of the watchpoint that a chunk has matched, as it stood at the chunk's start (R355). -/
def Chunk.watchCtl (ch : Chunk) (wp : Nat) : Word := (fget ch.watches Watch.reset wp).ctl

/-- The synchronous trap that follows a chunk which ends after a retired instruction: WATCH where a watch has matched and
its ACT is to trap, else STEP where it is due (R332, R335, R350, R356). -/
def endTrap (ch : Chunk) (step : Bool) : Option Trap :=
  match ch.watch with
  | some w =>
    if bits (ch.watchCtl w.1) 27 26 = 0 then some (mkTrap 0x0C 0 w.2) else if step then some (mkTrap 0x16 0 0) else none
  | none => if step then some (mkTrap 0x16 0 0) else none

/-- Ends the chunk after a retired instruction, with its WATCH or STEP trap, and moves the strand to its quantum boundary
when it has reached it (R288). -/
def endAfter (s : State) (c : Sid) (code : Nat) (e : Ending) : State :=
  let ch := chunkOf s c
  let s := endChunk s c code
  let st := s.strand c
  let stepTrap := st.arch.step && !ch.start.priv && !st.arch.priv
  let run := if e.run = .ready ∧ ordered s st ∧ quantumOf s st.lid ≤ st.quantum then .boundary else e.run
  s.setStrand c { st with run := run, await := e.await, kw := e.kw, sync := endTrap ch stepTrap }

/-- The record of a watch match, at the commit of its chunk (R351, R356); with ACT = 1 the strand stops (R352). -/
def watchReport (s : State) (c : Sid) (ch : Chunk) : State :=
  match ch.watch with
  | none => s
  | some w =>
    let ctl := ch.watchCtl w.1
    let off := w.2.toNat % 2 ^ bits ctl 19 16
    let addr := match (fget ch.watches Watch.reset w.1).place with
      | some (true, b) => 0x0E00000000000000 + b + off
      | some (false, b) => (b + off) % 2 ^ 52
      | none => 0
    let s := debugRecord s c 2 w.1 0 (BitVec.ofNat 64 addr) w.2
    if bits ctl 27 26 = 1 then s.setStrand c { s.strand c with debugReq := some 2 } else s

/-- The reason, if any, to end the chunk after an ordinary instruction (R11, R287). -/
def endReason (s : State) (c : Sid) (ch : Chunk) : Option Nat :=
  let st := s.strand c
  if ch.held then none
  else match ch.mustEnd with
    | some code => some code
    | none =>
      if st.arch.step && !st.arch.priv then some 6
      else if ordered s st then
        (if quantumOf s st.lid ≤ st.quantum then some 5 else if st.parkReq then some 6 else none)
      else if lengthLimit s c ≤ ch.retired then some 0
      else if requested st then some 6
      else none

/-- The pc after an instruction of `len` bytes that completes, its prefix counted (R49, R94, R169). -/
def nextPc (x : Fx) (c : Sid) (len : Nat) : Word :=
  match x.jump with
  | some p => p
  | none =>
    if x.again then (x.s.strand c).arch.pc
    else (x.s.strand c).arch.pc + BitVec.ofNat 64 (if (chunkOf x.s c).pfx.isSome then len + 4 else len)

/-- The registers after an instruction that completes, and the results that still wait (R45). -/
def resultsOf (x : Fx) (c : Sid) : Arch × List Late :=
  let t := tickLate (x.s.strand c).arch (chunkOf x.s c).late
  let now := x.late.filter fun l => l.2.2 == 0
  let later := (x.late.filter fun l => l.2.2 != 0).map fun l =>
    { reg := l.1, val := l.2.1, left := l.2.2 - 1, born := (chunkOf x.s c).retired }
  (now.foldl (fun a l => Late.apply a { reg := l.1, val := l.2.1, left := 0, born := 0 }) t.1,
   voidLate t.2 (now.map fun l => l.1) ++ later)

/-- The state with the instruction counted as retired, its chunk still open. -/
def retired (x : Fx) (c : Sid) (len : Nat) : State :=
  let st := x.s.strand c
  let ch := chunkOf x.s c
  let r := resultsOf x c
  x.s.setStrand c { st with
    arch := { r.1 with pc := nextPc x c len },
    opened := some { ch with retired := ch.retired + 1, late := r.2, accs := tickAccs ch.accs, pfx := none, pair := none },
    quantum := st.quantum + 1, issued := 0, handler := false }

/-- Retires an instruction of length `len` bytes that completes (R45, R94, R169, R189). -/
def retire (x : Fx) (c : Sid) (len : Nat) : State :=
  let s := retired x c len
  match x.ending with
  | some e => endAfter s c 4 e
  | none =>
    match endReason s c (chunkOf s c) with
    | some code => endAfter s c code plainEnd
    | none => s

/-- Runs the body of an instruction of `len` bytes for the strand `cur` (R11, R13, R331). A held region of 1,024
retired instructions takes no more (Table 7.4, SUB 0). Log 5 (DESIGN CHOICE). -/
def runBody (s : State) (len : Nat) (body : State → Ex Fx) : Res :=
  if s.me.run = .none then .fault .noStrand
  else
    let s := { openFor s s.cur with draws := s.draws + 1 }
    if (chunkOf s s.cur).held ∧ 1024 ≤ (chunkOf s s.cur).retired then
      .next (stopped s s.cur (.cut 0))
    else
      match body s with
      | .ok x => .next (retire x s.cur len)
      | .error e => .next (stopped s s.cur e)

/-! ## Access to the strand's registers inside a body -/

/-- The registers of the strand that runs. -/
def State.arch (s : State) : Arch := s.me.arch

/-- The state with them replaced. -/
def State.setArch (s : State) (a : Arch) : State := s.setMe { s.me with arch := a }

/-- Reads gr; a poisoned word raises MCHK (R338, R339). -/
def rg (s : State) (r : Reg) : Ex Word :=
  if s.arch.poisoned r.toNat && r != 0 then raise 0x12 0 (BitVec.ofNat 64 r.toNat) else .ok (s.arch.rg r)

/-- Reads vr; a poisoned word raises MCHK. -/
def rv (s : State) (r : Reg) : Ex V512 :=
  if s.arch.poisoned (32 + r.toNat) then raise 0x12 0 (BitVec.ofNat 64 (32 + r.toNat)) else .ok (s.arch.rv r)

/-- The chunk of the strand that runs. -/
def State.chunk (s : State) : Chunk := chunkOf s s.cur

/-- The state with it replaced. -/
def State.setCh (s : State) (ch : Chunk) : State := s.setChunk s.cur ch

/-- Writes gr now; a result of an open window for the register is void (R45). -/
def wg (s : State) (r : Reg) (x : Word) : State :=
  let s := s.setArch (s.arch.wg r x)
  s.setCh { s.chunk with late := voidLate s.chunk.late [r.toNat] }

/-- Writes vr now; a result of an open window for the register is void. -/
def wv (s : State) (r : Reg) (x : V512) : State :=
  let s := s.setArch (s.arch.wv r x)
  s.setCh { s.chunk with late := voidLate s.chunk.late [32 + r.toNat] }

/-- Holds an operation until the chunk commits (R6). -/
def release (s : State) (r : Rel) : State := s.setCh { s.chunk with ops := s.chunk.ops ++ [r] }

/-- The prefix in force for the instruction: all zero without one (R46). -/
def pfxOf (s : State) : Pfx := s.chunk.pfx.getD ⟨0, false, 0, false, 0⟩

/-- The pc of the instruction itself: the word after its prefix (R49). -/
def ownPc (s : State) : Word := if s.chunk.pfx.isSome then s.arch.pc + 4 else s.arch.pc

/-- A privileged instruction's check (R34); TRAPVAL holds the word. -/
def needS (s : State) (w : W32) : Ex Unit :=
  if s.arch.priv then .ok () else raise 0x02 0 (w.zeroExtend 64)

/-- An instruction that always cuts raises HOLDOVF, SUB 4, inside a held region (R13, Table 7.4).
Log 83 (DEDUCED). -/
def needCut (s : State) : Ex Unit := if s.chunk.held then .error (.cut 4) else .ok ()

/-- A tile instruction, `idle`, `halt`, `hsave` or `hload` in a bunch raises BUNCH (R304). -/
def needAlone (s : State) (sub : Nat) : Ex Unit := if (leads s s.cur).isSome then raise 0x0B sub 0 else .ok ()

end Sys2Proof.Machine
end

