-- ==== Sys2Proof/Machine/Ports.lean ====
section
/-! DEFINITION. Memory keys of the tiers, the ports to other modules, and sending a message on one (R241, R325 to R327). -/

namespace Sys2Proof.Machine

/-- The memory key of a host-tier address. -/
def hostBase : Nat := 2 ^ 52

/-- The key of a peer-tier address; such keys are never stored. -/
def peerBase : Nat := 2 ^ 53

/-- The module number in force (Table 17.3). -/
def modNum (s : State) : Nat := bits (fget s.boot.conf 0 0) 6 0

/-- Is the module running, so that its hub answers (R370)? Log 58 (DEDUCED). -/
def hubReady (s : State) : Bool := s.boot.powered && bits s.boot.bootstat 11 8 == 1

/-- A port. -/
def State.port (s : State) (n : Nat) : Port := fget s.net.ports Port.reset n

/-- The state with a port replaced. -/
def State.setPort (s : State) (n : Nat) (p : Port) : State := { s with net := { s.net with ports := fset s.net.ports n p } }

/-- The first working port of the route to a module (R325, R327). -/
def routeTo (s : State) (m : Nat) : Option Nat :=
  (upto 0 16).find? fun p => (fget s.net.routes 0 m).testBit p && (s.port p).up

/-! ## Messages to other modules (R326, R327) -/

/-- One bit of a CRC-64: the register, below 2^64, moves up; a one that leaves it brings the polynomial in. -/
def crcBit (c : Nat) : Nat := if c < 2 ^ 63 then 2 * c else (2 * c - 2 ^ 64) ^^^ 0x42F0E1EBA9EA3693

/-- One byte of a CRC-64, most significant bit first. -/
def crcByte (c : Nat) (b : Byte) : Nat :=
  crcBit (crcBit (crcBit (crcBit (crcBit (crcBit (crcBit (crcBit (c ^^^ b.toNat * 2 ^ 56))))))))

/-- The register of a CRC-64 after some bytes; the match has it evaluated byte by byte. -/
def crcFrom : List Byte → Nat → Nat
  | [], c => c
  | b :: t, c => match crcByte c b with
    | 0 => crcFrom t 0
    | n + 1 => crcFrom t (n + 1)

/-- CRC-64 of a list of bytes: polynomial 0x42F0_E1EB_A9EA_3693, most significant bit first, initial value 0. -/
def crc64 (l : List Byte) : BitVec 64 := BitVec.ofNat 64 (crcFrom l 0)

/-- The traffic class of a message (Table 12.5). -/
def msgClass : LinkMsg → Nat
  | .block _ _ _ _ _ | .read _ _ _ | .data _ _ => 0
  | .part _ _ => 1
  | .ctrAdd _ _ _ _ _ _ | .posted _ _ _ _ _ _ _ => 2
  | .idle | .view _ _ => 3

/-- The flit that carries a message from a port (R326). Log 15 (DESIGN CHOICE). -/
def mkFlit (s : State) (p : Port) (dmod : Nat) (msg : LinkMsg) : Flit :=
  let hdr := BitVec.ofNat 64 (msgClass msg * 2 ^ 62 + dmod % 128 * 2 ^ 55 + modNum s * 2 ^ 48 + p.rxSeq % 2 ^ 16 * 2 ^ 32
    + (p.txSeq + 1) % 2 ^ 16 * 2 ^ 16)
  let body := (upto 0 240).map (Config.flitBody msg)
  { hdr := hdr, payload := body, crc := crc64 (leBytes 8 hdr.toNat ++ body), msg := msg }

/-- Sends a message on a port: it stays in the replay buffer until it is acknowledged (R327). None while the buffer
of 512 flits is full. -/
def sendOn (s : State) (n dmod : Nat) (msg : LinkMsg) (src : Option (Sid × Nat))
    (err : Option (Nat × Word) := none) : Option State :=
  let p := s.port n
  if 512 ≤ p.buffer.length then none
  else
    let f := mkFlit s p dmod msg
    some (s.setPort n { p with txSeq := (p.txSeq + 1) % 2 ^ 16, buffer := p.buffer ++ [⟨f, src, err⟩] })

/-- The next sequence number of cross-module operations of this module (R327). -/
def takeSrcSeq (s : State) : Nat × State :=
  (s.net.nextSrcSeq, { s with net := { s.net with nextSrcSeq := s.net.nextSrcSeq + 1 } })

/-- Sends a message to a module on the first working port of its route; none: no port works, or its buffer is full. -/
def sendTo (s : State) (mod : Nat) (msg : LinkMsg) : Option State := (routeTo s mod).bind fun n => sendOn s n mod msg none

/-- Sends a message for a hub or a collective engine of another module, which waits here while no port leads there (R327). -/
def sendOrHold (s : State) (mod : Nat) (msg : LinkMsg) : State :=
  (sendTo s mod msg).getD { s with net := { s.net with held := s.net.held ++ [(mod, msg)] } }

/-- The round of classes 0 to 2, by their weights 4 : 2 : 1 (R326). Log 123 (DESIGN CHOICE). -/
def classRound : List Nat := [0, 0, 0, 0, 1, 1, 2]

/-- The class that a port serves next, and its place in the round then (R326): class 3 before all others, else the next of the
round that has a message. -/
def nextClass (turn : Nat) (has : Nat → Bool) : Option (Nat × Nat) :=
  if has 3 then some (3, turn)
  else (upto turn 7).findSome? fun k => let c := nth classRound 3 (k % 7); if has c then some (c, (k + 1) % 7) else none

/-- A port sends what waits for it, in the order of its classes, while its buffer has room. -/
def servePort (n : Nat) : Nat → State → State
  | 0, s => s
  | k + 1, s =>
    let first := fun (c : Nat) => s.net.held.find? fun m => routeTo s m.1 == some n && msgClass m.2 == c
    let sent := do
      let p ← nextClass (s.port n).turn fun c => (first c).isSome
      let m ← first p.1
      let s ← sendOn s n m.1 m.2 none
      let s := s.setPort n { s.port n with turn := p.2 }
      some { s with net := { s.net with held := s.net.held.erase m } }
    match sent with
    | some s => servePort n k s
    | none => s

/-- Sends what waits, as far as it now can. -/
def sendHeld (s : State) : State := (upto 0 16).foldl (fun s n => servePort n s.net.held.length s) s

/-- A peer read of the line of a peer-tier key leaves (R112, R251, R326); what it returns is a free value, and a message that
finds no room makes no difference to it. Log 109 (DESIGN CHOICE). -/
def askPeer (s : State) (key : Nat) : State :=
  let q := takeSrcSeq s
  (sendTo q.2 ((key - peerBase) / 2 ^ 45) (.read (modNum s) q.1 ((key - peerBase) % 2 ^ 45 / 64 * 64))).getD s

end Sys2Proof.Machine
end

