-- ==== Sys2Proof/Machine/Access.lean ====
section
/-! DEFINITION. Translation (R253 to R257), and the accesses of a strand to global memory and to the pool: what a
read returns (R227), signatures and scope (R229, R230), speculative capacity (R244), pool marks and the undo log
(R12, R14), poison and encryption (R262, R263), watchpoints (R356), access counting (R258). -/

namespace Sys2Proof.Machine

/-! ## Physical addresses (R241) -/

/-- Bytes between the ranges of two dies. -/
def dieStep : Nat := 0x2000000000

/-- Populated HBM of a die: 96 GiB. -/
def dieBytes : Nat := 0x1800000000

/-- Is this a populated local-tier address (Table 9.1)? -/
def localOk (pa : Nat) : Bool := decide (pa < 8 * dieStep) && decide (pa % dieStep < dieBytes)

/-- REPLSIZE in force, in bytes (R248, Table 17.3). -/
def replBytes (s : State) : Nat := bits (fget s.boot.conf 0 2) 31 16 * 0x20000000

/-- Is the address in die 0's replica region (R248)? -/
def inReplica (s : State) (pa : Nat) : Bool := decide (dieBytes - replBytes s ≤ pa) && decide (pa < dieBytes)

/-- The HBM stack of a local-tier address (R242); the stacks differ in nothing that a program sees. -/
def stackOf (pa : Nat) : Nat := (pa / 256 % 2) ^^^ (pa / 8192 % 2)

/-- Is no port up that leads to the module of a peer-tier key (R327)? -/
def unreachable (s : State) (key : Nat) : Bool := (routeTo s ((key - peerBase) / 2 ^ 45)).isNone

/-! ## Poison and encryption of committed memory -/

/-- Is the half-line of the key poisoned (R262)? -/
def poisonedAt (s : State) (key : Nat) : Bool := fget s.poison false (key / 32)

/-- Is any of `n` bytes from `key` in a poisoned half-line? -/
def anyPoison (s : State) (key n : Nat) : Bool := (upto 0 n).any fun i => poisonedAt s (key + i)

/-- The number by which a line remembers that it was written under the key material of a slot: that material plus 1 (R263). -/
def keyId (s : State) (slot : Nat) : Nat := fget s.boot.keys 0 slot + 1

/-- Does the slot hold no key (R340)? -/
def noKey (s : State) (slot : Nat) : Bool := (ffind s.boot.keys slot).isNone

/-- The 64 bytes of a line as they stand in the HBM: its ciphertext under the key that it was written under, if any (R263). -/
def storedLine (s : State) (line : Nat) : List Byte :=
  let l := (upto (line * 64) 64).map s.mem.read
  match fget s.tags 0 line with
  | 0 => l
  | m + 1 => xtsLine aesEnc m (line * 64) l

/-- Does a read of the line under key slot `slot` pass its integrity tag (R263)? A slot that holds no key, as after
management has cleared it, checks no tag (R340); a line written without a key has none. Log 67 (DESIGN CHOICE). -/
def tagOk (s : State) (slot key : Nat) : Bool :=
  let line := key / 64
  slot == 0 || noKey s slot || fget s.tags 0 line == keyId s slot || (match fget s.tags 0 line with
    | 0 => false
    | m + 1 =>
      let c := storedLine s line
      gmacTag m (line * 64) c == gmacTag (fget s.boot.keys 0 slot) (line * 64) c)

/-- The committed byte as a read under key slot `slot` sees it: the byte that was written, where the line was written under
the same key; else what the HBM holds, decrypted under the slot's key; a slot without a key gives a free value (R263,
R340). Log 10 (DESIGN CHOICE), 67 (DESIGN CHOICE). -/
def committedByte (s : State) (slot key : Nat) : Byte :=
  let b := s.mem.read key
  let tag := fget s.tags 0 (key / 64)
  if tag = (if slot = 0 then 0 else keyId s slot) then b
  else if slot = 0 then nth (storedLine s (key / 64)) 0 (key % 64)
  else if noKey s slot then Config.xts tag key b
  else nth (xtsLine aesDec (fget s.boot.keys 0 slot) (key / 64 * 64) (storedLine s (key / 64))) 0 (key % 64)

/-- What keeps a read of committed bytes of one line from giving data: an uncorrectable half-line, or a tag that fails
(R262, R263, R340). -/
inductive BadLine where
  | poison
  | tag
deriving DecidableEq, Repr

/-- Is a half-line of the key's line poisoned? -/
def linePoison (s : State) (key : Nat) : Bool := poisonedAt s (key / 64 * 64) || poisonedAt s (key / 64 * 64 + 32)

/-- The check of a read of the bytes at some keys, all of one line, under a key slot, in the order of R263: under a slot
the symbol code of the whole line, then its tag. -/
def badLine (s : State) (slot : Nat) (keys : List Nat) : Option BadLine :=
  match keys with
  | [] => none
  | k :: _ =>
    if slot = 0 then (if keys.any (poisonedAt s) then some .poison else none)
    else if linePoison s k then some .poison
    else if tagOk s slot k then none else some .tag

/-! ## The page walk (R253 to R256) -/

/-- A successful translation. -/
structure Leaf where
  leaf : Word
  big : Bool
deriving DecidableEq, Repr

/-- The index of level `n` of the walk (Table 9.3). -/
def levelIndex (va : Word) (n : Nat) : Nat :=
  match n with | 0 => bits va 59 55 | 1 => bits va 54 42 | 2 => bits va 41 29 | _ => bits va 28 16

/-- The dword of the translation root (Table 9.7). -/
def rootOfCtx (s : State) (ctx : Nat) : Nat := bits (leWord (s.mem.bytes ctx 8)) 51 8 * 256

/-- Is a leaf entry malformed (Table 9.5)? `big` is a 512-MiB leaf. -/
def badLeaf (s : State) (e : Word) (big : Bool) : Bool :=
  let pa := bits e 51 16 * 0x10000
  let tier := bits e 54 53
  bits e 57 56 == 3 || tier == 3 || bits e 5 0 != 0 || (big && bits e 28 16 != 0)
  || (tier == 0 && !localOk pa)
  || (bitOf e 55 && (tier != 0 || !inReplica s pa))
  || (bits e 15 8 != 0 && tier != 0)

/-- The walker cache's entry for a level of a walk (R256). -/
def cachedWalk (s : State) (die ctx n : Nat) (path : Nat) : Option Word :=
  ((s.die die).walk.find? fun e => e.1 == ctx && e.2.1 == n && e.2.2.1 == path).map fun e => e.2.2.2

/-- The tables' entry at level `n`: from the walker cache, or from committed memory. -/
def walkEntry (s : State) (die ctx n path addr : Nat) : Word :=
  match cachedWalk s die ctx n path with
  | some e => e
  | none => leWord (s.mem.bytes addr 8)

/-- Walks from level `n` with the table at `table`; the path is the walk's non-leaf entries, for the walker
cache. Faults carry (code, SUB). -/
def walkFrom (s : State) (die ctx : Nat) (va : Word) : Nat → Nat → Nat → List (Nat × Nat × Word) →
    Except (Nat × Nat) (Leaf × List (Nat × Nat × Word))
  | 0, _, _, _ => .error (6, 1)
  | fuel + 1, n, table, path =>
    let addr := table + levelIndex va n * 8
    let code := (upto 0 (n + 1)).foldl (fun a i => a * 8192 + levelIndex va i) 0
    if (s.die (addr / dieStep)).lost then .error (0x14, 0)
    else if cachedWalk s die ctx n code = none ∧ linePoison s addr then .error (0x12, 4)
    else
      let e := walkEntry s die ctx n code addr
      if !bitOf e 63 then .error (6, 0)
      else if bitOf e 62 then
        if n < 2 ∨ badLeaf s e (n == 2) then .error (6, 1) else .ok (⟨e, n == 2⟩, path)
      else if n = 3 ∨ !localOk (bits e 51 16 * 0x10000) then .error (6, 1)
      else walkFrom s die ctx va fuel (n + 1) (bits e 51 16 * 0x10000) (path ++ [(n, code, e)])

/-- The walk of R253 for a context on a die. A root that is no populated local-tier address is a non-local table pointer
(R253, R255). -/
def walk (s : State) (die ctx : Nat) (va : Word) : Except (Nat × Nat) (Leaf × List (Nat × Nat × Word)) :=
  if localOk (rootOfCtx s ctx) then walkFrom s die ctx va 4 0 (rootOfCtx s ctx) [] else .error (6, 1)

/-- A TLB with an entry added; a full one loses the entry that the free choice names (R256).
Log 11 (DESIGN CHOICE). -/
def tlbAdd (l : List TlbEntry) (cap draw : Nat) (e : TlbEntry) : List TlbEntry :=
  if l.length < cap then e :: l else e :: l.eraseIdx (Config.victim draw % cap)

/-- The entry of a TLB for a page. -/
def tlbFind (l : List TlbEntry) (ctx page : Nat) : Option TlbEntry :=
  l.find? fun e => e.ctx == ctx && (if e.big then e.page / 8192 == page / 8192 else e.page == page)

/-- The walker cache with a walk's non-leaf entries added (R256). Log 11 (DESIGN CHOICE). -/
def walkAdd (l : List (Nat × Nat × Nat × Word)) (draw ctx : Nat) (path : List (Nat × Nat × Word)) :
    List (Nat × Nat × Nat × Word) :=
  path.foldl (fun l p =>
    if l.any fun e => e.1 == ctx && e.2.1 == p.1 && e.2.2.1 == p.2.1 then l
    else if l.length < 256 then (ctx, p.1, p.2.1, p.2.2) :: l
    else (ctx, p.1, p.2.1, p.2.2) :: l.eraseIdx (Config.victim draw % 256)) l

/-- Does `tlbinv` of argument `arg` remove the page (number VA[59:16])? `big` is a 512-MiB page. -/
def tlbHits (arg : Word) (page : Nat) (big : Bool) : Bool :=
  bitOf arg 0 || (if big then page / 8192 == bits arg 59 29 else page == bits arg 59 16)

/-- The arguments of a chunk's `tlbinv` instructions. -/
def Chunk.removals (ch : Chunk) : List Word :=
  ch.ops.filterMap fun r => match r with | .tlbinv a => some a | _ => none

/-- Has a `tlbinv` whose chunk awaits its grant removed the page, so that no TLB caches it (R257)? -/
def pageRemoved (s : State) (ctx page : Nat) (big : Bool) : Bool :=
  s.cores.any fun p => p.2.strands.any fun q => ctxOf s q.2.lid == ctx
    && q.2.waiting.any fun ch => ch.purged && ch.removals.any fun a => tlbHits a page big

/-- Translates a page for a core through its TLB, its cluster's TLB, or a walk that fills both (R256); between the removal of
a `tlbinv` and its grant each use walks, and nothing is cached (R257). Log 88 (DESIGN CHOICE). -/
def translate (s : State) (l ctx : Nat) (va : Word) : Except (Nat × Nat) (Leaf × State) :=
  let page := bits va 59 16
  let co := s.core l
  let cl := s.cluster (clusterOf l)
  match tlbFind co.tlb ctx page with
  | some e => .ok (⟨e.leaf, e.big⟩, s)
  | none =>
    match tlbFind cl.tlb ctx page with
    | some e => .ok (⟨e.leaf, e.big⟩, s.setCore l { co with tlb := tlbAdd co.tlb 64 s.draws e })
    | none =>
      match walk s (dieOf l) ctx va with
      | .error e => .error e
      | .ok (x, path) =>
        if pageRemoved s ctx page x.big then .ok (x, s) else
        let e : TlbEntry := ⟨ctx, page, x.big, x.leaf⟩
        let s := s.setCore l { co with tlb := tlbAdd co.tlb 64 s.draws e }
        let s := s.setCluster (clusterOf l) { cl with tlb := tlbAdd cl.tlb 2048 s.draws e }
        let d := s.die (dieOf l)
        .ok (x, s.setDie (dieOf l) { d with walk := walkAdd d.walk s.draws ctx path })

/-- The physical address that a leaf gives (R254). -/
def leafPa (x : Leaf) (va : Word) : Nat :=
  if x.big then bits x.leaf 51 29 * 0x20000000 + bits va 28 0 else bits x.leaf 51 16 * 0x10000 + bits va 15 0

/-- The tier of a leaf: 0 local, 1 host, 2 peer. -/
def leafTier (e : Word) : Nat := bits e 54 53

/-- What an access wants. -/
inductive Want where
  | read | write | fetch
deriving DecidableEq, Repr

/-- Permission checks of a leaf (Table 9.5, R108 items 5 and 6): the trap's code and SUB.
Log 88 (DESIGN CHOICE). -/
def permit (e : Word) (w : Want) (user posted : Bool) : Except (Nat × Nat) Unit :=
  if user && !bitOf e 58 then .error (2, 0)
  else match w with
    | .read =>
      if !bitOf e 61 then .error (7, 0)
      else if leafTier e == 2 && !bitOf e 52 then .error (7, 4) else .ok ()
    | .write =>
      if leafTier e == 2 && !posted then .error (7, 3)
      else if !bitOf e 60 then .error (7, 1) else .ok ()
    | .fetch => if !bitOf e 59 then .error (7, 2) else .ok ()

/-- A resolved place of global memory: memory key, signature key (the address in the PTE for a replicated page),
leaf, and whether that maps a 512-MiB page. -/
structure Spot where
  key : Nat
  sig : Nat
  leaf : Word
  big : Bool
deriving DecidableEq, Repr

/-- The spot of an address under a leaf, as a core on die `d` sees it (R241, R249).
Log 87 (DEDUCED). -/
def spotOf (x : Leaf) (va : Word) (d : Nat) : Spot :=
  let pa := leafPa x va
  match leafTier x.leaf with
  | 1 => ⟨hostBase + pa, hostBase + pa, x.leaf, x.big⟩
  | 2 => ⟨peerBase + pa, peerBase + pa, x.leaf, x.big⟩
  | _ => if bitOf x.leaf 55 then ⟨pa + d * dieStep, pa, x.leaf, x.big⟩ else ⟨pa, pa, x.leaf, x.big⟩

/-- The translation of an address that a spot came from. -/
def Spot.page (p : Spot) (ctx : Nat) (va : Word) : Page := ⟨ctx, bits va 59 16, p.big⟩

/-- Translates and checks an access of core `l` in context `ctx` (R108 items 4 to 6, R324). -/
def resolve (s : State) (l ctx : Nat) (va : Word) (w : Want) (user posted : Bool) :
    Except (Nat × Nat) (Spot × State) :=
  match translate s l ctx va with
  | .error e => .error e
  | .ok (x, s) =>
    match permit x.leaf w user posted with
    | .error e => .error e
    | .ok () =>
      let p := spotOf x va (dieOf l)
      if leafTier x.leaf == 0 && (s.die (p.key / dieStep)).lost then .error (0x14, 0) else .ok (p, s)

/-! ## The members of a bunch (R299, R300) -/

/-- Core of member `k` of the bunch that a strand leads; its own core alone. -/
def memberCore (s : State) (c : Sid) (k : Nat → Nat) : Nat :=
  match leads s c with
  | some b => c.core / 16 * 16 + b.c0 + k b.w
  | none => c.core

/-- What the member bank of member `k` holds while the bunch of a leader stands: the leader's g and v registers numbered
`k` modulo w, by register number (g 0 to 31, v 32 to 63), and in its shadow copy those of the open chunk's start (R298).
Log 103 (DEDUCED). -/
def memberBank (s : State) (c : Sid) (k : Nat) (shadow : Bool) : FMap V512 :=
  match leads s c with
  | none => []
  | some b =>
    let st := s.strand c
    let a := if shadow then (match st.opened with | some ch => ch.start | none => st.arch) else st.arch
    ((upto 0 32).filter fun n => n % b.w == k).map (fun n => (n, (a.rg (BitVec.ofNat 5 n)).zeroExtend 512))
      ++ ((upto 0 32).filter fun n => n % b.w == k).map fun n => (32 + n, a.rv (BitVec.ofNat 5 n))

/-- The leader's registers are written into the member banks, at the grant of `compose` and at each later grant of the leader
(R298). Log 103 (DEDUCED). -/
def fillBanks (s : State) (c : Sid) : State :=
  match leads s c with
  | none => s
  | some b => (upto 0 b.w).foldl (fun s k =>
      let l := c.core / 16 * 16 + b.c0 + k
      s.setCore l { s.core l with bank := memberBank s c k false, bankShadow := memberBank s c k true }) s

/-- The memory member: the core that performs an access of the running strand to a line (R300). -/
def memCore (s : State) (va : Word) : Nat := memberCore s s.cur fun w => ((bits va 59 6) ^^^ (bits va 59 12)) % w

/-- The fetch member: the core that fetches the block of an address (R299). -/
def fetchCore (s : State) (c : Sid) (va : Word) : Nat := memberCore s c fun w => ((bits va 59 5) ^^^ (bits va 59 9)) % w

/-- The running strand's access through the TLB of its memory member (R108, R300). -/
def resolveOwn (s : State) (va : Word) (w : Want) (posted : Bool) : Except (Nat × Nat) (Spot × State) :=
  resolve s (memCore s va) (s.ctx s.cur) va w (!s.arch.priv) posted

/-- An instruction of Table 7.1 goes through the TLB of the strand's own core, in a bunch that of the leader (R300). -/
def resolveLead (s : State) (va : Word) (w : Want) (posted : Bool) : Except (Nat × Nat) (Spot × State) :=
  resolve s s.cur.core (s.ctx s.cur) va w (!s.arch.priv) posted

/-! ## Reads of global memory by a strand -/

/-- The strand's newest speculative byte at a key, if any (R113, R227, R231). -/
def ownByte (st : Strand) (key : Nat) : Option Byte :=
  (st.chunks.reverse.findSome? fun ch => ffind ch.writes key)

/-- The arbiter scope that a page asks for (R230, R247): 1 cluster, 2 die, 3 package; 0 for a peer page. -/
def pageScope (e : Word) (write : Bool) : Nat :=
  match leafTier e with
  | 2 => 0
  | 1 => 3
  | _ => if bitOf e 55 && write then 3 else bits e 57 56 + 1

/-- Enters a page and a line into the open chunk (R229, R230, R257). A solo chunk whose slot is narrower than the
page needs is squashed (R234). -/
def enterLine (s : State) (p : Spot) (va : Word) (write : Bool) : Ex State :=
  let ch := s.chunk
  let scope := Nat.max ch.scope (pageScope p.leaf write)
  let st := s.me
  if ch.solo && (match st.solo with | some a => decide (a.rank < scope) | none => false) then .error (.widen scope)
  else
    let peer := leafTier p.leaf == 2
    .ok (s.setCh { ch with
      scope := scope, pages := ch.pages.insert (p.page (s.ctx s.cur) va),
      rsig := if peer || write then ch.rsig else sigInsert ch.rsig (lineNo p.sig),
      wsig := if peer || !write then ch.wsig else sigInsert ch.wsig (lineNo p.sig) })

/-- Counts a line request that leaves the cluster (R258, R259). A crossing leaves a notice for the record.
Log 12 (DESIGN CHOICE). -/
def countAccess (s : State) (p : Spot) (va : Word) : State :=
  let ctx := s.ctx s.cur
  let page := if p.big then bits va 59 29 * 8192 else bits va 59 16
  let base := leWord (s.mem.bytes (ctx + 8) 8)
  let w3 := leWord (s.mem.bytes (ctx + 24) 8)
  let usable := base != 0 && ringSize (bits w3 15 0) && (handleOf (leWord (s.mem.bytes (ctx + 16) 8))).isSome
  if !bitOf p.leaf 7 || !usable || !Config.leavesCluster s.draws p.key then s
  else
    let thresh := if bits w3 31 16 = 0 then 256 else bits w3 31 16
    let d := s.die (dieOf s.cur.core)
    match d.access.find? fun a => a.ctx == ctx && a.page == page && a.big == p.big with
    | some a =>
      let n := Nat.min 0xFFFF (a.count + 1)
      let acc := d.access.map fun b => if b.ctx == ctx && b.page == page && b.big == p.big then { b with count := n } else b
      let note := if a.count < n ∧ n = thresh then [(⟨ctx, page, 0, n, s.time⟩ : Notice)] else []
      s.setDie (dieOf s.cur.core) { d with access := acc, notices := d.notices ++ note }
    | none =>
      if d.access.length < 8192 then
        let note := if thresh = 1 then [(⟨ctx, page, 0, 1, s.time⟩ : Notice)] else []
        s.setDie (dieOf s.cur.core) { d with access := ⟨ctx, page, p.big, 1⟩ :: d.access, notices := d.notices ++ note,
                                             full := d.full.filter fun f => f != (ctx, page) }
      else if d.full.contains (ctx, page) then s
      else s.setDie (dieOf s.cur.core) { d with full := (ctx, page) :: d.full,
                                                notices := d.notices ++ [⟨ctx, page, 1, 0, s.time⟩] }

/-- The first of `n` bytes that watchpoint `w` watches, for reads or writes of the core's strands (R355, R356). -/
def watchByte (w : Watch) (scratch : Bool) (key n : Nat) (write : Bool) : Option Nat :=
  match w.place with
  | some (sc, base) =>
    if bitOf w.ctl 31 && sc == scratch && bitOf w.ctl (if write then 29 else 30) then
      (upto 0 n).find? fun i => decide (base ≤ key + i) && decide (key + i < base + 2 ^ bits w.ctl 19 16)
        && bitOf w.ctl ((key + i - base) % 8)
    else none
  | none => none

/-- Own-access watch matching (R356): a first match in a chunk that does not step makes it step. -/
def checkWatch (s : State) (ptr : Word) (scratch : Bool) (key n : Nat) (write : Bool) : Ex State :=
  let ch := s.chunk
  match ch.watches.findSome? (fun w => (watchByte w.2 scratch key n write).map fun i => (w.1, i)) with
  | none => .ok s
  | some (k, i) =>
    if ch.watch.isSome then .ok s
    else if ch.held then .ok (s.setCh { ch with watch := some (k, ptr + BitVec.ofNat 64 i) })
    else if ch.retired = 0 ∨ ch.stepping then
      .ok (s.setCh { ch with watch := some (k, ptr + BitVec.ofNat 64 i), mustEnd := some 6 })
    else .error .restep

/-- A trap's code and SUB turned into a stop with TRAPVAL `v`. -/
def lift {α : Type} (v : Word) (x : Except (Nat × Nat) α) : Ex α :=
  match x with
  | .ok a => .ok a
  | .error e => raise e.1 e.2 v

/-- The bytes of a peer-tier read: for a vector or tile read (`pinned`) a pinned line's snapshot, else a new one (R112,
R177, R251).
Log 9 (DESIGN CHOICE). -/
def peerBytes (s : State) (key n : Nat) (pinned : Bool) : List Byte :=
  let pin := if pinned then fget s.chunk.pins 0 (key / 64) else 0
  let draw := if pin = 0 then s.draws else pin
  (upto key n).map fun k => Config.peerByte draw k

/-- Reads `n` bytes of one line of global memory through pointer `ptr` (R109, R227, R262, R263). `fresh` says that
the instruction has not requested the line yet, so that the request may count (R258); `pinned` that it is a vector or tile
read (R177). Log 59 (DEDUCED). -/
def loadGlobal (s : State) (ptr : Word) (n : Nat) (fresh pinned : Bool) : Ex (List Byte × State) := do
  let (p, s) ← lift ptr (resolveOwn s ptr .read false)
  let s ← checkWatch s ptr false p.sig n false
  let s ← enterLine s p ptr false
  let s := if fresh then countAccess s p ptr else s
  if leafTier p.leaf == 2 then
    (if (s.me.peerLate || unreachable s p.key) && !(pinned && fget s.chunk.pins 0 (p.key / 64) != 0)
     then keep s (raise 0x12 3 ptr) else .ok (peerBytes s p.key n pinned, askPeer s p.key))
  else
    let slot := bits p.leaf 15 8
    let st := s.me
    let clean := (upto 0 n).filter fun i => (ownByte st (p.sig + i)).isNone
    let marked := fun (i : Nat) => st.chunks.any fun ch => ch.taint.contains ((p.sig + i) / 32)
    if (upto 0 n).any marked then keep s (raise 0x12 0 ptr)
    else match badLine s slot (clean.map fun i => p.key + i) with
      | some .poison => keep s (raise 0x12 (if slot = 0 then 0 else 2) ptr)
      | some .tag => keep s (.error (.integ slot ptr))
      | none => .ok ((upto 0 n).map fun i => (ownByte st (p.sig + i)).getD (committedByte s slot (p.key + i)), s)

/-! ## Writes of global memory by a strand -/

/-- The number of the member of a bunch that performs a line (R300); 0 alone. -/
def memMember (s : State) (va : Word) : Nat :=
  match leads s s.cur with
  | some b => ((bits va 59 6) ^^^ (bits va 59 12)) % b.w
  | none => 0

/-- Speculative lines in the set of a line: of all strands of the core at D0, of the strand at D1 and D2
(R244, R302). -/
def specLines (s : State) (line member : Nat) : Nat :=
  let mine := s.me.chunks
  let all := if ordered s s.me then mine else (s.core s.cur.core).strands.flatMap fun p => p.2.chunks
  ((all.flatMap fun ch => ch.lines.filterMap fun e =>
    if e.1 % 64 = line % 64 ∧ e.2.member = member then some e.1 else none).dedup).length

/-- Room for a new speculative line (R11, R244, R374): the chunk ends before the store, or, when the store is its
first instruction, after it. -/
def roomForLine (s : State) (line member : Nat) : Ex State :=
  let all := if ordered s s.me then s.me.chunks else (s.core s.cur.core).strands.flatMap fun p => p.2.chunks
  let known := all.any fun ch => ch.lines.any fun e => e.1 == line && e.2.member == member
  if known || decide (specLines s line member < (if ordered s s.me then 2 else 6)) then .ok s
  else if s.chunk.held || s.chunk.retired != 0 then .error (.cut 1)
  else .ok (s.setCh { s.chunk with mustEnd := some 1 })

/-- The half-lines, 0 and 1, that `n` bytes from a key touch in its line. -/
def halvesIn (key n : Nat) : List Nat := upto (key % 64 / 32) ((key % 64 + n - 1) / 32 - key % 64 / 32 + 1)

/-- Writes bytes of one line of global memory through pointer `ptr` as speculative data (R110, R12). The
page is translated as a write; a write-blocked page waits (R260). -/
def storeGlobal (s : State) (ptr : Word) (data : List Byte) (fresh : Bool) : Ex State := do
  let (p, s) ← lift ptr (resolveOwn s ptr .write false)
  if bitOf p.leaf 6 then .error (.blocked (p.page (s.ctx s.cur) ptr))
  else
    let s ← checkWatch s ptr false p.sig data.length true
    let member := memMember s ptr
    let s ← roomForLine s (p.sig / 64) member
    let s ← enterLine s p ptr true
    let s := if fresh then countAccess s p ptr else s
    let ch := s.chunk
    let info := (ffind ch.lines (p.sig / 64)).getD ⟨bits p.leaf 15 8, bitOf p.leaf 55, member, []⟩
    let info := { info with ptrs := (halvesIn p.sig data.length).foldl (fun m h =>
      if (ffind m h).isSome then m else fset m h ptr) info.ptrs }
    let w := (data.zip (upto p.sig data.length)).foldl (fun w b => fset w b.2 b.1) ch.writes
    let taint := ch.taint.filter fun h => !(decide (p.sig ≤ h * 32) && decide (h * 32 + 32 ≤ p.sig + data.length))
    .ok (s.setCh { ch with writes := w, taint := taint, lines := fset ch.lines (p.sig / 64) info })

/-! ## The pool (R12, R14, R110) -/

/-- The other strands' chunks that mark a granule so that an access conflicts (R14): strand, index of its first
such chunk, whether a squash from there on meets a solo chunk (R231). -/
def poolRivals (s : State) (g : Nat) (write : Bool) : List (Nat × Nat × Bool) :=
  (s.core s.cur.core).strands.filterMap fun p =>
    if p.1 = s.cur.strand then none
    else (p.2.chunks.zipIdx.find? fun x =>
      fget x.1.poolW false g || (write && fget x.1.poolR false g)).map fun x => (p.1, x.2, p.2.soloFrom x.2)

/-- Resolves pool conflicts on a granule and marks it (R14). -/
def touchPool (s : State) (g : Nat) (write : Bool) : Ex State := do
  let me := s.chunk.solo
  let s ← (poolRivals s g write).foldlM (fun s r =>
    let other : Sid := ⟨s.cur.core, r.1⟩
    if r.2.2 && !me then .error .wait
    else if me && !r.2.2 then .ok (squashFrom s other r.2.1 1 true)
    else if me && r.2.2 then
      if s.cur.strand < r.1 then
        let s := squashFrom s other r.2.1 1 false
        let arb := ((s.strand other).solo).getD (.core other.core)
        let s := dropSolo (s.setStrand other { s.strand other with
          soloHeld := false, soloAfter := some (s.cur.strand, s.me.soloSeq) }) other
        .ok { s with solo := s.solo ++ [(arb, other)] }
      else .error (.conflict false)
    else if s.cur.strand < r.1 then .ok (squashFrom s other r.2.1 1 true)
    else .error (.conflict true)) s
  let ch := s.chunk
  .ok (s.setCh (if write then { ch with poolW := fset ch.poolW g true } else { ch with poolR := fset ch.poolR g true }))

/-- Logs a granule's old contents at the chunk's first write to it, within the limits of the undo log (R12, R287,
R374). -/
def logUndo (s : State) (g : Nat) : Ex State :=
  let ch := s.chunk
  if ch.undo.any fun e => e.1 == g then .ok s
  else
    let co := s.core s.cur.core
    let mine : Nat := s.me.chunks.foldl (fun n c => n + c.undo.length) 0
    let total : Nat := co.strands.foldl (fun n p => p.2.chunks.foldl (fun n c => n + c.undo.length) n) 0
    let share := 512 / Nat.max 1 co.nstr
    let passes := if ordered s s.me then decide (share ≤ mine) else decide (512 ≤ total)
    let entry := (g, Mem.bytes co.pool (g * 16) 16, (upto 0 4).map fun i => fget co.poolBad false (g * 4 + i))
    if passes && (ch.held || ch.retired != 0) then .error (.cut 2)
    else if 512 ≤ total then .error .wait
    else .ok (s.setCh { ch with undo := entry :: ch.undo, mustEnd := if passes then some 2 else ch.mustEnd })

/-- Is any of the 32-bit words of `n` pool bytes poisoned? -/
def poolBadIn (s : State) (key n : Nat) : Bool :=
  (upto (key / 4) ((key + n - 1) / 4 - key / 4 + 1)).any fun w => fget (s.core s.cur.core).poolBad false w

/-- The granules of `n` pool bytes. -/
def granulesOf (key n : Nat) : List Nat := upto (key / 16) ((key + n - 1) / 16 - key / 16 + 1)

/-- Reads `n` pool bytes; a poisoned word raises MCHK with TRAPVAL `v` (R338). -/
def loadPool (s : State) (v : Word) (key n : Nat) : Ex (List Byte × State) := do
  let s ← (granulesOf key n).foldlM (fun s g => touchPool s g false) s
  if poolBadIn s key n then keep s (raise 0x12 0 v)
  else .ok (Mem.bytes (s.core s.cur.core).pool key n, s)

/-- Writes pool bytes of the running strand's core in place; whole words lose their poison (R338). -/
def pokePool (s : State) (l key : Nat) (data : List Byte) : State :=
  let co := s.core l
  let whole := (upto (key / 4) ((key + data.length - 1) / 4 - key / 4 + 1)).filter fun w =>
    decide (key ≤ w * 4) && decide (w * 4 + 4 ≤ key + data.length)
  s.setCore l { co with
    pool := Mem.store co.pool key data,
    poolBad := whole.foldl fdel co.poolBad,
    inUse := if key < 0x20000 then Nat.max co.inUse (key + data.length) else co.inUse }

/-- Writes pool bytes as part of the chunk: marks, undo log, and the read-modify-write of part words, which a
poisoned word turns into MCHK SUB 1 (R110). -/
def storePool (s : State) (v : Word) (key : Nat) (data : List Byte) : Ex State := do
  let n := data.length
  let s ← (granulesOf key n).foldlM (fun s g => do
    let s ← touchPool s g true
    logUndo s g) s
  let part := (upto (key / 4) ((key + n - 1) / 4 - key / 4 + 1)).any fun w =>
    (decide (w * 4 < key) || decide (key + n < w * 4 + 4)) && fget (s.core s.cur.core).poolBad false w
  if part then keep s (raise 0x12 1 v)
  else .ok (pokePool s s.cur.core key data)

/-! ## Accesses by pointer -/

/-- The offset of a local scratchpad access of `n` bytes, if it lies inside (R36, R37). -/
def scratchOk (s : State) (off n : Nat) : Bool := decide (off + n ≤ (s.core s.cur.core).spBytes)

/-- A read of `n` bytes of one line through a pointer whose window and alignment are already checked. -/
def loadAt (s : State) (ptr : Word) (n : Nat) (fresh : Bool := true) (pinned : Bool := false) : Ex (List Byte × State) :=
  match placeOf ptr with
  | .scratch off => do
    let s ← checkWatch s ptr true off n false
    loadPool s ptr off n
  | _ => loadGlobal s ptr n fresh pinned

/-- A write of bytes of one line through such a pointer. -/
def storeAt (s : State) (ptr : Word) (data : List Byte) (fresh : Bool := true) : Ex State :=
  match placeOf ptr with
  | .scratch off => do
    let s ← checkWatch s ptr true off data.length true
    storePool s ptr off data
  | _ => storeGlobal s ptr data fresh

/-- The checks of R108 items 1 to 3 for a scalar access of `n` bytes: ADDR, PROT for the counter window, MISALIGN. -/
def checkScalar (s : State) (ea : Word) (n : Nat) (write counterOk : Bool) : Ex Unit :=
  if bits ea 63 60 ≠ 0 then raise 5 0 ea
  else do
    match placeOf ea with
    | .paged => .ok ()
    | .scratch off => if scratchOk s off n then .ok () else raise 5 0 ea
    | .counter _ _ => if write then raise 7 1 ea else if counterOk then .ok () else raise 5 0 ea
    | _ => raise 5 0 ea
    if ea.toNat % n ≠ 0 then raise 4 0 ea else .ok ()

/-- The saved value of a counter whose occupancy is husked (R193): a poisoned half-line of the husk is a poisoned counter,
and a tag that fails raises INTEG. Log 107 (DEDUCED). -/
def huskedCounter (s : State) (h : Word) (l i : Nat) : Ex Word :=
  let ctx := s.ctx s.cur
  let at' := leWord (s.mem.bytes (ctx + 32) 8) + BitVec.ofNat 64 (l * 0x24000 + 0x4000 + i * 8)
  match resolve s s.cur.core ctx at' .read false false with
  | .error e => raise e.1 e.2 h
  | .ok (p, _) =>
    let slot := bits p.leaf 15 8
    match badLine s slot (upto p.key 8) with
    | some .poison => raise 0x12 7 h
    | some .tag => .error (.integ slot h)
    | none => .ok (leWord ((upto p.key 8).map fun k => committedByte s slot k))

/-- A counter snapshot (R112, R193, R196): ADDR SUB 2 where nothing of the context claims or holds the core, the
husk's saved value while the occupancy is husked, MCHK SUB 7 for a poisoned counter. A counter of a lost die raises
HOMELOST SUB 0, the form that is synchronous. Log 107 (DEDUCED). -/
def snapshot (s : State) (h : Word) (l i : Nat) : Ex Word :=
  let ctx := s.ctx s.cur
  let anchored := s.lu.launches.any fun p => p.2.anchor == l && p.2.ctx == ctx
  if huskedHere s ctx l && !anchored then huskedCounter s h l i
  else if !claims s ctx l && !holds s ctx l && !(huskedHere s ctx l && anchored) then raise 5 2 h
  else if (s.die (dieOf l)).lost then raise 0x14 0 h
  else if fget (s.core l).ctrBad false i then raise 0x12 7 h
  else .ok (fget (s.core l).ctr 0 i)

end Sys2Proof.Machine
end

