-- ==== Sys2Proof/Machine/Flags.lean ====
section
/-! DEFINITION. FCSR: the sticky flags, SF, the trap enables and the mode in force (Table 1.5, R46, R65, R69, R73,
R74, R101, R106). -/

namespace Sys2Proof.Machine

/-- The exceptions an operation raises (R73), and SF (R65, R72, R84). -/
structure Flagged where
  nv : Bool
  dz : Bool
  ov : Bool
  uf : Bool
  nx : Bool
  sf : Bool
deriving DecidableEq, Repr

/-- No exception. -/
def noFlags : Flagged := ⟨false, false, false, false, false, false⟩

/-- Invalid alone. -/
def invalidFlag : Flagged := { noFlags with nv := true }

/-- The OR of two operations' flags. -/
def Flagged.or (a b : Flagged) : Flagged :=
  ⟨a.nv || b.nv, a.dz || b.dz, a.ov || b.ov, a.uf || b.uf, a.nx || b.nx, a.sf || b.sf⟩

/-- The bits of FCSR that the flags set. -/
def Flagged.bits (f : Flagged) : Nat :=
  (if f.nv then 0x100 else 0) + (if f.dz then 0x80 else 0) + (if f.ov then 0x40 else 0)
  + (if f.uf then 0x20 else 0) + (if f.nx then 0x10 else 0) + (if f.sf then 0x4000 else 0)

/-- FCSR with sticky flags set (R24). -/
def stick (s : State) (f : Flagged) : State :=
  if f.bits = 0 then s
  else s.setArch (s.arch.wcr 0x010 (s.arch.fcsr ||| BitVec.ofNat 64 f.bits))

/-- FCSR.SF set when `b` (R65). -/
def stickSF (s : State) (b : Bool) : State := if b then stick s { noFlags with sf := true } else s

/-- The trap enables in force: invalid, divide by zero, overflow, underflow from bit 3 down (R46, R74). -/
def trapEnables (s : State) : BitVec 4 :=
  if (pfxOf s).te ≠ 0 then (pfxOf s).te else BitVec.ofNat 4 (bits s.arch.fcsr 12 9)

/-- The enables without a prefix (R134). -/
def fcsrEnables (s : State) : BitVec 4 := BitVec.ofNat 4 (bits s.arch.fcsr 12 9)

/-- The SUB of the enabled exception of highest priority, if any (R74). -/
def enabledTrap (te : BitVec 4) (f : Flagged) : Option Nat :=
  if f.nv && te.getLsbD 3 then some 0 else if f.dz && te.getLsbD 2 then some 1
  else if f.ov && te.getLsbD 1 then some 2 else if f.uf && te.getLsbD 0 then some 3 else none

/-- The rounding mode in force: the prefix's, else FCSR.RM (R24, R87). -/
def modeOf (s : State) : Nat := if (pfxOf s).rnd ≠ 0 then (pfxOf s).rnd.toNat else bits s.arch.fcsr 2 0

/-- Flushing in force (R69). -/
def flushOf (s : State) : Bool := (pfxOf s).ftz || bitOf s.arch.fcsr 3

/-- Whether a division by zero traps (R106). -/
def divTraps (s : State) : Bool := if (pfxOf s).te ≠ 0 then (pfxOf s).te.getLsbD 2 else bitOf s.arch.fcsr 13

/-- An integer clamped to the signed range of `n` bits (R65). -/
def clampI (n : Nat) (x : Int) : Int := max (-(2 ^ (n - 1) : Nat)) (min ((2 ^ (n - 1) : Nat) - 1) x)

/-- An integer clamped to the unsigned range of `n` bits. -/
def clampU (n : Nat) (x : Int) : Int := max 0 (min ((2 ^ n : Nat) - 1) x)

end Sys2Proof.Machine
end

