-- ==== Sys2Proof/Machine/Float.lean ====
section
/-! DEFINITION. Number formats and rounding (chapter 03): exact values, the standard formats (R67 to R74), the
narrow formats and their scales (R80 to R86), conversions (R87), quantisation of a block (R92), `mix32` (R79). -/

namespace Sys2Proof.Machine

/-! ## Exact values -/

/-- An operand or an exact result: NaN (signalling or not), an infinity, or (-1)^neg × m × 2^e. -/
inductive XV where
  | nan (sig : Bool)
  | inf (neg : Bool)
  | fin (neg : Bool) (m : Nat) (e : Int)
deriving DecidableEq, Repr

/-- m × 2^(e - q), for e ≥ q. -/
def scaleTo (m : Nat) (e q : Int) : Nat := m * 2 ^ (e - q).toNat

/-- Is the value zero? -/
def XV.zero : XV → Bool
  | .fin _ m _ => m == 0
  | _ => false

/-- Is it a NaN? -/
def XV.isNan : XV → Bool
  | .nan _ => true
  | _ => false

/-- Is it a signalling NaN? -/
def XV.isSig : XV → Bool
  | .nan b => b
  | _ => false

/-- The sign; false for a NaN. -/
def XV.neg : XV → Bool
  | .nan _ => false
  | .inf n => n
  | .fin n _ _ => n

/-- The value with its sign inverted. -/
def XV.flip : XV → XV
  | .nan b => .nan b
  | .inf n => .inf !n
  | .fin n m e => .fin (!n) m e

/-- The value with its sign cleared. -/
def XV.mag : XV → XV
  | .nan b => .nan b
  | .inf _ => .inf false
  | .fin _ m e => .fin false m e

/-- ⌊log2⌋ of m × 2^e, m nonzero. -/
def log2X (m : Nat) (e : Int) : Int := (Nat.log2 m : Nat) + e

/-- A finite value as a multiple of 2^q. -/
def signedAt (n : Bool) (m : Nat) (e q : Int) : Int := if n then -(scaleTo m e q : Int) else (scaleTo m e q : Int)

/-- x < y of two numbers; zeros are equal; false for a NaN. -/
def XV.lt : XV → XV → Bool
  | .inf true, .inf true => false
  | .inf true, .nan _ => false
  | .inf true, _ => true
  | .inf false, _ => false
  | .fin _ _ _, .inf n => !n
  | .fin n m e, .fin n' m' e' => decide (signedAt n m e (min e e') < signedAt n' m' e' (min e e'))
  | _, _ => false

/-- x = y of two numbers; zeros are equal; false for a NaN. -/
def XV.eqv (x y : XV) : Bool := !x.isNan && !y.isNan && !x.lt y && !y.lt x

/-- x < y with -0 below +0, as minimum and maximum rank (R90, Table 5.4). -/
def XV.below (x y : XV) : Bool := x.lt y || (x.zero && y.zero && x.neg && !y.neg)

/-- Invalid for a signalling NaN among two operands (R68, R73). -/
def sigFlags (x y : XV) : Flagged := if x.isSig || y.isSig then invalidFlag else noFlags

/-- The lesser of two values, or the canonical NaN (Table 5.4). -/
def minX (x y : XV) : XV × Flagged := if x.isNan || y.isNan then (.nan false, sigFlags x y) else (if y.below x then y else x, noFlags)

/-- The greater of two values, or the canonical NaN. -/
def maxX (x y : XV) : XV × Flagged := if x.isNan || y.isNan then (.nan false, sigFlags x y) else (if x.below y then y else x, noFlags)

/-! ## Operations on exact values (R70, R73, R88) -/

/-- x + y; an exact zero sum of opposite signs is +0, or -0 under RD (mode 4). -/
def addX (mode : Nat) (x y : XV) : XV × Flagged :=
  match x, y with
  | .nan _, _ => (.nan false, sigFlags x y)
  | _, .nan _ => (.nan false, sigFlags x y)
  | .inf a, .inf b => if a = b then (.inf a, noFlags) else (.nan false, invalidFlag)
  | .inf a, _ => (.inf a, noFlags)
  | _, .inf b => (.inf b, noFlags)
  | .fin a m e, .fin b n f =>
    let q := min e f
    let t := signedAt a m e q + signedAt b n f q
    if t = 0 then (.fin (if a = b then a else mode == 4) 0 q, noFlags)
    else (.fin (decide (t < 0)) t.natAbs q, noFlags)

/-- x × y. -/
def mulX (x y : XV) : XV × Flagged :=
  match x, y with
  | .nan _, _ => (.nan false, sigFlags x y)
  | _, .nan _ => (.nan false, sigFlags x y)
  | .inf a, .inf b => (.inf (a != b), noFlags)
  | .inf a, .fin b n _ => if n = 0 then (.nan false, invalidFlag) else (.inf (a != b), noFlags)
  | .fin a m _, .inf b => if m = 0 then (.nan false, invalidFlag) else (.inf (a != b), noFlags)
  | .fin a m e, .fin b n f => (.fin (a != b) (m * n) (e + f), noFlags)

/-- x × y + z, exact (R88, R130). -/
def fmaX (mode : Nat) (x y z : XV) : XV × Flagged :=
  let p := mulX x y
  let r := addX mode p.1 z
  (r.1, p.2.or r.2)

/-- A positive real known to lie in [q, q + 1) × 2^e, strictly inside unless it is exact: the value that every
rounding of a coarser grid treats alike. Log 80 (DEDUCED). -/
def nudge (neg exact : Bool) (q : Nat) (e : Int) : XV := .fin neg (2 * q + if exact then 0 else 1) (e - 1)

/-- The exponent below every rounding point of every format: quotients and roots are computed to 2^-200. -/
def fineExp : Int := -200

/-- (m × 2^e) ÷ (n × 2^f), n nonzero. Log 80 (DEDUCED). -/
def quotX (neg : Bool) (m : Nat) (e : Int) (n : Nat) (f : Int) : XV :=
  let k := e - f - fineExp
  let a := if 0 ≤ k then m * 2 ^ k.toNat else m
  let b := if 0 ≤ k then n else n * 2 ^ (-k).toNat
  nudge neg (a % b == 0) (a / b) fineExp

/-- x ÷ y (R73). -/
def divX (x y : XV) : XV × Flagged :=
  match x, y with
  | .nan _, _ => (.nan false, sigFlags x y)
  | _, .nan _ => (.nan false, sigFlags x y)
  | .inf _, .inf _ => (.nan false, invalidFlag)
  | .inf a, .fin b _ _ => (.inf (a != b), noFlags)
  | .fin a _ _, .inf b => (.fin (a != b) 0 0, noFlags)
  | .fin a m e, .fin b n f =>
    if n = 0 then
      (if m = 0 then (.nan false, invalidFlag) else (.inf (a != b), { noFlags with dz := true }))
    else (quotX (a != b) m e n f, noFlags)

/-- The integer square root by Newton's iteration from above. -/
def isqrtFrom (n : Nat) : Nat → Nat → Nat
  | 0, x => x
  | k + 1, x => let y := (x + n / x) / 2; if y < x then isqrtFrom n k y else x

/-- ⌊√n⌋. -/
def isqrt (n : Nat) : Nat := if n = 0 then 0 else isqrtFrom n (Nat.log2 n + 2) (2 ^ (Nat.log2 n / 2 + 1))

/-- √x (Table 5.5). Log 80 (DEDUCED). -/
def sqrtX (x : XV) : XV × Flagged :=
  match x with
  | .nan b => (.nan false, if b then invalidFlag else noFlags)
  | .inf n => if n then (.nan false, invalidFlag) else (.inf false, noFlags)
  | .fin n m e =>
    if m = 0 then (.fin n 0 0, noFlags)
    else if n then (.nan false, invalidFlag)
    else
      let a := scaleTo m e (2 * fineExp)
      let r := isqrt a
      (nudge false (r * r == a) r fineExp, noFlags)

/-- 1 ÷ √x (Table 5.5). Log 80 (DEDUCED). -/
def rsqX (x : XV) : XV × Flagged :=
  match x with
  | .nan b => (.nan false, if b then invalidFlag else noFlags)
  | .inf n => if n then (.nan false, invalidFlag) else (.fin false 0 0, noFlags)
  | .fin n m e =>
    if m = 0 then (.inf n, { noFlags with dz := true })
    else if n then (.nan false, invalidFlag)
    else
      let a := 2 ^ (-(2 * fineExp) - e).toNat
      let r := isqrt (a / m)
      (nudge false (r * r * m == a) r fineExp, noFlags)

/-- Bits of the fixed-point values of `exp2X` and `log2R`. -/
def finePrec : Nat := 400

/-- The product of 2^(2^-i) over the set bits of a fraction: `c` is 2^(2^-i) and `r` the product so far, both with
`finePrec` fraction bits; `f` holds the fraction's bits from the highest, `n` of them. -/
def expProduct : Nat → Nat → Nat → Nat → Nat
  | 0, _, _, r => r
  | n + 1, f, c, r =>
    let c := isqrt (c * 2 ^ finePrec)
    expProduct n f c (if f.testBit n then r * c / 2 ^ finePrec else r)

/-- 2^x. Beyond ±1,024 any magnitude that overflows or vanishes stands for it. Log 80 (DEDUCED). -/
def exp2X (x : XV) : XV × Flagged :=
  match x with
  | .nan b => (.nan false, if b then invalidFlag else noFlags)
  | .inf n => (if n then .fin false 0 0 else .inf false, noFlags)
  | .fin n m e =>
    if m = 0 then (.fin false 1 0, noFlags)
    else if 10 ≤ log2X m e then (.fin false 3 (if n then -1026 else 1024), noFlags)
    else if 0 ≤ e then (.fin false 1 (signedAt n m e 0), noFlags)
    else
      let w := (-e).toNat
      let v : Int := if n then -(m : Int) else m
      let whole := v / (2 ^ w : Nat)
      let frac := (v % (2 ^ w : Nat)).toNat
      if frac = 0 then (.fin false 1 whole, noFlags)
      else (nudge false false (expProduct w frac (2 ^ (finePrec + 1)) (2 ^ finePrec)) (whole - finePrec), noFlags)

/-- The first `n` bits of the fraction of log2 y, y in [1, 2) with `finePrec` fraction bits. -/
def logBits : Nat → Nat → Nat → Nat
  | 0, _, acc => acc
  | n + 1, y, acc =>
    let z := y * y / 2 ^ finePrec
    if 2 ^ (finePrec + 1) ≤ z then logBits n (z / 2) (2 * acc + 1) else logBits n z (2 * acc)

/-- log2 x. Log 80 (DEDUCED). -/
def log2R (x : XV) : XV × Flagged :=
  match x with
  | .nan b => (.nan false, if b then invalidFlag else noFlags)
  | .inf n => if n then (.nan false, invalidFlag) else (.inf false, noFlags)
  | .fin n m e =>
    if m = 0 then (.inf true, { noFlags with dz := true })
    else if n then (.nan false, invalidFlag)
    else
      let w := Nat.log2 m
      let whole := (w : Int) + e
      if m = 2 ^ w then (.fin (decide (whole < 0)) whole.natAbs 0, noFlags)
      else
        let v : Int := whole * (2 ^ 160 : Nat) + (logBits 160 (m * 2 ^ (finePrec - w)) 0 : Nat)
        if 0 ≤ v then (nudge false false v.toNat (-160), noFlags)
        else (nudge true false (-v - 1).toNat (-160), noFlags)

/-! ## Rounding (R70, R75) -/

/-- A grid of finite values: mantissa bits, the exponent of its least step, whether the step never grows (an
exponent field of no bits), and its largest magnitude k × 2^q. -/
structure Grid where
  mb : Nat
  qmin : Int
  fixed : Bool
  maxK : Nat
  maxQ : Int
deriving DecidableEq, Repr

/-- How a rounding is done: mode code of R70, the 16-bit random value of R75, flushing (R69), sat (R72). -/
structure Rnd where
  mode : Nat
  r16 : Nat
  ftz : Bool
  sat : Bool
deriving DecidableEq, Repr

/-- Is the magnitude rounded away from zero? `k` is lo in steps, `rem ÷ 2^sh` the discarded fraction; `tie` decides
a tie under RNE. -/
def roundsUp (r : Rnd) (neg tie : Bool) (rem sh : Nat) : Bool :=
  let half := 2 ^ (sh - 1)
  match r.mode with
  | 1 => decide (half < rem) || (rem == half && tie)
  | 2 => false
  | 3 => !neg
  | 4 => neg
  | 5 => decide (half ≤ rem)
  | 6 => decide (r.r16 < rem * 65536 / 2 ^ sh)
  | _ => false

/-- The magnitude m × 2^e rounded onto the grid with an unbounded exponent: steps, their exponent, inexact. `tie k q`
decides a tie above k × 2^q under RNE. -/
def roundMag (g : Grid) (r : Rnd) (tie : Nat → Int → Bool) (neg : Bool) (m : Nat) (e : Int) : Nat × Int × Bool :=
  if m = 0 then (0, g.qmin, false)
  else
    let q := if g.fixed then g.qmin else max g.qmin (log2X m e - g.mb)
    if q ≤ e then (scaleTo m e q, q, false)
    else
      let sh := (q - e).toNat
      let k := m >>> sh
      let rem := m % 2 ^ sh
      if rem = 0 then (k, q, false)
      else if roundsUp r neg (tie k q) rem sh then
        (if k + 1 = 2 ^ (g.mb + 1) ∧ !g.fixed then (2 ^ g.mb, q + 1, true) else (k + 1, q, true))
      else (k, q, true)

/-- Is k × 2^q above the grid's largest magnitude? -/
def Grid.exceeds (g : Grid) (k : Nat) (q : Int) : Bool :=
  decide (scaleTo g.maxK g.maxQ g.qmin < scaleTo k q g.qmin)

/-! ## Standard formats (Table 3.2) -/

/-- A standard format: width, exponent and mantissa bits. -/
structure Std where
  w : Nat
  eb : Nat
  mb : Nat
deriving DecidableEq, Repr

def f32 : Std := ⟨32, 8, 23⟩
def f16 : Std := ⟨16, 5, 10⟩
def bf16 : Std := ⟨16, 8, 7⟩

/-- The exponent bias. -/
def Std.bias (f : Std) : Int := (2 ^ (f.eb - 1) - 1 : Nat)

/-- The exponent of the smallest subnormal. -/
def Std.qmin (f : Std) : Int := 1 - f.bias - f.mb

/-- The grid of the format. -/
def Std.grid (f : Std) : Grid := ⟨f.mb, f.qmin, false, 2 ^ (f.mb + 1) - 1, f.bias - f.mb⟩

/-- The value of a code; a subnormal reads as zero when `ftz` (R67, R69). -/
def Std.decode (f : Std) (ftz : Bool) (code : Nat) : XV :=
  let neg := code.testBit (f.w - 1)
  let ex := code / 2 ^ f.mb % 2 ^ f.eb
  let mx := code % 2 ^ f.mb
  if ex = 2 ^ f.eb - 1 then (if mx = 0 then .inf neg else .nan (!mx.testBit (f.mb - 1)))
  else if ex = 0 then .fin neg (if ftz then 0 else mx) f.qmin
  else .fin neg (2 ^ f.mb + mx) (f.qmin + ex - 1)

/-- The canonical NaN. -/
def Std.nanCode (f : Std) : Nat := (2 ^ f.eb - 1) * 2 ^ f.mb + 2 ^ (f.mb - 1)

/-- The sign bit. -/
def Std.signBit (f : Std) (neg : Bool) : Nat := if neg then 2 ^ (f.w - 1) else 0

/-- The code of an infinity. -/
def Std.infCode (f : Std) (neg : Bool) : Nat := f.signBit neg + (2 ^ f.eb - 1) * 2 ^ f.mb

/-- The code of a largest finite value. -/
def Std.maxCode (f : Std) (neg : Bool) : Nat := f.infCode neg - 1

/-- The code of k × 2^q on the format's grid. -/
def Std.finCode (f : Std) (neg : Bool) (k : Nat) (q : Int) : Nat :=
  f.signBit neg + (if k < 2 ^ f.mb then k else (q - f.qmin + 1).toNat * 2 ^ f.mb + (k - 2 ^ f.mb))

/-- Does overflow in the mode give the infinity (Table 3.3)? Log 79 (DEDUCED). -/
def overInf (mode : Nat) (neg : Bool) : Bool :=
  match mode with | 2 => false | 3 => !neg | 4 => neg | _ => true

/-- An infinite result, or the largest finite value with SF and inexact under sat (R72).
Log 79 (DEDUCED). -/
def Std.infinite (f : Std) (r : Rnd) (neg : Bool) (fl : Flagged) : Nat × Flagged :=
  if r.sat then (f.maxCode neg, fl.or { noFlags with sf := true, nx := true }) else (f.infCode neg, fl)

/-- The exact value rounded to the format (R69 to R72), with the flags so far. -/
def Std.round (f : Std) (r : Rnd) (x : XV) (fl : Flagged) : Nat × Flagged :=
  match x with
  | .nan _ => (f.nanCode, fl)
  | .inf n => f.infinite r n fl
  | .fin n m e =>
    let (k, q, nx) := roundMag f.grid r (fun k _ => k.testBit 0) n m e
    if f.grid.exceeds k q then
      (if overInf r.mode n then
        (if r.sat then f.infinite r n fl else (f.infCode n, fl.or { noFlags with ov := true, nx := true }))
       else (f.maxCode n, fl.or { noFlags with ov := true, nx := true }))
    else if k ≠ 0 ∧ k < 2 ^ f.mb ∧ r.ftz then (f.signBit n, fl.or { noFlags with uf := true, nx := true })
    else
      (f.finCode n k q,
       fl.or { noFlags with nx := nx, uf := nx && k != 0 && decide (k < 2 ^ f.mb) })

/-! ## Narrow formats (R80 to R86) -/

/-- A view's descriptor, with the word it was read from. -/
structure View where
  k : Nat
  fd : Word
  fb : Word
  fs : Word
deriving DecidableEq, Repr

def View.width (v : View) : Nat := bits v.fd 3 0
def View.signed (v : View) : Bool := bitOf v.fd 4
def View.e (v : View) : Nat := bits v.fd 11 8
def View.m (v : View) : Nat := bits v.fd 15 12
def View.spec (v : View) : Bool := bitOf v.fd 16
def View.valid (v : View) : Bool := bitOf v.fd 63
def View.e4m3 (v : View) : Bool := bits v.fd 21 20 == 1

/-- BIAS, signed. -/
def View.bias (v : View) : Int := (BitVec.ofNat 8 (bits v.fd 39 32)).toInt

/-- Elements in a block; 0 without scales. -/
def View.block (v : View) : Nat := match bits v.fd 19 18 with | 1 => 16 | 2 => 32 | _ => 0

/-- View `k` of a strand. -/
def viewOf (a : Arch) (k : Nat) : View := ⟨k, a.fd k, a.fb k, a.fs k⟩

/-- The greatest exponent field of a finite code. -/
def View.topEx (v : View) : Nat := if v.spec then 2 ^ v.e - 2 else 2 ^ v.e - 1

/-- The grid of the finite values of R83. -/
def View.grid (v : View) : Grid :=
  let qmin := 1 - v.bias - v.m
  if v.e = 0 then ⟨v.m, qmin, true, 2 ^ v.m - 1, qmin⟩
  else ⟨v.m, qmin, false, 2 ^ (v.m + 1) - 1, qmin + v.topEx - 1⟩

/-- emax: ⌊log2⌋ of the largest finite magnitude (R83). -/
def View.emax (v : View) : Int := log2X v.grid.maxK v.grid.maxQ

/-- The value of an element code (R83). -/
def View.decode (v : View) (code : Nat) : XV :=
  let neg := v.signed && code.testBit (v.width - 1)
  let ex := code / 2 ^ v.m % 2 ^ v.e
  let mx := code % 2 ^ v.m
  if v.spec ∧ ex = 2 ^ v.e - 1 then (if mx = 0 then .inf neg else .nan false)
  else if v.e = 0 ∨ ex = 0 then .fin neg mx (1 - v.bias - v.m)
  else .fin neg (2 ^ v.m + mx) (ex - v.bias - v.m)

/-- The code of k × 2^q on the view's grid. -/
def View.finCode (v : View) (neg : Bool) (k : Nat) (q : Int) : Nat :=
  (if neg && v.signed then 2 ^ (v.width - 1) else 0)
  + (if v.e = 0 ∨ k < 2 ^ v.m then k else (q - v.grid.qmin + 1).toNat * 2 ^ v.m + (k - 2 ^ v.m))

/-- The code of a largest finite value. -/
def View.maxCode (v : View) (neg : Bool) : Nat := v.finCode neg v.grid.maxK v.grid.maxQ

/-- The code of an infinity of a format with special values. -/
def View.infCode (v : View) (neg : Bool) : Nat :=
  (if neg && v.signed then 2 ^ (v.width - 1) else 0) + (2 ^ v.e - 1) * 2 ^ v.m

/-- Whether a tie above the value goes up: to the even mantissa; free where both mantissas are even (a format of no
mantissa bits). Log 14 (DESIGN CHOICE). -/
def View.tieUp (v : View) (k : Nat) (q : Int) : Bool :=
  if v.m = 0 then Config.evenTieUp v.fd.toNat (v.finCode false k q) else k.testBit 0

/-- R84, steps 2 to 5: the code and its flags. `quant` says that the encoding is part of a quantisation (R92).
Logs 77 (DEDUCED), 119 (DEDUCED). -/
def View.encode (v : View) (r : Rnd) (quant : Bool) (x : XV) : Nat × Flagged :=
  let clip : Flagged := { noFlags with sf := !quant, nx := true }
  match x with
  | .nan b => if v.spec then (v.infCode false + 2 ^ (v.m - 1), if b then invalidFlag else noFlags) else (0, invalidFlag)
  | .inf n =>
    if n && !v.signed then (0, clip)
    else if v.spec && !r.sat then (v.infCode n, noFlags) else (v.maxCode n, clip)
  | .fin n m e =>
    if n && !v.signed then (0, if m = 0 then noFlags else clip)
    else
      let (k, q, nx) := roundMag v.grid r v.tieUp n m e
      if v.grid.exceeds k q then
        (if quant then (v.maxCode n, { noFlags with nx := true })
         else if !v.spec || r.sat then (v.maxCode n, clip)
         else ((if overInf r.mode n then v.infCode n else v.maxCode n), { noFlags with ov := true, nx := true }))
      else (v.finCode n k q, { noFlags with nx := nx })

/-- A scale byte's value; none is NaN (R85). -/
def View.scale (v : View) (b : Byte) : Option XV :=
  if v.e4m3 then
    (if b.toNat < 128 then
      (if b.toNat < 8 then some (.fin false b.toNat (-9)) else some (.fin false (8 + b.toNat % 8) (b.toNat / 8 - 10)))
     else none)
  else if b = 0xFF then none else some (.fin false 1 (b.toNat - 127))

/-- A decoded value under a scale (R86): NaN under a NaN scale, else the exact product. -/
def underScale (sc : Option XV) (x : XV) : XV × Flagged :=
  match sc with
  | none => (.nan false, sigFlags x x)
  | some y => mulX x y

/-- R84, step 1: the value divided by the scale. -/
def byScale (sc : Option XV) (x : XV) : XV × Flagged :=
  match sc with
  | none => (.nan false, sigFlags x x)
  | some y =>
    if y.zero then (if x.zero || x.isNan then (x, noFlags) else (.nan false, invalidFlag))
    else divX x y

/-- R84 whole: against a scale if the format has one. -/
def View.store (v : View) (r : Rnd) (quant : Bool) (sc : Option XV) (x : XV) : Nat × Flagged :=
  let d := byScale sc x
  let c := v.encode r quant d.1
  (c.1, d.2.or c.2)

/-! ## Results of an operation (R124) -/

/-- The value of a result in a standard format: rounded once, or first onto the finite grid of the view that the
prefix names and then, where needed, into the format; a value of the grid that is subnormal in the format is flushed like any
other result where FZ or the prefix asks for it. Log 101 (DESIGN CHOICE). -/
def finish (f : Std) (r : Rnd) (v : Option View) (x : XV) (fl : Flagged) : Nat × Flagged :=
  match v with
  | none => f.round r x fl
  | some w =>
    let c := w.encode r false x
    f.round r (w.decode c.1) (fl.or c.2)

/-- A floating-point value rounded to an integer in [lo, hi] (R87). -/
def toInt (r : Rnd) (lo hi : Int) (x : XV) : Int × Flagged :=
  match x with
  | .nan _ => (0, invalidFlag)
  | .inf n => (if n then lo else hi, invalidFlag)
  | .fin n m e =>
    let (k, _, nx) := roundMag ⟨0, 0, true, 0, 0⟩ r (fun k _ => k.testBit 0) n m e
    let y : Int := if n then -(k : Int) else k
    if y < lo then (lo, invalidFlag) else if hi < y then (hi, invalidFlag) else (y, { noFlags with nx := nx })

/-- An integer as an exact value. -/
def ofInt (x : Int) : XV := .fin (decide (x < 0)) x.natAbs 0

/-! ## Quantisation of a block (R92) -/

/-- The larger of two magnitudes, infinity above all. -/
def maxMag (x y : XV) : XV := if x.mag.lt y.mag then y.mag else x.mag

/-- The scale code of a block of values. -/
def View.scaleCode (v : View) (xs : List XV) : Byte :=
  if xs.all XV.zero then 0
  else if xs.any XV.isNan then 0xFF
  else
    let top := if v.e4m3 then (8 : Int) else 127
    let p : Int := match xs.foldl maxMag (.fin false 0 0) with
      | .fin _ m e => log2X m e - v.emax
      | _ => top
    if v.e4m3 then
      let p := max (-9) (min 8 p)
      if p < -6 then BitVec.ofNat 8 (2 ^ (p + 9).toNat) else BitVec.ofNat 8 ((p + 7).toNat * 8)
    else BitVec.ofNat 8 (max 0 (min 0xFE (p + 127))).toNat

/-- The codes of a block's elements with their flags, each with its own random value; a block of zeros or with a NaN
is all +0. -/
def View.quantise (v : View) (r : Nat → Rnd) (first : Nat) (xs : List XV) : Byte × List (Nat × Flagged) :=
  let sc := v.scaleCode xs
  if xs.all XV.zero ∨ xs.any XV.isNan then (sc, xs.map fun x => (0, sigFlags x x))
  else (sc, xs.zipIdx.map fun x => v.store (r (first + x.2)) true (v.scale sc) x.1)

/-! ## Random values (R77 to R79) -/

/-- R79. -/
def mix32 (x : W32) : W32 :=
  let x := x ^^^ (x >>> 16)
  let x := x * 0x7FEB352D
  let x := x ^^^ (x >>> 15)
  let x := x * 0x846CA68B
  x ^^^ (x >>> 16)

/-- The random value of vector element `i` under seed `s` (R77). -/
def vectorRandom (s : W32) (i : Nat) : Nat := ((mix32 (s ^^^ (BitVec.ofNat 32 i * 0x9E3779B1))).toNat) % 65536

/-- SEED after an instruction that rounds under RS (R77). -/
def seedNext (s : W32) : W32 := mix32 (s ^^^ 0x6A09E667)

/-- The random value of element (r, j) of a tile step (R78). -/
def tileRandom (s originRow originCol step : W32) (r j : Nat) : Nat :=
  let w := mix32 (s ^^^ (originRow + BitVec.ofNat 32 r) ^^^ (originCol * 0x9E3779B1) ^^^ step)
  (w.rotateLeft (3 * j % 32)).toNat % 65536

end Sys2Proof.Machine
end

