-- ==== Sys2Proof/Machine/Operands.lean ====
section
/-! DEFINITION. The operands of vector and tile instructions: elements and masks (R119, R120), the environment of a
rounding (R77, R124), flags and FPX over elements (R73, R74, R125), and elements in memory at view 0 and through a
view (R82, R151, R152, R157). -/

namespace Sys2Proof.Machine

/-! ## Elements and masks -/

/-- W of Table 5.1. -/
def elemW : VTy → Nat
  | .f32 | .i32 | .n32 => 32
  | .bf16 | .f16 | .i16 => 16
  | .i8 | .n8 => 8

/-- N of Table 5.1. -/
def elemN (t : VTy) : Nat := 512 / elemW t

/-- Is the type an i type? -/
def elemSigned : VTy → Bool
  | .i32 | .i16 | .i8 => true
  | _ => false

/-- The standard format of an F type. -/
def stdOf : VTy → Std
  | .bf16 => bf16
  | .f16 => f16
  | _ => f32

/-- The first `n` elements of `w` bits of a register (R16, R119, R138). -/
def lanes (w n : Nat) (v : V512) : List Nat := (upto 0 n).map fun i => v.toNat >>> (w * i) % 2 ^ w

/-- Elements packed from bit 0 up. -/
def packed (w : Nat) : List Nat → Nat
  | [] => 0
  | x :: t => x % 2 ^ w + 2 ^ w * packed w t

/-- A register made of elements, zero above them. -/
def ofLanes (w : Nat) (l : List Nat) : V512 := BitVec.ofNat 512 (packed w l)

/-- An element as a signed or unsigned integer. -/
def elemInt (w : Nat) (signed : Bool) (x : Nat) : Int := if signed then (BitVec.ofNat w x).toInt else (x % 2 ^ w : Nat)

/-- An integer wrapped to `w` bits. -/
def wrapTo (w : Nat) (x : Int) : Nat := (x % (2 ^ w : Nat)).toNat

/-- An integer result: wrapped, or clamped to the type's range under sat with SF (R65). -/
def intResult (sat : Bool) (w : Nat) (signed : Bool) (x : Int) : Nat × Flagged :=
  if sat then
    let y := if signed then clampI w x else clampU w x
    (wrapTo w y, { noFlags with sf := y != x })
  else (wrapTo w x, noFlags)

/-- active(i) for a mask register field (R120). -/
def activity (s : State) (vm : BitVec 3) : Ex (Nat → Bool) :=
  if vm = 0 then .ok fun _ => true
  else do
    let v ← rv s (vm.zeroExtend 5)
    .ok fun i => v.toNat.testBit i

/-- `put` over all elements: the new value, zero in zero mode, or the old value (R120). -/
def merge (zero : Bool) (old : List Nat) (new : List (Option Nat)) : List Nat :=
  List.zipWith (fun o x => x.getD (if zero then 0 else o)) old new

/-- The old content of a destination: a source where unwritten elements keep it. -/
def oldOf (s : State) (m : Mask) (d : Reg) : Ex V512 := if m.reg != 0 && !m.zero then rv s d else .ok (s.arch.rv d)

/-! ## The environment of a rounding (R77, R87, R124) -/

/-- Mode, flushing, sat, trap enables, the view of the prefix's fmt, SEED before the instruction. -/
structure VEnv where
  mode : Nat
  ftz : Bool
  sat : Bool
  te : BitVec 4
  view : Option View
  seed : W32
deriving DecidableEq, Repr

/-- The environment in force; a fmt that names an invalid view raises ADDR (R81, R124). -/
def venv (s : State) : Ex VEnv :=
  let p := pfxOf s
  let v := viewOf s.arch p.fmt.toNat
  if p.fmt ≠ 0 ∧ !v.valid then raise 5 0 (BitVec.ofNat 64 (p.fmt.toNat * 2 ^ 60))
  else .ok { mode := modeOf s, ftz := flushOf s, sat := p.sat, te := trapEnables s,
             view := if p.fmt = 0 then none else some v, seed := s.arch.seed }

/-- The rounding of element `i`. -/
def VEnv.rnd (e : VEnv) (i : Nat) : Rnd :=
  { mode := e.mode, r16 := if e.mode = 6 then vectorRandom e.seed i else 0, ftz := e.ftz, sat := e.sat }

/-- A floating-point result of element `i` written in type `f`. -/
def VEnv.result (e : VEnv) (f : Std) (i : Nat) (x : XV × Flagged) : Nat × Flagged := finish f (e.rnd i) e.view x.1 x.2

/-- The lowest element that traps, with its SUB (R74). -/
def firstTrap (te : BitVec 4) : List (Option (Nat × Flagged)) → Nat → Option (Nat × Nat)
  | [], _ => none
  | none :: t, i => firstTrap te t (i + 1)
  | some x :: t, i =>
    match enabledTrap te x.2 with
    | some sub => some (sub, i)
    | none => firstTrap te t (i + 1)

/-- The OR of the flags of the active elements (R73). -/
def allFlags (l : List (Option (Nat × Flagged))) : Flagged :=
  l.foldl (fun f x => match x with | some y => f.or y.2 | none => f) noFlags

/-- SEED after the instruction, if it rounds under RS (R77). -/
def advanceSeed (s : State) (rs : Bool) : State :=
  if rs then s.setArch (s.arch.wcr 0x011 ((seedNext s.arch.seed).zeroExtend 64)) else s

/-- Raises FPX for the lowest trapping element, or sets the flags and advances SEED (R73, R74, R77). `rounds` says
that the instruction rounds. Log 78 (DESIGN CHOICE). -/
def settle (s : State) (e : VEnv) (rounds : Bool) (l : List (Option (Nat × Flagged))) : Ex State :=
  match firstTrap e.te l 0 with
  | some (sub, i) => keep s (raise 8 sub (BitVec.ofNat 64 i))
  | none => .ok (advanceSeed (stick s (allFlags l)) (rounds && e.mode == 6))

/-- The results of the active elements. -/
def activeLanes (n : Nat) (act : Nat → Bool) (f : Nat → Nat × Flagged) : List (Option (Nat × Flagged)) :=
  (upto 0 n).map fun i => if act i then some (f i) else none

/-- Completes a masked vector instruction: `n` elements of `w` bits of vd from their results. -/
def finishLanes (s : State) (e : VEnv) (rounds : Bool) (m : Mask) (d : Reg) (w n : Nat)
    (l : List (Option (Nat × Flagged))) : Ex State := do
  let old ← oldOf s m d
  let s ← settle s e rounds l
  .ok (wv s d (ofLanes w (merge m.zero (lanes w n old) (l.map fun x => x.map Prod.fst))))

/-! ## Elements in memory -/

/-- An address with the view bits of a pointer (R125), modulo 2^60. Log 105 (DESIGN CHOICE). -/
def withView (ptr : Word) (a : Nat) : Word := (ptr &&& 0xF000000000000000) ||| BitVec.ofNat 64 (a % 2 ^ 60)

/-- The window check of a vector or tile access of `n` bytes at an address (R152 item 2), on the whole access: only memory
outside the window region and the local scratchpad are open. -/
def windowCheck (s : State) (va : Word) (n : Nat) : Ex Unit :=
  match placeOf va with
  | .paged => if bits va 59 0 + n ≤ 0x0C00000000000000 then .ok () else raise 5 0 va
  | .scratch off => if scratchOk s off n then .ok () else raise 5 0 va
  | _ => raise 5 0 va

/-- The translation check of an access (R152 item 4). -/
def pageCheck (s : State) (va : Word) (w : Want) : Ex Unit :=
  match placeOf va with
  | .paged => do
    let _ ← lift va (resolveOwn s va w false)
    .ok ()
  | _ => .ok ()

/-- Checks of a list of addresses in order. -/
def checkAll {α : Type} (l : List α) (f : α → Ex Unit) : Ex Unit := l.foldlM (fun _ a => f a) ()

/-- The state and the lines that the instruction has requested (R258). -/
abbrev Touched := State × List Nat

/-- Reads `n` bytes of one line. -/
def readSpan (t : Touched) (va : Word) (n : Nat) : Ex (List Byte × Touched) := do
  let line := bits va 59 6
  let (bs, s) ← keep t.1 (loadAt t.1 va n (!t.2.contains line) true)
  .ok (bs, (s, if t.2.contains line then t.2 else line :: t.2))

/-- Writes consecutive bytes of one line. -/
def writeSpan (t : Touched) (va : Word) (data : List Byte) : Ex Touched := do
  let line := bits va 59 6
  let s ← keep t.1 (storeAt t.1 va data (!t.2.contains line))
  .ok (s, if t.2.contains line then t.2 else line :: t.2)

/-- Runs of consecutive bytes within lines, from bytes with rising addresses. -/
def runsOf : FMap Byte → List (Nat × List Byte)
  | [] => []
  | (a, b) :: t =>
    match runsOf t with
    | (c, l) :: r => if c = a + 1 ∧ c % 64 ≠ 0 then (a, b :: l) :: r else (a, [b]) :: (c, l) :: r
    | [] => [(a, [b])]

/-- The scratchpad words that a store covers in part and that are poisoned: MCHK SUB 1 at the first byte of the lowest
element that has one (R110, R125, R157). `els` holds the byte addresses of elements in order; `whole` says of an address,
modulo 2^60, that the store covers all of its byte. -/
def partCheckIn (s : State) (ptr : Word) (whole : Nat → Bool) (els : List (List Nat)) : Ex Unit :=
  checkAll els.flatten fun a =>
    match placeOf (withView ptr a) with
    | .scratch off =>
      if fget (s.core s.cur.core).poolBad false (off / 4) && !((upto 0 4).all fun i => whole (a % 2 ^ 60 - off % 4 + i))
      then raise 0x12 1 (withView ptr a) else .ok ()
    | _ => .ok ()

/-- The same for a whole store of whole bytes. -/
def partCheck (s : State) (ptr : Word) (els : List (List Nat)) : Ex Unit :=
  partCheckIn s ptr (fun b => els.any fun l => l.any fun a => a % 2 ^ 60 == b) els

/-- Writes collected bytes, by address bits 59:0. -/
def writeBytes (t : Touched) (ptr : Word) (m : FMap Byte) : Ex Touched :=
  (runsOf m).foldlM (fun t r => writeSpan t (withView ptr r.1) r.2) t

/-- Adds consecutive bytes to collected ones; a later byte replaces an earlier one. -/
def collect (m : FMap Byte) (a : Nat) (l : List Byte) : FMap Byte :=
  (l.zip (upto a l.length)).foldl (fun m p => fset m (p.2 % 2 ^ 60) p.1) m

/-! ## Elements through a view (R82, R151) -/

/-- The number of an element, wrapped to 64 signed bits (R151, R162). -/
def wrapNum (x : Int) : Int := (ofI x).toInt

/-- The number of the element that an address lies in, negative below FB.k (R82). -/
def View.numberAt (v : View) (a : Nat) : Int := ((a : Int) - v.fb.toNat) * 8 / v.width

/-- The address of the first byte of element `n`, modulo 2^60 (R82). -/
def View.startOf (v : View) (n : Int) : Nat := (((v.fb.toNat : Int) + n * v.width / 8) % (2 ^ 60 : Nat)).toNat

/-- The first element number of a pointer through its view. ADDR with the pointer for an invalid descriptor (R81); for
bit 63 or an address below FB.k with the address of the first element that the access uses, the one `at'` after the first
(R82, R125, R152 item 1, R163 item 1). Log 106 (DESIGN CHOICE). -/
def viewStart (s : State) (ptr : Word) (at' : Int) : Ex (View × Int) :=
  let v := viewOf s.arch (bits ptr 62 60)
  let n0 := v.numberAt (bits ptr 59 0)
  if !v.valid then raise 5 0 ptr
  else if bitOf ptr 63 || decide (n0 < 0) then raise 5 0 (withView ptr (v.startOf (wrapNum (n0 + at'))))
  else .ok (v, n0)

/-- The byte addresses of element `n` (R151). -/
def View.bytesOf (v : View) (n : Nat) : List Nat :=
  let lo := n * v.width / 8
  let hi := ((n + 1) * v.width - 1) / 8
  upto (v.fb.toNat + lo) (hi - lo + 1)

/-- The address of the scale byte of element `n` (R82). -/
def View.scaleAt (v : View) (n : Nat) : Nat := v.fs.toNat + n / Nat.max 1 v.block

/-- The scale address of element `n`, if the view has scales. -/
def View.scales (v : View) (n : Nat) : List Nat := if v.block = 0 then [] else [v.scaleAt n]

/-- Do the elements of these numbers cover every bit of the byte at address `b`, modulo 2^60? -/
def View.whole (v : View) (els : List Nat) (b : Nat) : Bool :=
  (upto 0 8).all fun k => els.any fun n => (v.bytesOf n).any fun a =>
    a % 2 ^ 60 == b && decide (n * v.width ≤ (a - v.fb.toNat) * 8 + k)
      && decide ((a - v.fb.toNat) * 8 + k < (n + 1) * v.width)

/-- Does the element cover only part of byte `a`, a byte of the element (R157)? -/
def View.inPart (v : View) (n a : Nat) : Bool :=
  let b := (a - v.fb.toNat) * 8
  decide (b < n * v.width) || decide ((n + 1) * v.width < b + 8)

/-- The checks of one element through a view (R152): negative number, windows of its bytes and of its scale byte,
then their translations. A store checks its bytes as writes, and as reads where it merges. -/
def viewCheck (s : State) (v : View) (ptr : Word) (n : Int) (write : Bool) : Ex Unit := do
  if n < 0 then raise 5 0 (withView ptr (v.startOf n)) else .ok ()
  let k := n.toNat
  let bs := v.bytesOf k
  checkAll (bs ++ v.scales k) fun a => windowCheck s (withView ptr a) 1
  checkAll bs fun a => do
    if write then
      if v.inPart k a then pageCheck s (withView ptr a) .read else .ok ()
      pageCheck s (withView ptr a) .write
    else pageCheck s (withView ptr a) .read
  checkAll (v.scales k) fun a => pageCheck s (withView ptr a) .read

/-- Reads the scale of element `n`: none is NaN; 1 where the view has no scales. -/
def readScale (t : Touched) (v : View) (ptr : Word) (n : Nat) : Ex (Option XV × Touched) :=
  if v.block = 0 then .ok (some (.fin false 1 0), t)
  else do
    let (b, t) ← readSpan t (withView ptr (v.scaleAt n)) 1
    .ok (v.scale (b.headD 0), t)

/-- Reads the code of element `n`, byte by byte. -/
def readCode (t : Touched) (v : View) (ptr : Word) (n : Nat) : Ex (Nat × Touched) := do
  let bs := v.bytesOf n
  let (l, t) ← bs.foldlM (fun (p : List Byte × Touched) a => do
    let (b, t) ← readSpan p.2 (withView ptr a) 1
    .ok (p.1 ++ b, t)) ([], t)
  .ok (leNat l >>> (n * v.width % 8) % 2 ^ v.width, t)

/-- decode(k, n) (R86): the scale first, then the code. -/
def readElem (t : Touched) (v : View) (ptr : Word) (n : Nat) : Ex ((XV × Flagged) × Touched) := do
  let (sc, t) ← readScale t v ptr n
  let (c, t) ← readCode t v ptr n
  .ok (if v.block = 0 then (v.decode c, noFlags) else underScale sc (v.decode c), t)

/-- Reads a byte into which a partial element is merged. In the scratchpad it is part of the read and write of its word,
which `partCheckIn` has checked (R110, R157). -/
def mergeByte (t : Touched) (ptr : Word) (a : Nat) : Ex (Byte × Touched) :=
  match placeOf (withView ptr a) with
  | .scratch off => do
    let s ← checkWatch t.1 (withView ptr a) true off 1 false
    let s ← touchPool s (off / 16) false
    .ok (fget (s.core s.cur.core).pool 0 off, (s, t.2))
  | _ => do
    let (b, t) ← readSpan t (withView ptr a) 1
    .ok (b.headD 0, t)

/-- Merges the code of element `n` into collected bytes, reading each byte that it covers in part (R157). -/
def mergeCode (t : Touched) (m : FMap Byte) (v : View) (ptr : Word) (n code : Nat) : Ex (FMap Byte × Touched) := do
  let bs := v.bytesOf n
  let (l, t) ← bs.foldlM (fun (p : List Byte × Touched) a =>
    match ffind m (a % 2 ^ 60) with
    | some b => .ok (p.1 ++ [b], p.2)
    | none =>
      if v.inPart n a then do
        let (b, t) ← mergeByte p.2 ptr a
        .ok (p.1 ++ [b], t)
      else .ok (p.1 ++ [0], p.2)) ([], t)
  let sh := n * v.width % 8
  let old := leNat l
  let new := old - (old >>> sh % 2 ^ v.width) * 2 ^ sh + code * 2 ^ sh
  .ok (collect m (bs.headD 0) (leBytes bs.length new), t)

/-- The same after the check of the scratchpad words that the element is part of; `whole` as `partCheckIn` has it. -/
def mergeElem (t : Touched) (m : FMap Byte) (v : View) (ptr : Word) (whole : Nat → Bool) (n code : Nat) :
    Ex (FMap Byte × Touched) := do
  keep t.1 (partCheckIn t.1 ptr whole [v.bytesOf n])
  mergeCode t m v ptr n code

/-- Elements with the numbers that they address, of those active. -/
def activeElems (n : Nat) (act : Nat → Bool) (num : Nat → Int) : List (Nat × Int) :=
  (upto 0 n).filterMap fun i => if act i then some (i, num i) else none

/-- The number that the first active element addresses. -/
def firstOf (l : List (Nat × Int)) : Int := (l.headD (0, 0)).2

/-- A value in a list of pairs by its index. -/
def pick {α : Type} (l : List (Nat × α)) (i : Nat) : Option α := (l.find? fun p => p.1 == i).map Prod.snd

/-- Loads active elements through a view (R153, R155, R156, R179): index and element number of each; `res` rounds the
value of an index. Every memory trap comes before an FPX. Log 78 (DESIGN CHOICE). -/
def loadView (s : State) (res : Nat → XV × Flagged → Nat × Flagged) (v : View) (ptr : Word) (l : List (Nat × Int)) :
    Ex (List (Nat × (Nat × Flagged)) × State) := do
  checkAll l fun p => viewCheck s v ptr p.2 false
  let (out, t) ← l.foldlM (fun (a : List (Nat × (Nat × Flagged)) × Touched) p => do
    let (x, t) ← readElem a.2 v ptr p.2.toNat
    .ok (a.1 ++ [(p.1, res p.1 x)], t)) ([], (s, []))
  .ok (out, t.1)

/-- Stores active elements through a view against the existing scales (R84, R154 to R157, R180): index and element
number of each, the value and the rounding of an index, and how the flags of the `n` indices are settled. Every scale
and every byte to merge into is read, element by element, before any byte is written. Log 78 (DESIGN CHOICE). -/
def storeView (s : State) (rnd : Nat → Rnd) (n : Nat) (set : State → List (Option (Nat × Flagged)) → Ex State)
    (v : View) (ptr : Word) (l : List (Nat × Int)) (value : Nat → XV) : Ex State := do
  checkAll l fun p => viewCheck s v ptr p.2 true
  let (codes, m, t) ← l.foldlM (fun (a : List (Nat × (Nat × Flagged)) × FMap Byte × Touched) p => do
    let (sc, t) ← readScale a.2.2 v ptr p.2.toNat
    let c := if v.block = 0 then v.encode (rnd p.1) false (value p.1) else v.store (rnd p.1) false sc (value p.1)
    let (m, t) ← mergeElem t a.2.1 v ptr (v.whole (l.map fun q => q.2.toNat)) p.2.toNat c.1
    .ok (a.1 ++ [(p.1, c)], m, t)) ([], [], (s, []))
  let s ← set t.1 ((upto 0 n).map fun i => pick codes i)
  let t ← writeBytes (s, t.2) ptr m
  .ok t.1

end Sys2Proof.Machine
end

