-- ==== Sys2Proof/Machine/Deliver.lean ====
section
/-! DEFINITION. Writes that are placed in commit order (R226, R232), the hub's and the engines' accesses, messages to
other modules, and the delivery of operations at ports and homes (R193 to R203, R265, R285). -/

namespace Sys2Proof.Machine

/-! ## Strands and domains -/

/-- Every strand that has a record in the state. -/
def allStrands (s : State) : List Sid := s.cores.flatMap fun p => p.2.strands.map fun q => ⟨p.1, q.1⟩

/-- Is the core in the domain of the arbiter (R232, Table 8.2)? -/
def inDomain (a : Arbiter) (l : Nat) : Bool :=
  match a with
  | .core k => l == k
  | .cluster n => clusterOf l == n
  | .die d => dieOf l == d
  | .package => true

/-- The index of a strand's first chunk that meets a test. -/
def firstChunk (s : State) (c : Sid) (hit : Chunk → Bool) : Option Nat := (s.strand c).chunks.findIdx? hit

/-- Squashes, on each strand that `who` names, from the first chunk that meets the test (R231, R232). -/
def squashHits (s : State) (who : Sid → Bool) (hit : Chunk → Bool) (cause : Nat) (counts : Bool) (other : Nat := 0) :
    State :=
  (allStrands s).foldl (fun s c =>
    if who c then
      match firstChunk s c hit with
      | some k => squashFrom s c k cause counts other
      | none => s
    else s) s

/-- Would a write with this signature squash a solo chunk (R234)? -/
def soloBlocks (s : State) (who : Sid → Bool) (sig : BitVec 2048) : Bool :=
  (allStrands s).any fun c => who c && ((firstChunk s c fun ch => sigConflict ch.rsig sig).any (s.strand c).soloFrom)

/-- The signature of the lines of some keys (R229). -/
def sigOfKeys (l : List Nat) : BitVec 2048 := l.foldl (fun b k => sigInsert b (lineNo k)) 0

/-! ## Bytes into committed memory -/

/-- Half-lines that are covered whole (R262): those of which the map, whose keys are distinct, has 32 keys. -/
def coveredHalves (w : FMap Byte) : List Nat :=
  ((w.map fun p => p.1 / 32).dedup).filter fun h => (w.filter fun p => p.1 / 32 == h).length == 32

/-- Writes bytes of one line under a key slot: a write in plaintext to an encrypted line leaves the rest of it as its
ciphertext and removes the tag; a write under a slot renews the tag of a line that it covers whole or whose tag was
good (R263, R329, R340). Log 10 (DESIGN CHOICE). -/
def putLine (s : State) (slot n : Nat) (w : FMap Byte) : State :=
  let tag := fget s.tags 0 n
  let base := if slot = 0 ∧ tag ≠ 0 then s.mem.store (n * 64) (storedLine s n) else s.mem
  let tags := if slot = 0 then fdel s.tags n
    else if w.length = 64 ∨ tag = keyId s slot then fset s.tags n (keyId s slot) else s.tags
  { s with mem := base.apply w, tags := tags, poison := (coveredHalves w).foldl fdel s.poison }

/-- The lines of the written keys. -/
def linesOf (w : FMap Byte) : List Nat := (w.map fun p => p.1 / 64).dedup

/-- Writes bytes by key under a slot, line by line; lines homed on a lost die are dropped. -/
def putBytes (s : State) (slot : Nat) (w : FMap Byte) : State :=
  (linesOf w).foldl (fun s n =>
    if n * 64 < hostBase ∧ (s.die (n * 64 / dieStep)).lost then s
    else putLine s slot n (w.filter fun p => p.1 / 64 == n)) s

/-- Offsets of the copies that a write of a page goes to: one, or the eight of a replicated page (R248, R249).
Log 87 (DEDUCED). -/
def copyOffsets (repl : Bool) : List Nat := if repl then (upto 0 8).map (· * dieStep) else [0]

/-- Writes bytes, at every copy of a replicated page. Log 87 (DEDUCED). -/
def putCopies (s : State) (repl : Bool) (slot : Nat) (w : FMap Byte) : State :=
  (copyOffsets repl).foldl (fun s off => putBytes s slot (w.map fun p => (p.1 + off, p.2))) s

/-- Consecutive bytes as a map by key. -/
def atKeys (key : Nat) (data : List Byte) : FMap Byte := (upto key data.length).zip data

/-- A writing event (R232, R249): it waits while it would squash a solo chunk, else its bytes are committed at every
copy and it acts as a write signature against every open chunk of the module. `by'` is the strand that it comes from, if
one does, `lid` its launch, and `seq` the SEQ of its record. -/
def placeWrite (s : State) (leaf : Word) (w : FMap Byte) (by' : Sid := ⟨0, 0⟩) (lid : Nat := 0) (seq : Nat := 0) : Option State :=
  let sig := sigOfKeys (w.map Prod.fst)
  if soloBlocks s (fun _ => true) sig then none
  else
    let s := putCopies s (bitOf leaf 55) (bits leaf 15 8) w
    let s := squashHits s (fun _ => true) (fun ch => sigConflict ch.rsig sig) 0 true by'.core
    some (if bitOf leaf 55 then traceCasts s by' seq (linesOf w) lid else s)

/-- The hub writes back its copy of a read-only field of a descriptor (R264); no solo chunk holds it up.
Log 85 (DEDUCED). -/
def hubPoke (s : State) (key : Nat) (data : List Byte) : State :=
  let w := atKeys key data
  let sig := sigOfKeys (w.map Prod.fst)
  squashHits (putBytes s 0 w) (fun _ => true) (fun ch => !ch.solo && sigConflict ch.rsig sig) 0 true

/-! ## Accesses of the hub and of engines through a context -/

/-- The die whose copy of replicated pages a unit reads: its own, or the first that is not lost (R249, R250). -/
def liveDie (s : State) (d : Nat) : Nat :=
  if (s.die d).lost || decide (7 < d) then ((upto 0 8).find? fun k => !(s.die k).lost).getD 0 else d

/-- Translates an address of a context for a unit of die `d` (8: the hub) with a permission; engines and the hub act at
no privilege level. Codes are those of R108 and R255; HOMELOST for a lost home. Log 68 (DEDUCED). -/
def unitSpot (s : State) (d ctx : Nat) (va : Word) (w : Want) (posted : Bool) : Except (Nat × Nat) Spot :=
  if bits va 63 60 ≠ 0 ∨ placeOf va ≠ .paged then .error (5, 0)
  else
    match walk s d ctx va with
    | .error e => .error e
    | .ok (x, _) =>
      match permit x.leaf w false posted with
      | .error e => .error e
      | .ok () =>
        let p := spotOf x va (liveDie s d)
        if leafTier x.leaf == 0 && (s.die (p.key / dieStep)).lost then .error (0x14, 0) else .ok p

/-- The pieces of a range of addresses that lie in one line each: address and length. -/
def piecesFrom : Nat → Word → Nat → List (Word × Nat)
  | 0, _, _ => []
  | fuel + 1, va, n =>
    if n = 0 then []
    else
      let k := Nat.min n (64 - va.toNat % 64)
      (va, k) :: piecesFrom fuel (va + BitVec.ofNat 64 k) (n - k)

/-- The pieces of `n` bytes from `va`. -/
def pieces (va : Word) (n : Nat) : List (Word × Nat) := piecesFrom (n / 64 + 2) va n

/-- Reads committed bytes at a spot: none where they are poisoned, a tag fails, or no port leads to their module. -/
def spotRead (s : State) (p : Spot) (n : Nat) : Option (List Byte) :=
  let slot := bits p.leaf 15 8
  if leafTier p.leaf == 2 then
    (if unreachable s p.key then none else some ((upto p.key n).map fun k => Config.peerByte s.draws k))
  else if (badLine s slot (upto p.key n)).isSome then none
  else some ((upto p.key n).map fun k => committedByte s slot k)

/-- The key slots of the lines of a range whose tags fail under a unit's read are flagged (R263, R340). -/
def flagRead (s : State) (d ctx : Nat) (va : Word) (n : Nat) : State :=
  (pieces va n).foldl (fun s p =>
    match unitSpot s d ctx p.1 .read false with
    | .ok q =>
      let slot := bits q.leaf 15 8
      if leafTier q.leaf != 2 && badLine s slot (upto q.key p.2) == some .tag then flagSlot s slot else s
    | .error _ => s) s

/-- The hub reads `n` bytes of a context's memory, line by line; none for a fault or poison. -/
def hubRead (s : State) (ctx : Nat) (va : Word) (n : Nat) : Option (List Byte) :=
  (pieces va n).foldlM (fun l p =>
    match unitSpot s 8 ctx p.1 .read false with
    | .ok q => (spotRead s q p.2).map fun b => l ++ b
    | .error _ => none) []

/-! ## Descriptors of contexts and queues (Tables 10.1, 10.2) -/

/-- A dword of physical memory. -/
def memWord (s : State) (a : Nat) : Word := leWord (s.mem.bytes a 8)

/-- Has the context an accepted launch that has not retired (R264)? -/
def ctxLive (s : State) (ctx : Nat) : Bool := s.lu.launches.any fun p => p.2.ctx == ctx

/-- The read-only fields as the descriptor in memory has them (Table 10.1). Log 86 (DEDUCED). -/
def ctxLoad (s : State) (ctx : Nat) : Context :=
  let d6 := memWord s (ctx + 48)
  let d7 := memWord s (ctx + 56)
  { put := bits d6 63 32, take := bits d7 63 32, dropped := bits d6 31 16, steady := bitOf d7 2, det := bits d7 1 0 }

/-- A context's read-only fields: the hub's copy while the context has a live launch, else the descriptor's.
Log 86 (DEDUCED). -/
def ctxCopy (s : State) (ctx : Nat) : Context :=
  if ctxLive s ctx then (ffind s.lu.contexts ctx).getD (ctxLoad s ctx) else ctxLoad s ctx

/-- The hub's copy replaced, and written back to the descriptor; software's fields stay. -/
def setCtx (s : State) (ctx : Nat) (x : Context) : State :=
  let s := { s with lu := { s.lu with contexts := fset s.lu.contexts ctx x } }
  let d6 := x.put % 2 ^ 32 * 2 ^ 32 + x.dropped * 2 ^ 16 + bits (memWord s (ctx + 48)) 15 0
  let d7 := x.take % 2 ^ 32 * 2 ^ 32 + bits (memWord s (ctx + 56)) 31 3 * 8 + (if x.steady then 4 else 0) + x.det
  hubPoke s (ctx + 48) (leBytes 8 d6 ++ leBytes 8 d7)

/-- An operation of a unit that finds no claim is counted (Table 10.1). -/
def countDropped (s : State) (ctx : Nat) : State :=
  let x := ctxCopy s ctx
  setCtx s ctx { x with dropped := Nat.min 0xFFFF (x.dropped + 1) }

/-- The address of a queue's descriptor (R266). -/
def queueAddr (s : State) (q : Nat) : Nat := (fget s.boot.conf 0 1).toNat + q * 64

/-- A queue as the hub holds it. -/
def State.queue (s : State) (q : Nat) : Queue := fget s.lu.queues Queue.reset q

/-- The hub's copy of a queue replaced, and its read-only fields written back. -/
def setQueue (s : State) (q : Nat) (x : Queue) : State :=
  let s := { s with lu := { s.lu with queues := fset s.lu.queues q x } }
  hubPoke s (queueAddr s q + 32) (leBytes 8 x.fetched ++ leBytes 8 (x.errCount % 2 ^ 32 * 2 ^ 32 + x.lastErr))

/-- The queue that a launch's oldest ancestor came from. -/
def queueOf (s : State) (lid : Nat) : Option Nat :=
  match s.launch (groupOf s lid) with | some x => x.queue | none => none

/-- LASTERR of a launch's queue (R277, R284, R285). -/
def setLastErr (s : State) (lid code : Nat) : State :=
  match queueOf s lid with
  | some q => setQueue s q { s.queue q with lastErr := code }
  | none => s

/-! ## The snapshotted set of a copy (Table 7.5) -/

/-- A register of the set. -/
def Copy.reg (x : Copy) (n : Nat) : Word := fget x.set 0 n

/-- ROWS. -/
def copyRows (x : Copy) : Nat := bits (x.reg 0x104) 15 0
/-- RBYTES. -/
def copyBytes (x : Copy) : Nat := bits (x.reg 0x105) 23 0

/-- Source and destination of row `r`. -/
def copyRow (x : Copy) (r : Nat) : Word × Word :=
  (x.reg 0x100 + BitVec.ofNat 64 r * x.reg 0x102, x.reg 0x101 + BitVec.ofNat 64 r * x.reg 0x103)

/-- The 512-byte blocks that a row touches. -/
def rowBlocks (x : Copy) (r : Nat) : List Nat :=
  let d := (copyRow x r).2.toNat
  if copyBytes x = 0 then [] else upto (d / 512) ((d + copyBytes x - 1) / 512 - d / 512 + 1)

/-- The distinct destination blocks of a transfer, rising (R209). -/
def copyBlocks (x : Copy) : List Nat :=
  (((upto 0 (copyRows x)).flatMap (rowBlocks x)).foldl (fun (m : FMap Unit) b => fset m b ()) []).map Prod.fst

/-- The parts of rows in a block: destination address, source pointer, bytes. -/
def blockParts (x : Copy) (b : Nat) : List (Nat × Word × Nat) :=
  (upto 0 (copyRows x)).filterMap fun r =>
    let p := copyRow x r
    let d := p.2.toNat
    let lo := Nat.max d (b * 512)
    let hi := Nat.min (d + copyBytes x) (b * 512 + 512)
    if lo < hi then some (lo, p.1 + BitVec.ofNat 64 (lo - d), hi - lo) else none

/-! ## Fences (R223) -/

/-- The module that owns the page of a context's address, where that is another one. -/
def pageOwner (s : State) (d ctx : Nat) (va : Word) : Option Nat :=
  if bits va 63 60 ≠ 0 ∨ placeOf va ≠ .paged then none
  else match walk s d ctx va with
    | .ok (x, _) => if leafTier x.leaf == 2 then some (((spotOf x va 0).key - peerBase) / 2 ^ 45) else none
    | .error _ => none

/-- Is a destination address on a page of another module now? -/
def peerDest (s : State) (d ctx va : Nat) : Bool := (pageOwner s d ctx (BitVec.ofNat 64 va)).isSome

/-- Has the copy a block for another module that it has not placed? -/
def copyPeer (s : State) (x : Copy) : Bool :=
  (copyBlocks x).any fun b => !x.done.contains b && (blockParts x b).any fun p => peerDest s (dieOf x.src.core) x.ctx p.1

/-- Is an operation a posted atomic on a peer-tier page? -/
def peerPosted (o : Op) : Bool := match o.rel with | .posted _ _ _ _ leaf _ => leafTier leaf == 2 | _ => false

/-- Has every cross-module operation that the strand released before its `epoch`-th fence been sent and acknowledged
(R223)? -/
def fenceClear (s : State) (c : Sid) (epoch : Nat) : Bool :=
  (s.net.ports.all fun p => p.2.buffer.all fun b =>
    match b.src with | some (d, e) => !(d == c && decide (e < epoch)) | none => true)
  && (s.eng.ops.all fun o => !(o.src == c && decide (o.epoch < epoch) && !o.unit && peerPosted o))
  && s.eng.copies.all fun x => !(x.src == c && decide (x.epoch < epoch) && (copyPeer s x || !x.owed.isEmpty))

/-! ## Watchpoints on placed writes (R357) -/

/-- The reports of one placed write of the bytes at some memory keys, or at offsets of a core's scratchpad: each watchpoint
reports the first watched byte once (R357). -/
def engineWatch (s : State) (scratch : Option Nat) (keys : List Nat) (sub : Nat) (source : Word) : State :=
  let found := s.cores.flatMap fun p => p.2.watches.filterMap fun w =>
    match w.2.place with
    | some (sc, base) =>
      let here := match scratch with | some l => sc && l == p.1 | none => !sc
      if here && bitOf w.2.ctl 31 && bitOf w.2.ctl 28 then
        (keys.find? fun k => decide (base ≤ k) && decide (k < base + 2 ^ bits w.2.ctl 19 16)
          && bitOf w.2.ctl ((k - base) % 8)).map fun k =>
            ({ core := p.1, wp := w.1, ctl := w.2.ctl, sub := sub,
               addr := BitVec.ofNat 64 (if scratch.isSome then 0x0E00000000000000 + k else k % hostBase),
               source := source } : Report)
      else none
    | none => none
  { s with dbg := { s.dbg with reports := s.dbg.reports ++ found } }

/-- TRAPVAL of a SUB 2 report (R357). -/
def watchSource (c : Sid) (remote : Bool) : Word :=
  BitVec.ofNat 64 (c.core + c.strand % 4 * 2 ^ 16 + if remote then 2 ^ 18 else 0)

/-! ## Results, wakes and refusals -/

/-- The launch of a context that keeps a strand of core `c.core` husked, and the strand (R284). -/
def huskOf (s : State) (ctx : Nat) (c : Sid) : Option (Launch × Strand) :=
  s.lu.launches.findSome? fun p =>
    if p.2.ctx ≠ ctx then none
    else p.2.husks.findSome? fun h =>
      if h.core = c.core then (ffind h.strands c.strand).map fun st => (p.2, st) else none

/-- A strand of a context: on its core, or husked. -/
def strandOf (s : State) (ctx : Nat) (c : Sid) : Strand :=
  match huskOf s ctx c with
  | some p => p.2
  | none => if s.ctx c = ctx then s.strand c else Strand.reset

/-- Husks with strand `c` changed in those that hold it. -/
def modHusks (l : List Husk) (c : Sid) (f : Strand → Strand) : List Husk :=
  l.map fun h =>
    if h.core = c.core then
      match ffind h.strands c.strand with
      | some st => { h with strands := fset h.strands c.strand (f st) }
      | none => h
    else h

/-- The state with a strand of a context changed, on its core or husked; one that is gone changes nothing. -/
def modStrand (s : State) (ctx : Nat) (c : Sid) (f : Strand → Strand) : State :=
  match huskOf s ctx c with
  | some _ => { s with lu := { s.lu with launches := s.lu.launches.map fun p =>
      if p.2.ctx = ctx then (p.1, { p.2 with husks := modHusks p.2.husks c f }) else p } }
  | none => if s.ctx c = ctx then s.setStrand c (f (s.strand c)) else s

/-- A strand and the other copy of its twin pair (R192). -/
def bothOf (s : State) (ctx : Nat) (c : Sid) : List Sid :=
  match (strandOf s ctx c).twin with | some (p, _) => [c, p] | none => [c]

/-- The virtual address of a core's husk slot in a context (R284). -/
def huskAddr (s : State) (ctx l : Nat) : Word := memWord s (ctx + 32) + BitVec.ofNat 64 (l * 0x24000)

/-- The hub writes into a context's memory; no solo chunk holds it up, and none where the page is write-blocked (R260).
Log 85 (DEDUCED). -/
def pokeNow (s : State) (ctx : Nat) (va : Word) (data : List Byte) : Option State :=
  match unitSpot s 8 ctx va .write false with
  | .ok p =>
    if bitOf p.leaf 6 then none
    else
      let w := atKeys p.sig data
      let sig := sigOfKeys (w.map Prod.fst)
      some (squashHits (putCopies s (bitOf p.leaf 55) (bits p.leaf 15 8) w) (fun _ => true)
        (fun ch => !ch.solo && sigConflict ch.rsig sig) 0 true)
  | .error _ => some s

/-- Makes the hub's waiting writes, as far as their pages allow. -/
def drainPokes (s : State) : State :=
  s.eng.pokes.foldl (fun s p =>
    match pokeNow s p.1 p.2.1 p.2.2 with
    | some s => s
    | none => { s with eng := { s.eng with pokes := s.eng.pokes ++ [p] } }) { s with eng := { s.eng with pokes := [] } }

/-- A write of the hub, after those that wait. -/
def unitPoke (s : State) (ctx : Nat) (va : Word) (data : List Byte) : State :=
  drainPokes { s with eng := { s.eng with pokes := s.eng.pokes ++ [(ctx, va, data)] } }

/-- A result for a husked strand is written into its husk (R192). -/
def huskResult (s : State) (ctx : Nat) (c : Sid) (rd : Nat) (kw : Bool) (v : Option Word) : State :=
  if (huskOf s ctx c).isNone then s
  else
    let a := huskAddr s ctx c.core + BitVec.ofNat 64 (c.strand * 0x1000)
    let s := match v with
      | some x => if rd = 0 then s else unitPoke s ctx (a + BitVec.ofNat 64 (8 * rd)) (leBytes 8 x.toNat)
      | none => s
    unitPoke s ctx (a + 0xB18) (leBytes 8 (if kw then 2 else 0))

/-- The result of a returning operation reaches its strand, and its twin (R189, R192); none leaves the register. -/
def giveResult (s : State) (ctx : Nat) (c : Sid) (v : Option Word) : State :=
  (bothOf s ctx c).foldl (fun s c =>
    let st := strandOf s ctx c
    match st.await with
    | some w =>
      let s := modStrand s ctx c fun st => { st with await := some { w with got := some v } }
      huskResult s ctx c w.rd st.kw.isSome v
    | none => s) s

/-- A satisfied or refused wait ends: the strand goes on with its next chunk (R195). -/
def wake (s : State) (ctx : Nat) (c : Sid) : State :=
  (bothOf s ctx c).foldl (fun s c =>
    modStrand s ctx c fun st => if st.run = .kwait then { st with run := .ready, kw := none } else st) s

/-- An asynchronous cause is reported against a strand, and its twin (R332). -/
def pendOn (s : State) (ctx : Nat) (c : Sid) (t : Trap) (pc : Option Word) : State :=
  (bothOf s ctx c).foldl (fun s c => modStrand s ctx c fun st => { st with pend := st.pend ++ [⟨t, pc⟩] }) s

/-- The strand that waits on the operation goes on without a result or a wait. -/
def endWait (s : State) (o : Op) : State :=
  match o.rel with
  | .arm _ _ _ => wake s o.ctx o.src
  | .draw _ _ => giveResult s o.ctx o.src none
  | .remote _ _ _ _ _ true => giveResult s o.ctx o.src none
  | _ => s

/-- A refused operation has no effect: its strand takes the cause at its next boundary; a unit's is counted
(R193, R202, R265, R324). -/
def refuse (s : State) (o : Op) (code sub : Nat) (val : Word) (pc : Option Word) : State :=
  if o.unit then countDropped s o.ctx else endWait (pendOn s o.ctx o.src (mkTrap code sub val) pc) o

/-! ## Counters (R18, R194 to R198) -/

/-- The nodes of a launch that a value of anchor counter `i` makes due: ready from this moment on (R277). -/
def dueNodes (nodes : List Node) (i v time : Nat) : List Node :=
  nodes.map fun n => if n.st = .waiting ∧ n.wctr = i ∧ n.wval.toNat ≤ v then { n with st := .due, since := time } else n

/-- A launch counter of anchor core `l` takes a value. -/
def markDue (s : State) (l i v : Nat) : State :=
  { s with lu := { s.lu with launches := s.lu.launches.map fun p =>
      if p.2.anchor = l then (p.1, { p.2 with nodes := dueNodes p.2.nodes i v s.time }) else p } }

/-- A counter takes a new value; the waits of D0 strands that it satisfies end, those of D1 and D2 strands wait for
their quantum end (R195). -/
def setCounter (s : State) (l i : Nat) (v : Word) : State :=
  let co := s.core l
  let due := co.arms.filter fun a => a.i == i && decide (a.val ≤ v.toNat) && detOf s (strandOf s a.ctx a.who).lid == 0
  let s := s.setCore l { co with ctr := fset co.ctr i v, arms := co.arms.filter fun a => !due.contains a }
  markDue (due.foldl (fun s a => wake s a.ctx a.who) s) l i v.toNat

/-- An add, saturating; a poisoned counter drops it (R18, R338). -/
def addCounter (s : State) (l i amount : Nat) : State :=
  if fget (s.core l).ctrBad false i then s
  else setCounter s l i (BitVec.ofNat 64 (Nat.min (2 ^ 64 - 1) ((fget (s.core l).ctr 0 i).toNat + amount)))

/-- A `kset` clears poison (R198, R338). -/
def ksetCounter (s : State) (l i : Nat) (v : Word) : State :=
  let s := s.setCore l { s.core l with ctrBad := fdel (s.core l).ctrBad i }
  setCounter s l i v

/-- The check and the arming of a wait, one step (R195); that of a husked strand is made when it resumes (R192). -/
def armCounter (s : State) (o : Op) (h v pc : Word) (l i : Nat) : State :=
  let co := s.core l
  let st := strandOf s o.ctx o.src
  if st.run ≠ .kwait ∨ (huskOf s o.ctx o.src).isSome then s
  else if fget co.ctrBad false i then wake (pendOn s o.ctx o.src (mkTrap 0x12 7 h) (some pc)) o.ctx o.src
  else if v.toNat ≤ (fget co.ctr 0 i).toNat ∧ detOf s st.lid = 0 then wake s o.ctx o.src
  else s.setCore l { co with arms := co.arms ++ [⟨i, v.toNat, o.src, o.ctx⟩] }

/-- The portion that a draw takes of a loop counter pair: count and first index (R197, Table 7.3). -/
def portion (c dsc : Word) : Nat × Nat :=
  let p := Nat.max 1 (bits dsc 63 48)
  let mn := Nat.max 1 (bits dsc 47 32)
  let e := bits dsc 31 0
  let rem := e - c.toNat
  (if rem = 0 then 0 else Nat.min rem (Nat.max mn ((rem + 2 * p - 1) / (2 * p))), c.toNat)

/-- A draw at the pair's port (R197). -/
def drawCounter (s : State) (o : Op) (h pc : Word) (l i : Nat) : State :=
  let co := s.core l
  if fget co.ctrBad false i || fget co.ctrBad false (i + 1) then
    giveResult (pendOn s o.ctx o.src (mkTrap 0x12 7 h) (some pc)) o.ctx o.src none
  else
    let q := portion (fget co.ctr 0 i) (fget co.ctr 0 (i + 1))
    giveResult (addCounter s l i q.1) o.ctx o.src (some (BitVec.ofNat 64 (q.1 % 2 ^ 32 * 2 ^ 32 + q.2 % 2 ^ 32)))

/-! ## Remote scratchpad operations (R201, R202) -/

/-- The new contents that a remote operation writes: 0 rld, 1 rst, 2 radd, 3 rcas, 4 rswp. -/
def remoteNew (fn width : Nat) (old data cmp : Nat) : Option Nat :=
  let m := 2 ^ (8 * width)
  match fn with
  | 1 => some (data % m)
  | 2 => some ((old + data) % m)
  | 3 => if old = cmp % m then some (data % m) else none
  | 4 => some (data % m)
  | _ => none

/-- Does a remote operation need the old contents: all but an `rst` of whole words (R201, R202)? -/
def remoteReads (fn width : Nat) : Bool := fn != 1 || decide (width < 4)

/-- Where a write through a leaf is placed in commit order, for an issuer on core `l` (R226, R247, Table 8.1): the arbiter of
the page's scope. -/
def writeArbiter (l : Nat) (leaf : Word) : Arbiter := arbiterOf l (pageScope leaf true)

/-- The home of a posted atomic of core `l` (R203, R226): the cluster's atomic unit, the home die, or for the host tier and
for replicated pages the hub. Log 114 (DESIGN CHOICE). -/
def homeOf (l key : Nat) (leaf : Word) : Arbiter :=
  if leafTier leaf = 1 ∨ bitOf leaf 55 then .package
  else if bits leaf 57 56 = 0 then .cluster (clusterOf l)
  else .die (key / dieStep)

/-- An operation at a port as the order log names it: the port's core, the issuer's strand and core, and the offset or the
handle. Log 114 (DESIGN CHOICE). -/
def portEvent (o : Op) (l what : Nat) : Logged := { kind := 3, who := ⟨l, o.src.strand⟩, what := what, other := o.src.core }

/-- Its record. -/
def tracePort (s : State) (o : Op) (l what : Nat) : State :=
  let st := strandOf s o.ctx o.src
  traceEvent s 3 (.core l) 0 ⟨l, o.src.strand⟩ st.chunkSeq what o.src.core st.lid

/-- In replay mode, is it the turn of the operation at its port (R361)? -/
def portTurn (s : State) (o : Op) (l what : Nat) : Bool :=
  replayTurn s (strandOf s o.ctx o.src).lid (.core l) (portEvent o l what)

/-- The operation at the port of core `l`, offset `off`; none: it waits for a solo chunk, or in replay mode for its turn.
Log 71 (DEDUCED). -/
def remoteAt (s : State) (o : Op) (fn width : Nat) (ea data cmp : Word) (ret : Bool) (l off : Nat) : Option State :=
  let g := off / 16
  let on := fun (c : Sid) => c.core == l
  let wrote := fun (ch : Chunk) => fget ch.poolW false g
  let marks := fun (ch : Chunk) => fget ch.poolW false g || fget ch.poolR false g
  if (allStrands s).any fun c => on c && (s.strand c).chunks.any fun ch => ch.solo && (wrote ch || (marks ch && fn != 0))
  then none
  else
    let s := squashHits s on (fun ch => !ch.solo && wrote ch) 2 true o.src.core
    let co := s.core l
    if remoteReads fn width && (upto (off / 4) ((off + width - 1) / 4 - off / 4 + 1)).any fun w => fget co.poolBad false w then
      some (refuse s o 0x12 1 ea none)
    else if !portTurn s o l off then none
    else
      let old := leNat (Mem.bytes co.pool off width)
      let s := tracePort s o l off
      let s := match remoteNew fn width old data.toNat cmp.toNat with
        | none => s
        | some v =>
          let s := squashHits s on (fun ch => !ch.solo && marks ch) 2 true o.src.core
          engineWatch (pokePool s l off (leBytes width v)) (some l) (upto off width) 2 (watchSource o.src true)
      some (if ret then giveResult s o.ctx o.src (some (BitVec.ofNat 64 old)) else s)

/-! ## Posted atomics (R203) -/

/-- The combined value: 0 add, 1 min, 2 max, 3 or. -/
def combine (fn : BitVec 2) (t : PTy) (old x : Nat) : Nat :=
  let w := match t with | .i64 => 64 | _ => 32
  let x := x % 2 ^ w
  match t with
  | .f32 =>
    let a := f32.decode false old
    let b := f32.decode false x
    let r : Rnd := ⟨1, 0, false, false⟩
    if fn = 0 then (f32.round r (addX 1 a b).1 noFlags).1
    else if fn = 1 then (f32.round r (minX a b).1 noFlags).1
    else (f32.round r (maxX a b).1 noFlags).1
  | _ =>
    let sg := fun (n : Nat) => (if n.testBit (w - 1) then (n : Int) - 2 ^ w else (n : Int))
    if fn = 0 then (old + x) % 2 ^ w
    else if fn = 1 then (if sg x < sg old then x else old)
    else if fn = 2 then (if sg old < sg x then x else old)
    else old ||| x

/-- Bytes of a posted atomic's type. -/
def postedBytes : PTy → Nat
  | .i64 => 8
  | _ => 4

/-- A posted atomic at its home on the module; none: it waits for a solo chunk, or in replay mode for its turn. A word that cannot be read is left as it is
and reported as MCHK, SUB 1 (R203, R338). Log 70 (DESIGN CHOICE). -/
def postedAt (s : State) (o : Op) (fn : BitVec 2) (t : PTy) (va : Word) (key : Nat) (leaf data : Word) : Option State :=
  let n := postedBytes t
  let slot := bits leaf 15 8
  let from' := if bitOf leaf 55 then key + liveDie s 0 * dieStep else key
  if key < hostBase ∧ !bitOf leaf 55 ∧ (s.die (key / dieStep)).lost then some (refuse s o 0x14 1 va none)
  else match badLine s slot (upto from' n) with
  | some b => some (refuse (if b = .tag then flagSlot s slot else s) o 0x12 1 va none)
  | none =>
    let old := leNat ((upto from' n).map fun k => committedByte s slot k)
    let st := strandOf s o.ctx o.src
    let home := homeOf o.src.core key leaf
    if !replayTurn s st.lid home { kind := 2, who := o.src, what := 0, other := o.src.core } then none
    else match placeWrite s leaf (atKeys key (leBytes n (combine fn t old data.toNat))) o.src st.lid st.chunkSeq with
    | none => none
    | some s =>
      let s := traceEvent s 2 home 0 o.src st.chunkSeq (key % hostBase / 64 * 64) o.src.core st.lid
      some (engineWatch s none (upto key n) 2 (watchSource o.src false))

/-- A posted atomic to a peer-tier page leaves through a link port (R203, R223, R327); with no working port of the route
nothing is sent. Log 70 (DESIGN CHOICE). -/
def postedPeer (s : State) (o : Op) (fn : BitVec 2) (t : PTy) (key : Nat) (data : Word) : Option State :=
  let pa := key - peerBase
  let dmod := pa / 2 ^ 45
  if !fenceClear s o.src o.epoch then none
  else
    match routeTo s dmod with
    | none => some s
    | some n =>
      let q := takeSrcSeq s
      sendOn q.2 n dmod (.posted (modNum s) q.1 o.src (pa % 2 ^ 45) fn t data) (some (o.src, o.epoch))

/-- A posted atomic: it takes the translation in force when it is placed, and waits while its page is write-blocked
(R260, R261). Log 69 (DEDUCED), 70 (DESIGN CHOICE). -/
def deliverPosted (s : State) (o : Op) (fn : BitVec 2) (t : PTy) (va : Word) (key : Nat) (leaf data : Word) : Option State :=
  let now := match translate s o.src.core o.ctx va with
    | .ok (x, _) => let p := spotOf x va 0; (p.sig, p.leaf)
    | .error _ => (key, leaf)
  if bitOf now.2 6 then none
  else if leafTier now.2 == 2 then postedPeer s o fn t now.1 data
  else postedAt s o fn t va now.1 now.2 data

/-! ## The spill ring (R285) -/

/-- The dwords of an operation's spill entry. Log 20 (DEDUCED). -/
def spillEntry (o : Op) : List Byte :=
  let d0 := fun (kind fn : Nat) => kind + fn * 256 + o.src.core % 2 ^ 15 * 2 ^ 32 + o.src.strand % 4 * 2 ^ 48
  let l : List Nat := match o.rel with
    | .add h n => [d0 0 0, h.toNat, n, 0]
    | .set h v => [d0 1 0, h.toNat, v.toNat, 0]
    | .arm h v _ => [d0 2 0, h.toNat, v.toNat, 0]
    | .draw h _ => [d0 3 0, h.toNat, 0, 0]
    | .remote fn w ea x c _ => [d0 4 (fn + 8 * Nat.log2 w), ea.toNat, x.toNat, if fn = 3 then c.toNat else 0]
    | _ => [0, 0, 0, 0]
  l.flatMap (leBytes 8)

/-- Writes an entry at its place in the ring: none where the ring is full; `.error` where it is unusable.
Log 20 (DEDUCED). -/
def spillWrite (s : State) (ctx : Nat) (entry : List Byte) : Except Bool State :=
  let base := memWord s (ctx + 40)
  let size := bits (memWord s (ctx + 48)) 15 0
  let x := ctxCopy s ctx
  if base = 0 ∨ !ringSize size then .error true
  else if x.put - x.take = size then .error false
  else
    match unitSpot s 8 ctx (base + BitVec.ofNat 64 (x.put % size * 32)) .write false with
    | .error _ => .error true
    | .ok p =>
      if bitOf p.leaf 6 then .error false
      else if anyPoison s p.key 32 && p.sig % 32 != 0 then .error true
      else
        match placeWrite s p.leaf (atKeys p.sig entry) with
        | none => .error false
        | some s => .ok (setCtx s ctx { x with put := x.put + 1 })

/-! ## Delivery -/

/-- The core that an operation is addressed to. -/
def targetOf (r : Rel) : Option Nat :=
  match r with
  | .add h _ | .set h _ | .arm h _ _ | .draw h _ => (handleOf h).map Prod.fst
  | .remote _ _ ea _ _ _ => match placeOf ea with | .remote l _ => some l | _ => none
  | _ => none

/-- Where an operation goes: operations of one strand with one destination arrive in order (R191). -/
inductive Dest where
  | port (l : Nat)
  | cluster (n : Nat)
  | slice (d k : Nat)
  | host
  | link (m : Nat)
  | unit
deriving DecidableEq, Repr

/-- The home slice of a local-tier address (R242). -/
def sliceOf (pa : Nat) : Nat := (pa / 64 % 32) ^^^ (pa / 2048 % 32) ^^^ (pa / 65536 % 32)

/-- The destination of an operation of a strand of core `l`. -/
def destOf (l : Nat) (r : Rel) : Dest :=
  match r with
  | .posted _ _ _ key leaf _ =>
    if leafTier leaf == 2 then .link ((key - peerBase) / 2 ^ 45)
    else if leafTier leaf == 1 then .host
    else if bits leaf 57 56 = 0 ∧ !bitOf leaf 55 then .cluster (clusterOf l)
    else .slice (key / dieStep) (sliceOf key)
  | r => match targetOf r with | some l => .port l | none => .unit

/-- Posted atomics and remote operations, which counter adds and starts of the strand follow (R235). -/
def isPosted : Rel → Bool
  | .posted _ _ _ _ _ _ | .remote _ _ _ _ _ _ => true
  | _ => false

/-- Operations that always reach the counters of an anchor core directly (R272). -/
def isDirect : Rel → Bool
  | .add _ _ | .set _ _ | .draw _ _ => true
  | _ => false

/-- Operations that leave only after the strand's earlier posted ones are applied (R235). -/
def isGated : Rel → Bool
  | .add _ _ | .set _ _ | .launch _ _ => true
  | _ => false

/-- Must a gated operation of strand `c` numbered `num` still wait (R235)? -/
def gateShut (s : State) (c : Sid) (num : Nat) : Bool :=
  s.eng.ops.any fun p => p.src == c && !p.unit && decide (p.num < num) && isPosted p.rel

/-- Is the operation queued at the port of a stopped core (R353)? -/
def inPort (s : State) (o : Op) : Bool := match targetOf o.rel with | some l => (s.core l).portQ.contains o.num | none => false

/-- Is an operation held at a full or unusable spill ring ahead of this one of the same sender (R285)? The sender of a
strand's operations is the port of its core. Log 20 (DEDUCED). -/
def behindHeld (s : State) (o : Op) : Bool :=
  s.eng.ops.any fun p => p.held && p.unit == o.unit && p.src.core == o.src.core && decide (p.num < o.num)

/-- May the operation arrive now (R191, R223, R235, R285)? -/
def canArrive (s : State) (o : Op) : Bool :=
  !(s.eng.ops.any fun p => p.src == o.src && p.unit == o.unit && decide (p.num < o.num) && !p.spilled && !inPort s p
      && destOf p.src.core p.rel == destOf o.src.core o.rel)
  && !behindHeld s o && (o.unit || !isGated o.rel || !gateShut s o.src o.num)

/-- Are every copy and collective of the contexts on the core joined (R352)? -/
def coreJoined (s : State) (l : Nat) : Bool :=
  let ctxs := (s.core l).strands.map fun p => s.ctx ⟨l, p.1⟩
  !(s.eng.copies.any fun x => ctxs.contains x.ctx) && !(s.eng.colls.any fun x => ctxs.contains x.ctx)

/-- DBGCORE.STOPPED (Table 14.2, R352). -/
def coreStopped (s : State) (l : Nat) : Bool :=
  let co := s.core l
  let live := co.strands.filter fun p => p.2.run != .none
  (co.dbgHalt || !live.isEmpty) && live.all (fun p => p.2.stopped) && (!co.quiesce || co.qopen || coreJoined s l)

/-- Is the core the anchor of a launch of the context (R272)? -/
def anchorOf (s : State) (ctx l : Nat) : Bool := s.lu.launches.any fun p => p.2.anchor == l && p.2.ctx == ctx

/-- The operations without the one numbered `num`. -/
def dropOp (s : State) (num : Nat) : State :=
  { s with eng := { s.eng with ops := s.eng.ops.filter fun p => p.num != num } }

/-- The first time that an operation finds the ring unusable during a husked occupancy, LASTERR says so (R285). -/
def firstUnusable (s : State) (lid l : Nat) : State :=
  match s.launch lid with
  | none => s
  | some x =>
    if x.husks.any fun h => h.core == l && h.unusable then s
    else setLastErr (s.setLaunch lid { x with husks := x.husks.map fun h => if h.core = l then { h with unusable := true } else h })
      lid 0x14

/-- An operation for a husked or stopped core goes to the spill ring, or is held by its port (R285, R353).
Log 20 (DEDUCED). -/
def spillOp (s : State) (o : Op) (l : Nat) : State :=
  match spillWrite s o.ctx (spillEntry o) with
  | .ok s =>
    { dropOp s o.num with eng := { s.eng with ops := (dropOp s o.num).eng.ops ++ [{ o with spilled := true, held := false }] } }
  | .error unusable =>
    let s := if unusable then
        (match (s.core l).husked.find? fun lid => ctxOf s lid == o.ctx with
         | some lid => firstUnusable s lid l
         | none => s)
      else s
    { s with eng := { s.eng with ops := s.eng.ops.map fun p => if p.num = o.num then { p with held := true } else p } }

/-- A counter operation at its port. The order log has it, and replay mode places it in order (R238, R361); other traces have
no such event (R359). Log 114 (DESIGN CHOICE). -/
def counterEvent (s : State) (o : Op) (l : Nat) (h : Word) (act : State → Nat → State) : Option State := do
  let p ← handleOf h
  if !portTurn s o l h.toNat then none
  else some (act (if ordering s || s.dbg.replay.isSome then tracePort s o l h.toNat else s) p.2)

/-- The operation at the port of core `l`; none: it waits there. -/
def atPort (s : State) (o : Op) (l : Nat) : Option State :=
  match o.rel with
  | .add h n => counterEvent s o l h fun s i => addCounter s l i n
  | .set h v => counterEvent s o l h fun s i => ksetCounter s l i v
  | .arm h v pc => counterEvent s o l h fun s i => armCounter s o h v pc l i
  | .draw h pc => counterEvent s o l h fun s i => drawCounter s o h pc l i
  | .remote fn w ea x c ret =>
    match placeOf ea with
    | .remote _ off =>
      if off + w > (s.core l).spBytes then some (refuse s o 5 1 ea none) else remoteAt s o fn w ea x c ret l off
    | _ => none
  | _ => none

/-- The value that TRAPVAL shows of a refused operation: handle or address. -/
def opValue : Rel → Word
  | .add h _ | .set h _ | .arm h _ _ | .draw h _ => h
  | .remote _ _ ea _ _ _ => ea
  | .posted _ _ va _ _ _ => va
  | _ => 0

/-- An operation addressed to a core arrives (Table 10.1a, R324, R353): the state with the operation done and gone,
spilled, queued or held; none: it waits. -/
def arrive (s : State) (o : Op) (l : Nat) : Option State :=
  let counter := isDirect o.rel
  if (s.die (dieOf l)).lost then some (refuse (dropOp s o.num) o 0x14 1 (opValue o.rel) none)
  else
    match fateOf s o.ctx l counter with
    | .refuse => some (refuse (dropOp s o.num) o 5 2 (opValue o.rel) none)
    | .spill => some (spillOp s o l)
    | .apply =>
      if coreStopped s l && !(!isPosted o.rel && anchorOf s o.ctx l) then
        (if (s.core l).portQ.contains o.num then none
         else if (s.core l).portQ.length < 64 then
           some (s.setCore l { s.core l with portQ := (s.core l).portQ ++ [o.num] })
         else some (spillOp s o l))
      else atPort (dropOp s o.num) o l

/-- An operation of R235's first kind is placed: at a port, or at a home. -/
def deliver (s : State) (o : Op) : Option State :=
  match o.rel with
  | .posted fn t va key leaf data => deliverPosted (dropOp s o.num) o fn t va key leaf data
  | r => (targetOf r).bind fun l => arrive s o l

/-- The operation numbered `num`. -/
def findOp (s : State) (num : Nat) : Option Op := s.eng.ops.find? fun o => o.num == num

/-- The event of an operation: it is placed if it may arrive and is neither spilled nor queued at a stopped port.
Log 4 (DESIGN CHOICE). -/
def opEvent (s : State) (num : Nat) (kind : Op → Bool) : Option State := do
  let o ← findOp s num
  if kind o && !o.spilled && canArrive s o then deliver s o else none

/-- Adds an operation to those in flight. -/
def pushOp (s : State) (c : Sid) (ctx epoch grp : Nat) (unit : Bool) (r : Rel) : State :=
  let o : Op := ⟨s.eng.nextOp, c, ctx, r, epoch, false, unit, false, grp⟩
  { s with eng := { s.eng with ops := s.eng.ops ++ [o], nextOp := s.eng.nextOp + 1 } }

/-- A counter add of an engine, port or the launch unit for a context: placed at once where its port takes it, else in
flight. Its handle 0 names no counter. Log 19 (DESIGN CHOICE). -/
def unitAdd (s : State) (c : Sid) (ctx : Nat) (h : Word) (amount : Nat) : State :=
  if h = 0 ∨ (handleOf h).isNone then s
  else
    let num := s.eng.nextOp
    let s := pushOp s c ctx 0 0 true (.add h amount)
    (opEvent s num fun _ => true).getD s

/-- Would a unit's add to the handle be refused now (Table 10.1a)? -/
def addRefused (s : State) (ctx : Nat) (h : Word) : Bool :=
  match handleOf h with
  | some (l, _) => (s.die (dieOf l)).lost || fateOf s ctx l true == .refuse
  | none => true

/-- An event that does not take place now leaves the state as it is. Log 4 (DESIGN CHOICE). -/
def event (s : State) (x : Option State) : Res := .next (x.getD s)

end Sys2Proof.Machine
end

