-- ==== Sys2Proof/Machine/Collectives.lean ====
section
/-! DEFINITION. Collective groups, views and operations (R311 to R323): issue, start, partials, combination, policies,
completion, proposing and applying a view. -/

namespace Sys2Proof.Machine

/-! ## Groups and members (R311, R312) -/

/-- A group entry. -/
def State.group (s : State) (g : Nat) : Group := fget s.net.groups Group.reset g

/-- The state with a group entry replaced. -/
def State.setGroup (s : State) (g : Nat) (x : Group) : State := { s with net := { s.net with groups := fset s.net.groups g x } }

/-- The member number of a die of this module. -/
def memberOf (s : State) (d : Nat) : Nat := modNum s * 8 + d

/-- Is the member a die of this module? -/
def isLocal (s : State) (m : Nat) : Bool := m / 8 == modNum s

/-- A list of members sorted by number, without repeats. -/
def sortMembers (l : List Nat) : List Nat := (l.foldl (fun (m : FMap Unit) x => fset m x ()) []).map Prod.fst

/-- The modules of some members. -/
def modulesOf (l : List Nat) : List Nat := sortMembers (l.map (· / 8))

/-- Kind and number of a message of the view units: 0 PROPOSE, 1 ACK, 2 COMMIT, 3 SUSPECT, 4 JOINREQ, 5 JOINACK. -/
def viewNote : ViewMsg → Nat × Nat
  | .propose p => (0, p.num)
  | .ack n _ => (1, n)
  | .commit p => (2, p.num)
  | .suspect m => (3, m)
  | .joinReq m => (4, m)
  | .joinAck m => (5, m)

/-- Sends a message of the view units to the hubs of some modules, in traffic class 3 where the module is another one
(R317, R326, R366). -/
def sendView (s : State) (mods : List Nat) (grp : Nat) (m : ViewMsg) : State :=
  (mods.filter fun k => k != modNum s).foldl (fun s k => sendOrHold s k (.view grp m))
    { s with net := { s.net with sent := mods.map (fun k => (k, grp, viewNote m)) ++ s.net.sent } }

/-- The lowest full member that this hub does not suspect (R317). -/
def lowestLive (g : Group) : Option Nat := (sortMembers g.full).find? fun m => !g.suspects.contains m

/-- Is this hub the proposer of the group (R317)? -/
def isProposer (s : State) (g : Group) : Bool := match lowestLive g with | some m => isLocal s m | none => false

/-! ## Operations (R313 to R316) -/

/-- Fields of the bound set (Table 7.6). -/
def Coll.reg (x : Coll) (n : Nat) : Word := fget x.set 0 n

/-- KIND. -/
def collKind (x : Coll) : Nat := bits (x.reg 0x200) 3 0
/-- COMB. -/
def collComb (x : Coll) : Nat := bits (x.reg 0x200) 7 4
/-- CNT. -/
def collCount (x : Coll) : Nat := bits (x.reg 0x203) 31 0
/-- TYPE (Table 5.1). -/
def collType (x : Coll) : Nat := bits (x.reg 0x204) 2 0
/-- POLICY. -/
def collPolicy (x : Coll) : Nat := bits (x.reg 0x206) 1 0

/-- Bytes of an element. -/
def collSize (x : Coll) : Nat := if collType x = 1 ∨ collType x = 2 then 2 else 4

/-- The die of an operation. -/
def collDie (x : Coll) : Nat := dieOf x.src.core

/-- Elements that a member of rank `q` reads, with n members (Table 12.2). -/
def sourceElems (x : Coll) (n q : Nat) : Nat :=
  match collKind x with
  | 1 | 3 => n * collCount x
  | 4 => if q = 0 then collCount x else 0
  | _ => collCount x

/-- Elements that it writes. -/
def destElems (x : Coll) (n : Nat) : Nat :=
  match collKind x with | 2 | 3 => n * collCount x | _ => collCount x

/-- The members of a group's operation under the committed view: the full ones, but for those whose first operation is a later
one. Log 116 (DEDUCED). -/
def membersFor (g : Group) (seq : Nat) : List Nat := (sortMembers g.full).filter fun m => decide (fget g.since 0 m ≤ seq)

/-- The members of an operation now. -/
def collMembers (s : State) (x : Coll) : List Nat := membersFor (s.group x.grp) x.seq

/-- The rank of an operation's die among its members. -/
def collRank (s : State) (x : Coll) : Nat := (collMembers s x).idxOf (memberOf s (collDie x))

/-- The operations of a group's number `seq` on the module. -/
def peersOf (s : State) (x : Coll) : List Coll := s.eng.colls.filter fun y => y.grp == x.grp && y.seq == x.seq

/-- The state with every operation that meets a test changed. -/
def mapColls (s : State) (p : Coll → Bool) (f : Coll → Coll) : State :=
  { s with eng := { s.eng with colls := s.eng.colls.map fun y => if p y then f y else y } }

/-- The same operation on every local member ends with STATE 6 (R313, R314). -/
def failAll (s : State) (x : Coll) : State :=
  mapColls s (fun y => y.grp == x.grp && y.seq == x.seq) fun y => { y with failed := true }

/-- Codes of `n` bytes-wide elements. -/
def codesOf (size : Nat) : Nat → List Byte → List W32
  | 0, _ => []
  | k + 1, l => BitVec.ofNat 32 (leNat (l.take size)) :: codesOf size k (l.drop size)

/-- Reads the sources of an operation line by line from committed memory (R236, R314): the local, host or replicated
tier; none for a fault or poison. -/
def readSource (s : State) (x : Coll) (elems : Nat) : Option (List W32) := do
  let l ← (pieces (x.reg 0x201) (elems * collSize x)).foldlM (fun (l : List Byte) p =>
    match unitSpot s (collDie x) x.ctx p.1 .read false with
    | .ok q => if leafTier q.leaf == 2 then none else (spotRead s q p.2).map fun b => l ++ b
    | .error _ => none) []
  some (codesOf (collSize x) elems l)

/-- The contribution of an operation reaches its own engine, and goes to the other full members: the dies of the module, and
in traffic class 1 those of other modules (R320, R326, R327). -/
def sendPartial (s : State) (x : Coll) (codes : List W32) : State :=
  let p : Partial := { grp := x.grp, view := x.view, seq := x.seq, member := memberOf s (collDie x), codes := codes }
  let others := (collMembers s x).filter fun m => isLocal s m && m != memberOf s (collDie x)
  ((collMembers s x).filter fun m => !isLocal s m).foldl (fun s m => sendOrHold s (m / 8) (.part m p))
    { s with eng := { s.eng with partials := s.eng.partials ++ [(collDie x, p)],
                                 flying := s.eng.flying ++ others.map fun m => (m % 8, p) } }

/-- ce.status of the strand, and its twin, whose most recent operation this is (R211). -/
def showColl (s : State) (x : Coll) (v : Word) : State :=
  if (strandOf s x.ctx x.src).ceLast = x.num then
    (bothOf s x.ctx x.src).foldl (fun s c => modStrand s x.ctx c fun st => { st with ceStatus := v }) s
  else s

/-- An operation ends: ce.status of the strand whose most recent it is, 1 added to ce.ctr, its slot and staging free
(R211, R316). -/
def finishColl (s : State) (x : Coll) (state : Nat) (view : Nat) : State :=
  let s := if (strandOf s x.ctx x.src).ceStatus = 0 then s
    else showColl s x (BitVec.ofNat 64 (view % 2 ^ 32 * 2 ^ 32 + state))
  let s := { s with eng := { s.eng with
    colls := s.eng.colls.filter fun y => y.num != x.num,
    partials := s.eng.partials.filter fun p => !(p.1 == collDie x && p.2.grp == x.grp && p.2.seq == x.seq) } }
  unitAdd s x.src x.ctx (x.reg 0x207) 1

/-- A strand's chunk with a ce.go commits (R211, R313): the operation is bound to its number, and the die's count advances;
on a die that is not full in a valid group it is to end with STATE 6. Log 74 (DEDUCED). -/
def issueColl (s : State) (c : Sid) (ctx qgrp : Nat) (ident : Word) (set : FMap Word) : State :=
  let num := s.eng.nextOp
  let d := dieOf c.core
  let grp := (fget set 0 0x205).toNat
  let g := s.group grp
  let ok := g.valid && g.full.contains (memberOf s d)
  let di := s.die d
  let seq := fget di.issue 0 grp
  let x : Coll := { num := num, ident := ident, src := c, ctx := ctx, set := set, grp := grp, seq := seq, qgrp := qgrp,
                    running := false, n0 := 0, view := 0, changed := false, slotted := false, failed := !ok,
                    out := none, placed := 0 }
  let s := s.setDie d { di with issue := fset di.issue grp (seq + 1) }
  let s := if ok then s.setGroup grp { s.group grp with nextSeq := Nat.max (s.group grp).nextSeq (seq + 1) } else s
  let s := (bothOf s ctx c).foldl (fun s c => modStrand s ctx c fun st => { st with ceStatus := 1, ceLast := num }) s
  { s with eng := { s.eng with colls := s.eng.colls ++ [x], nextOp := num + 1 } }

/-- Have all full members on the module issued the operation (R313)? Those of other modules have when the event comes. -/
def allIssued (s : State) (x : Coll) : Bool :=
  (collMembers s x).all fun m => !isLocal s m || (peersOf s x).any fun y => collDie y == m % 8 && y.slotted && !y.failed

/-- Do the full members on the module agree in KIND, COMB, TYPE, CNT and POLICY (R313)? A ce.go of a die that is not full is no
part of the operation. -/
def allAgree (s : State) (x : Coll) : Bool :=
  ((peersOf s x).filter fun y => (collMembers s x).contains (memberOf s (collDie y)) && !y.failed).all fun y => y.reg 0x200 == x.reg 0x200 && y.reg 0x203 == x.reg 0x203 && y.reg 0x204 == x.reg 0x204
    && y.reg 0x206 == x.reg 0x206

/-- Has the operation members on other modules? Log 18 (DESIGN CHOICE). -/
def hasRemote (s : State) (x : Coll) : Bool := (collMembers s x).any fun m => !isLocal s m

/-- STAGESIZE × 64 MiB (R314, Table 17.3). Log 88 (DESIGN CHOICE). -/
def stagingBytes (s : State) : Nat := bits (fget s.boot.conf 0 2) 15 0 * 0x4000000

/-- Staging that an operation needs under its group's view. -/
def stagingNeed (s : State) (x : Coll) : Nat := destElems x (collMembers s x).length * collSize x

/-- Staging that a die's running operations hold. -/
def stagingUsed (s : State) (d : Nat) : Nat :=
  (s.eng.colls.filter fun y => y.running && collDie y == d).foldl (fun n y => n + stagingNeed s y) 0

/-- The slot of an operation: one of its die's 16, in issue order; its identifier is then the go's result (R211). -/
def takeCollSlot (s : State) (x : Coll) : Option State :=
  let mine := s.eng.colls.filter fun y => collDie y == collDie x
  if x.slotted then some s
  else if 16 ≤ (mine.filter fun y => y.slotted).length then none
  else if mine.any fun y => !y.slotted && decide (y.num < x.num) then none
  else if gateShut s x.src x.num then none
  else some (giveResult (mapColls s (fun y => y.num == x.num) fun y => { y with slotted := true }) x.ctx x.src (some x.ident))

/-- The operation numbered `num`. -/
def findColl (s : State) (num : Nat) : Option Coll := s.eng.colls.find? fun x => x.num == num

/-- Does an operation issued earlier on the die wait for staging (R314)? -/
def stagingQueue (s : State) (x : Coll) : Bool :=
  s.eng.colls.any fun y => collDie y == collDie x && decide (y.num < x.num) && y.slotted && !y.running && !y.failed && allIssued s y

/-- Runs an operation, from its sources, under its group's view (R313, R321); a source fault fails it for every member, and
a tag that fails flags its slot (R340). Log 18 (DESIGN CHOICE). -/
def runColl (s : State) (x : Coll) : State :=
  let n := (collMembers s x).length
  let y := { x with running := true, n0 := if x.changed then x.n0 else n, view := (s.group x.grp).viewN }
  let s := flagRead s (collDie y) y.ctx (y.reg 0x201) (sourceElems y n (collRank s y) * collSize y)
  match readSource s y (sourceElems y n (collRank s y)) with
  | none => failAll s x
  | some codes =>
    let s := mapColls s (fun z => z.num == x.num) fun _ => y
    sendPartial (showColl s x 2) y codes

/-- Runs an operation once there is staging for it (R314): one whose need exceeds the region fails for every member, and
one whose need is not free waits its turn. -/
def tryRun (s : State) (x : Coll) : State :=
  if stagingBytes s < stagingNeed s x then failAll s x
  else if stagingQueue s x || decide (stagingBytes s < stagingUsed s (collDie x) + stagingNeed s x) then s
  else runColl s x

/-- Takes a slot and starts (R211, R313, R314). An operation that must fail ends at once. -/
def startColl (s : State) (num : Nat) : Option State := do
  let x ← findColl s num
  if x.running then none
  else
    let s ← takeCollSlot s x
    let x ← findColl s num
    let g := s.group x.grp
    if x.failed then some (finishColl s x 6 (if g.valid then g.viewN else 0))
    else if !allIssued s x then some s
    else if !allAgree s x || (hasRemote s x && !Config.remoteOk 0 x.grp x.seq g.viewN) then some (failAll s x)
    else some (tryRun s x)

/-! ## Partials (R320) -/

/-- A partial reaches the engine of a die: those of dies of the module must have been sent; one of an earlier view is
dropped, the others are kept once (one of a later view until that view is applied). -/
def receivePartial (s : State) (d : Nat) (p : Partial) : Option State :=
  if isLocal s p.member && !s.eng.flying.contains (d, p) then none
  else
    let s := { s with eng := { s.eng with flying := s.eng.flying.erase (d, p) } }
    let seen := (s.eng.colls.filter fun y => y.grp == p.grp && y.seq == p.seq && collDie y == d && y.running).map fun y => y.view
    let now := seen.headD (s.group p.grp).viewN
    if decide (p.view < now) || s.eng.partials.contains (d, p) then some s
    else some { s with eng := { s.eng with partials := s.eng.partials ++ [(d, p)] } }

/-! ## Combination and policies (R315, R321) -/

/-- The format of a floating-point type. -/
def collStd (t : Nat) : Std := if t = 1 then bf16 else if t = 2 then f16 else f32

/-- RNE without flushing or clamping. -/
def plainRnd : Rnd := ⟨1, 0, false, false⟩

/-- op of R315 on two codes: COMB 0 sum, 1 max, 2 min. -/
def collOp (t comb : Nat) (a b : W32) : W32 :=
  if t < 3 then
    let f := collStd t
    let x := f.decode false a.toNat
    let y := f.decode false b.toNat
    let r := if comb = 0 then (addX 1 x y).1 else if comb = 1 then (maxX x y).1 else (minX x y).1
    BitVec.ofNat 32 (f.round plainRnd r noFlags).1
  else if comb = 0 then a + b
  else
    let less := if t = 3 then decide (a.toInt < b.toInt) else decide (a.toNat < b.toNat)
    if comb = 1 then (if less then b else a) else (if less then a else b)

/-- One level of the tree: position i takes position i + h where there is one. -/
def treeLevel {α : Type} (f : α → α → α) (h : Nat) (l : List α) : List α :=
  (l.take h).zipIdx.map fun p => match l[p.2 + h]? with | some y => f p.1 y | none => p.1

/-- The tree of R315 from half width `2^k` down. -/
def treeFrom {α : Type} (f : α → α → α) : Nat → List α → List α
  | 0, l => treeLevel f 1 l
  | k + 1, l => treeFrom f k (treeLevel f (2 ^ (k + 1)) l)

/-- Ceiling of the base-two logarithm. -/
def clog2 (n : Nat) : Nat := if n ≤ 1 then 0 else Nat.log2 (n - 1) + 1

/-- The combination of contributions in rank order (R315). -/
def treeCombine (t comb : Nat) (l : List W32) : W32 :=
  match l with
  | [] => 0
  | [x] => x
  | l => (treeFrom (collOp t comb) (clog2 l.length - 1) l).headD 0

/-- S × a ÷ b, one rounding, for the sums of Table 12.4. -/
def scaleSum (t a b : Nat) (x : W32) : W32 :=
  if t < 3 then
    let f := collStd t
    let q := match f.decode false x.toNat with
      | .fin n m e => quotX n (m * a) e b 0
      | y => y
    BitVec.ofNat 32 (f.round plainRnd q noFlags).1
  else
    let v := if t = 3 then x.toInt else (x.toNat : Int)
    BitVec.ofInt 32 (Int.tdiv (v * a) b)

/-- The policy's result for an element (Table 12.4). -/
def policyResult (x : Coll) (n1 : Nat) (v : W32) : W32 :=
  if collComb x ≠ 0 ∨ 1 < collKind x then v
  else if collPolicy x = 1 then scaleSum (collType x) 1 n1 v
  else if collPolicy x = 2 then scaleSum (collType x) x.n0 n1 v
  else v

/-- The contributions to an operation by rank, once all are there with its view. -/
def contributions (s : State) (x : Coll) : Option (List (List W32)) :=
  (collMembers s x).mapM fun m =>
    (s.eng.partials.find? fun p => p.1 == collDie x && p.2.grp == x.grp && p.2.seq == x.seq && p.2.view == x.view
      && p.2.member == m).map fun p => p.2.codes

/-- Block `k` of CNT codes. -/
def blockAt (x : Coll) (l : List W32) (k : Nat) : List W32 := (l.drop (k * collCount x)).take (collCount x)

/-- The element-wise combination of lists. -/
def combineAll (x : Coll) (ls : List (List W32)) : List W32 :=
  (upto 0 (collCount x)).map fun i => treeCombine (collType x) (collComb x) (ls.map fun l => nth l 0 i)

/-- What an operation of rank `q` writes (Table 12.2, R321). -/
def collResult (x : Coll) (q : Nat) (ls : List (List W32)) : List W32 :=
  match collKind x with
  | 0 => (combineAll x ls).map (policyResult x ls.length)
  | 1 => (combineAll x (ls.map fun l => blockAt x l q)).map (policyResult x ls.length)
  | 2 => ls.flatMap fun l => blockAt x l 0
  | 3 => ls.flatMap fun l => blockAt x l q
  | _ => blockAt x (ls.headD []) 0

/-! ## Completion (R316) -/

/-- The 512-byte blocks of `n` bytes from an address: offset and length. -/
def blocksOf (va n : Nat) : List (Nat × Nat) :=
  if n = 0 then [] else (upto (va / 512) ((va + n - 1) / 512 - va / 512 + 1)).map fun b =>
    let lo := Nat.max va (b * 512)
    (lo - va, Nat.min (va + n) (b * 512 + 512) - lo)

/-- Where byte `off` of an operation's destination goes; none for a fault or a peer-tier page. -/
def destSpot (s : State) (x : Coll) (off : Nat) : Option Spot :=
  match unitSpot s (collDie x) x.ctx (x.reg 0x202 + BitVec.ofNat 64 off) .write false with
  | .ok q => if leafTier q.leaf == 2 then none else some q
  | .error _ => none

/-- Has every block of an operation's destination its place? -/
def destOk (s : State) (x : Coll) : Bool :=
  (blocksOf (x.reg 0x202).toNat (destElems x (collMembers s x).length * collSize x)).all fun b => (destSpot s x b.1).isSome

/-- Writes the next 512-byte block of a result from staging, one event, and with the last one ends the operation (R316,
R236); none: the block waits for a solo chunk or a write-blocked page. -/
def placeOut (s : State) (x : Coll) (out : List Byte) : Option State :=
  let blocks := blocksOf (x.reg 0x202).toNat out.length
  let ended := fun (s : State) => finishColl s x (if x.changed then 4 else 3) x.view
  match blocks[x.placed]? with
  | none => some (ended s)
  | some b =>
    match destSpot s x b.1 with
    | none => some (finishColl (failAll s x) { x with failed := true } 6 x.view)
    | some p =>
      if bitOf p.leaf 6 then none
      else
        let lid := (strandOf s x.ctx x.src).lid
        let arb := writeArbiter x.src.core p.leaf
        if !replayTurn s lid arb { kind := 5, who := x.src, what := x.ident.toNat, other := x.src.core } then none
        else (placeWrite s p.leaf (atKeys p.sig ((out.drop b.1).take b.2)) x.src lid (bits x.ident 29 0)).map fun s =>
          let s := traceEvent s 5 arb 0 x.src (bits x.ident 29 0) x.ident.toNat x.src.core lid
          let s := engineWatch s none (upto p.sig b.2) 1 x.ident
          if x.placed + 1 = blocks.length then ended s
          else mapColls s (fun y => y.num == x.num) fun y => { y with out := some out, placed := x.placed + 1 }

/-- The members of an operation on the module that run. -/
def runningPeers (s : State) (x : Coll) : List Coll := (peersOf s x).filter fun y => y.running

/-- Has every contribution reached every member on the module, under the committed view: the operation then completes there
under that view, whatever view comes next. Log 116 (DEDUCED). -/
def allHere (s : State) (x : Coll) : Bool :=
  (runningPeers s x).all fun y => y.out.isSome || (y.view == (s.group y.grp).viewN && (contributions s y).isSome)

/-- The result of an operation, in staging. -/
def stageOut (s : State) (x : Coll) : Coll :=
  match x.out, contributions s x with
  | none, some ls => { x with out := some ((collResult x (collRank s x) ls).flatMap fun v => leBytes (collSize x) v.toNat) }
  | _, _ => x

/-- An operation goes on to its end (R313, R316, R318): failed, its result combined for every member on the module, or a block
of its destination written. -/
def completeColl (s : State) (num : Nat) : Option State := do
  let x ← findColl s num
  let g := s.group x.grp
  if g.state == 3 && x.running then none
  else match x.out with
  | some out => placeOut s x out
  | none =>
    if x.failed then (if x.slotted then some (finishColl s x 6 g.viewN) else none)
    else if !x.running || !allHere s x then none
    else if ((runningPeers s x).any fun y => y.out.isNone && !destOk s y)
        || (hasRemote s x && !Config.remoteOk 1 x.grp x.seq x.view) then
      some (finishColl (failAll s x) { x with failed := true } 6 g.viewN)
    else
      let t := mapColls s (fun y => y.running && y.grp == x.grp && y.seq == x.seq) (stageOut s)
      let y ← findColl t num
      y.out.bind (placeOut t y)

/-! ## Proposing and applying views (R317 to R319) -/

/-- Sends a proposal, or stalls for want of a majority (R318). Log 53 (DEDUCED). -/
def sendProposal (s : State) (grp num : Nat) (full joining : List Nat) (forced : Bool) : State :=
  let g := s.group grp
  if g.quorum && !forced && decide (2 * (full.filter fun m => g.full.contains m).length ≤ g.full.length) && g.viewN != 0 then
    s.setGroup grp { g with state := 3, prop := none, pendN := 0 }
  else
    let p : Proposal := { num := num, leader := (lowestLive g).getD 0, full := full, joining := joining, nextSeq := g.nextSeq }
    let s := s.setGroup grp { g with state := 1, prop := some p, acks := [], pendN := num, deadline := s.time + 50000 }
    sendView s (modulesOf (full ++ joining)) grp (.propose p)

/-- The lists of the next proposal: suspects leave, acknowledged joiners become full, requests join (R317, R323). -/
def nextLists (g : Group) : List Nat × List Nat :=
  let ok := fun m => !g.suspects.contains m
  let up := g.joining.filter fun m => g.joinAck.contains m && ok m
  let full := sortMembers (g.full.filter ok ++ up)
  let joining := sortMembers ((g.joining ++ g.joinReq).filter fun m => ok m && !full.contains m)
  (full, joining)

/-- Is there cause to propose in the stable state (Table 12.3): a full member is suspect, a die has asked to join, or a
joining one has acknowledged; and view 1 (R312)? -/
def causeToPropose (g : Group) : Bool :=
  let live := fun (m : Nat) => !g.suspects.contains m
  g.viewN == 0 || g.full.any (fun m => !live m) || g.joinReq.any (fun m => live m && !(g.full ++ g.joining).contains m)
  || g.joinAck.any fun m => live m && g.joining.contains m

/-- A stable proposer proposes when it has cause (Table 12.3). -/
def tryPropose (s : State) (grp : Nat) : State :=
  let g := s.group grp
  if g.valid && g.state == 0 && isProposer s g && causeToPropose g then
    sendProposal s grp (g.viewN + 1) (nextLists g).1 (nextLists g).2 false
  else s

/-- VIEWCHG for a strand with an operation of the group in STATE 1 or 2; of several before a boundary the latest stands
(R322). -/
def viewTrap (s : State) (ctx : Nat) (c : Sid) (grp num sub : Nat) : State :=
  let val := BitVec.ofNat 64 (grp * 2 ^ 48 + num)
  (bothOf s ctx c).foldl (fun s c => modStrand s ctx c fun st =>
    let rest := st.pend.filter fun p => !(p.trap.code == 0x11 && bits p.trap.val 63 48 == grp)
    { st with pend := rest ++ [⟨mkTrap 0x11 sub val, none⟩] }) s

/-- The live quantum group that an operation of the group belongs to; 0: none. -/
def Coll.live (s : State) (x : Coll) : Nat := if (s.launch x.qgrp).isSome then x.qgrp else 0

/-- The operations of a collective group on a die, of a quantum group. -/
def collsOf (s : State) (d grp q : Nat) : List Coll :=
  s.eng.colls.filter fun x => x.grp == grp && collDie x == d && x.live s == q

/-- Step 2 of R319 for an operation whose destination is not being written: ABORT ends it where it runs; on a die that is no
longer full it fails; else one that runs gives up its staging and is to run again (R320, R321). Log 75 (DEDUCED). -/
def followPolicy (s : State) (full : Bool) (x : Coll) : State :=
  if x.out.isSome then s
  else if x.running && collPolicy x == 3 then finishColl s x 5 (s.group x.grp).viewN
  else mapColls s (fun y => y.num == x.num) fun y =>
    if !full then { y with failed := true }
    else if y.running then { y with running := false, changed := true }
    else y

/-- An operation that is to run again does, or waits in STATE 1 for its staging (R314). -/
def runAgain (s : State) (x : Coll) : State :=
  match findColl s x.num with
  | some y => if y.changed && !y.running && !y.failed then tryRun (showColl s y 1) y else s
  | none => s

/-- Steps 2 to 4 of R319 for the operations and strands of one quantum group (0: those of none) on a die: policies,
rematching, VIEWCHG. Log 75 (DEDUCED). -/
def applyOnDie (s : State) (d grp q sub : Nat) : State :=
  let g := s.group grp
  let mine := collsOf s d grp q
  let s := { s with eng := { s.eng with
    partials := s.eng.partials.filter fun p => !(p.1 == d && p.2.grp == grp && decide (p.2.view < g.viewN)
      && mine.any fun x => x.seq == p.2.seq && x.out.isNone) } }
  let s := mine.foldl (fun s x => followPolicy s (g.full.contains (memberOf s d)) x) s
  let s := mine.foldl runAgain s
  let users := ((collsOf s d grp q).map fun x => (x.ctx, x.src)).dedup
  users.foldl (fun s u => viewTrap s u.1 u.2 grp g.viewN sub) s

/-- The live quantum groups with a strand or an operation of the group on a die (R319). -/
def qgroupsOn (s : State) (d grp : Nat) : List Nat :=
  let ofStrands := ((allStrands s).filter fun c => dieOf c.core == d && (s.strand c).run != .none
    && detOf s (s.strand c).lid != 0).map fun c => groupOf s (s.strand c).lid
  let ofOps := (s.eng.colls.filter fun x => x.grp == grp && collDie x == d).map fun x => x.live s
  ((ofStrands ++ ofOps).filter fun q => q != 0).dedup

/-- A view is applied on the module (R319): the entry, joining dies' issue counts (R323), the strands and operations of
no quantum group; the quantum groups see it at their next end. Partials of earlier views that wait for a port go (R327).
Log 74 (DEDUCED). -/
def applyView (s : State) (grp : Nat) (p : Proposal) : State :=
  let g := s.group grp
  let lag := (upto 0 8).flatMap fun d => (qgroupsOn s d grp).map fun q => (d, q, seenView s d q grp)
  let g' := { g with viewN := p.num, leader := p.leader, full := p.full, joining := p.joining,
                     nextSeq := p.nextSeq, pendN := 0, state := 0, prop := none, acks := [],
                     joinReq := g.joinReq.filter fun m => !(p.joining ++ p.full).contains m,
                     joinAck := g.joinAck.filter fun m => p.joining.contains m,
                     suspects := g.suspects.filter fun m => (p.full ++ p.joining).contains m,
                     since := p.full.foldl (fun l m => if g.viewN = 0 ∨ g.full.contains m then
                       (match ffind g.since m with | some k => fset l m k | none => l) else fset l m p.nextSeq) [] }
  let s := s.setGroup grp g'
  let s := { s with net := { s.net with held := s.net.held.filter fun m =>
    match m.2 with | .part _ q => !(q.grp == grp && decide (q.view < p.num)) | _ => true } }
  let sub := if g.full.any fun m => !p.full.contains m then 0 else 1
  let s := lag.foldl (fun s e =>
    let di := s.die e.1
    s.setDie e.1 { di with view := fset di.view (e.2.1 * 4096 + grp) (e.2.2, sub == 0) }) s
  let fresh := (p.joining ++ p.full).filter fun m => isLocal s m && (g.joining.contains m || p.joining.contains m)
  let s := fresh.foldl (fun s m =>
    let di := s.die (m % 8)
    s.setDie (m % 8) { di with issue := fset di.issue grp p.nextSeq }) s
  let s := (upto 0 8).foldl (fun s d => if (s.die d).lost then s else applyOnDie s d grp 0 sub) s
  tryPropose s grp

/-- Members turn suspect in every entry that lists them (R317, R366); `tell`: this hub sends SUSPECT for its own die.
Log 51 (DEDUCED). -/
def markSuspect (s : State) (m : Nat) (tell : Bool) : State :=
  s.net.groups.foldl (fun s e =>
    let g := s.group e.1
    if !g.valid || !(g.full ++ g.joining).contains m || g.suspects.contains m then s
    else
      let s := s.setGroup e.1 { g with suspects := m :: g.suspects }
      let s := if tell then sendView s (modulesOf (g.full ++ g.joining)) e.1 (.suspect m) else s
      tryPropose s e.1) s

/-- Every member of a module turns suspect (R317). -/
def suspectModule (s : State) (mod : Nat) : State := (upto (mod * 8) 8).foldl (fun s m => markSuspect s m false) s

/-- A JOINACK reaches the hub: the joining member is to be listed as full (R323). -/
def takeJoinAck (s : State) (grp m : Nat) : State :=
  let g := s.group grp
  if g.valid && g.joining.contains m then
    tryPropose (s.setGroup grp { g with joinAck := if g.joinAck.contains m then g.joinAck else m :: g.joinAck }) grp
  else s

/-- A committed write of ce.join by a strand of die `d` (R323); ignored where the die is not joining. -/
def commitJoin (s : State) (d grp : Nat) : State :=
  let g := s.group grp
  let m := memberOf s d
  if g.valid && g.joining.contains m then
    takeJoinAck (sendView s (modulesOf ((lowestLive g).toList)) grp (.joinAck m)) grp m
  else s

/-- A quantum group sees, at its end, the views applied since its last (R319, steps 2 to 5). -/
def applyLagging (s : State) (q : Nat) : State :=
  (upto 0 8).foldl (fun s d =>
    ((s.die d).view.filter fun e => e.1 / 4096 == q).foldl (fun s e =>
      let di := s.die d
      let s := s.setDie d { di with view := fdel di.view e.1 }
      applyOnDie s d (e.1 % 4096) q (if e.2.2 then 0 else 1)) s) s

end Sys2Proof.Machine
end

