-- ==== Sys2Proof/Machine/Copies.lean ====
section
/-! DEFINITION. Copy engines (R208 to R210, R236): slots and starts, reading sources, placing destination blocks, the
error word. -/

namespace Sys2Proof.Machine

/-! ## Reading (R209, R210, R236) -/

/-- What the engine has gathered: bytes by destination address with their poison, and the error bits. -/
structure Gathered where
  bytes : FMap (Byte × Bool)
  err : Nat
deriving DecidableEq, Repr

/-- The committed pool of a core: what its chunks have written is taken back (R12). -/
def committedPool (s : State) (l : Nat) : FMap Byte × FMap Bool :=
  (s.core l).strands.foldl (fun p e => undoPool p (e.2.chunks.reverse.flatMap fun ch => ch.undo)) ((s.core l).pool, (s.core l).poolBad)

/-- Bytes of one source line with their poison, or the error bit: 2 source fault, 8 lost or unreachable. Under a key slot an
uncorrectable half-line poisons the whole read, and a line whose tag fails is a fault; a peer-tier line may come too late
(R252, R263). Log 17 (DESIGN CHOICE), 73 (DEDUCED). -/
def sourceLine (s : State) (x : Copy) (va : Word) (n : Nat) : Except Nat (List (Byte × Bool) × Nat) :=
  match placeOf va with
  | .remote l off =>
    if bits va 63 60 ≠ 0 then .error 2
    else if (s.die (dieOf l)).lost then .error 8
    else if fateOf s x.ctx l false ≠ .apply ∨ (s.core l).spBytes < off + n then .error 2
    else
      let p := committedPool s l
      .ok ((upto off n).map (fun k => (fget p.1 0 k, fget p.2 false (k / 4))), 0)
  | _ =>
    match unitSpot s (dieOf x.src.core) x.ctx va .read false with
    | .error e => .error (if e.1 = 0x14 then 8 else 2)
    | .ok p =>
      let slot := bits p.leaf 15 8
      if leafTier p.leaf == 2 then
        (if unreachable s p.key || Config.copyLate s.draws (p.key / 64) then .ok (List.replicate n (0, true), 8)
         else .ok ((upto p.key n).map (fun k => (Config.peerByte s.draws k, false)), 0))
      else match badLine s slot (upto p.key n) with
        | some .tag => .error 2
        | b => .ok ((upto p.key n).map (fun k => (committedByte s slot k, b.isSome && (slot != 0 || poisonedAt s k))), 0)

/-- What the reads of a block's parts leave beside their data: key slots flagged (R340), peer reads sent (R251). -/
def noteReads (s : State) (x : Copy) (parts : List (Nat × Word × Nat)) : State :=
  (parts.flatMap fun p => pieces p.2.1 p.2.2).foldl (fun s p =>
    let s := flagRead s (dieOf x.src.core) x.ctx p.1 p.2
    match unitSpot s (dieOf x.src.core) x.ctx p.1 .read false with
    | .ok q => if leafTier q.leaf == 2 then askPeer s q.key else s
    | .error _ => s) s

/-- The module as a copy's early reads see it. Log 17 (DESIGN CHOICE). -/
def atSnap (s : State) (x : Copy) : State :=
  match x.snap with
  | some p => { s with mem := p.mem, poison := p.poison, tags := p.tags, cores := p.cores }
  | none => s

/-- Gathers a block, line by line: at D1 and D2 as memory stood after the end at which the transfer started; at D0 each
line then or now (R236, R237). Log 17 (DESIGN CHOICE). -/
def gather (s : State) (x : Copy) (b : Nat) : Gathered :=
  (blockParts x b).foldl (fun g part =>
    ((pieces part.2.1 part.2.2).foldl (fun (a : Gathered × Nat) p =>
      let early := x.grp != 0 || Config.readsEarly s.draws (p.1.toNat / 64)
      match sourceLine (if early then atSnap s x else s) x p.1 p.2 with
      | .error e => ({ a.1 with err := a.1.err ||| e }, a.2 + p.2)
      | .ok (l, e) =>
        ({ bytes := (l.zip (upto a.2 p.2)).foldl (fun m q => fset m q.2 q.1) a.1.bytes,
           err := a.1.err ||| e ||| (if l.any (fun q => q.2) && e == 0 then 1 else 0) }, a.2 + p.2)) (g, part.1)).1)
    { bytes := [], err := 0 }

/-! ## Writing -/

/-- Where a block goes. -/
inductive Target where
  /-- memory through a leaf: the distance from addresses to keys. -/
  | page (leaf : Word) (key va : Nat)
  /-- the scratchpad of a core. -/
  | pool (l off : Nat)
  /-- another module; with an error bit where the page is not to be written. -/
  | peer (mod key va bit : Nat)
  /-- an error bit; and whether it is a refusal to count. -/
  | fault (bit : Nat) (dropped : Bool)
  /-- the block waits. -/
  | hold
deriving DecidableEq, Repr

/-- The target of the block that holds address `va` (R209, R210, R260, R265). A block that may not write its page of another
module counts there too, as xe.ctr names a counter of that module. Log 73 (DEDUCED). -/
def blockTarget (s : State) (x : Copy) (va : Nat) (last : Nat) : Target :=
  let w := BitVec.ofNat 64 va
  match placeOf w with
  | .remote l off =>
    if bits w 63 60 ≠ 0 then .fault 4 false
    else if (s.die (dieOf l)).lost then .fault 8 false
    else match fateOf s x.ctx l false with
      | .refuse => .fault 4 true
      | .spill => .hold
      | .apply => if (s.core l).spBytes < off + (last - va) then .fault 4 false else .pool l off
  | _ =>
    match unitSpot s (dieOf x.src.core) x.ctx w .write true with
    | .error e =>
      match pageOwner s (dieOf x.src.core) x.ctx w with
      | some mod => .peer mod 0 va 4
      | none => .fault (if e.1 = 0x14 then 8 else 4) false
    | .ok p =>
      if bitOf p.leaf 6 then .hold
      else if leafTier p.leaf == 2 then .peer ((p.key - peerBase) / 2 ^ 45) (p.key - peerBase) va 0
      else .page p.leaf p.sig va

/-- Half-lines or pool words that receive poison. Log 72 (DEDUCED). -/
def poisonedUnits (m : FMap (Byte × Bool)) (size : Nat) : List Nat :=
  ((m.filter fun e => e.2.2).map fun e => e.1 / size).dedup

/-- An engine block as the order log names it (R361): at an arbiter, or at the port of core `port`. Its record. -/
def blockEvent (x : Copy) (port : Option Nat) : Logged :=
  { kind := 5, who := ⟨port.getD x.src.core, x.src.strand⟩, what := x.ident.toNat, other := x.src.core }

def traceBlock (s : State) (x : Copy) (a : Arbiter) (port : Option Nat) : State :=
  traceEvent s 5 a 0 (blockEvent x port).who (bits x.ident 29 0) x.ident.toNat x.src.core (strandOf s x.ctx x.src).lid

/-- Writes a gathered block to memory as one event (R209, R232), at the arbiter of the page's scope (R226); poisoned bytes
leave markers (R210). None: it waits for a solo chunk, or in replay mode for its turn. Log 72 (DEDUCED). -/
def writePage (s : State) (x : Copy) (leaf : Word) (key va : Nat) (m : FMap (Byte × Bool)) : Option State :=
  let at' := m.map fun e => (e.1 - va + key, e.2)
  let lid := (strandOf s x.ctx x.src).lid
  let arb := writeArbiter x.src.core leaf
  if !replayTurn s lid arb (blockEvent x none) then none
  else (placeWrite s leaf (at'.map fun e => (e.1, e.2.1)) x.src lid (bits x.ident 29 0)).map fun s =>
    let s := { s with poison := (copyOffsets (bitOf leaf 55)).foldl (fun p off =>
      (poisonedUnits at' 32).foldl (fun p h => fset p (h + off / 32) true) p) s.poison }
    let s := traceBlock s x arb none
    engineWatch s none (at'.map Prod.fst) 1 x.ident

/-- Writes a gathered block to a scratchpad at its owner's port (R201, R209); none while a solo chunk marks it, or in replay
mode before its turn.
Log 72 (DEDUCED). -/
def writePool (s : State) (x : Copy) (l off va : Nat) (m : FMap (Byte × Bool)) : Option State :=
  let at' := m.map fun e => (e.1 - va + off, e.2)
  let gs := (at'.map fun e => e.1 / 16).dedup
  let marks := fun (ch : Chunk) => gs.any fun g => fget ch.poolW false g || fget ch.poolR false g
  if (allStrands s).any fun c => c.core == l && (s.strand c).chunks.any fun ch => ch.solo && marks ch then none
  else if !replayTurn s (strandOf s x.ctx x.src).lid (.core l) (blockEvent x (some l)) then none
  else
    let s := squashHits s (fun c => c.core == l) marks 2 true x.src.core
    let s := (runsOf (at'.map fun e => (e.1, e.2.1))).foldl (fun s r => pokePool s l r.1 r.2) s
    let s := engineWatch s (some l) (at'.map Prod.fst) 1 x.ident
    let s := s.setCore l { s.core l with
      poolBad := (poisonedUnits at' 4).foldl (fun p w => fset p w true) (s.core l).poolBad }
    some (traceBlock s x (.core l) (some l))

/-- Sends a block to another module, one message with its poison markers (R209, R210, R327): the message's number. -/
def sendBlock (s : State) (x : Copy) (mod key va : Nat) (m : FMap (Byte × Bool)) : Option (State × Nat) := do
  let n ← routeTo s mod
  let first ← m.head?
  let last ← m.getLast?
  let q := takeSrcSeq s
  let bytes := (upto first.1 (last.1 + 1 - first.1)).map fun k => ffind m k
  (sendOn q.2 n mod (.block (modNum s) q.1 x.ident.toNat ((first.1 - va + key) % 2 ^ 45) bytes) (some (x.src, x.epoch))
    (some (x.ctx, x.reg 0x109))).map fun s => (s, q.1)

/-- The OR into the error word, as a posted `por.i64` on the engine's behalf (R210), with the module and the number of the
message where the word is on another module; where it fails nothing is written; none: it waits for a solo chunk or a
write-blocked page. Log 121 (DESIGN CHOICE). -/
def errorOr (s : State) (x : Copy) (bitsOf : Nat) : Option (State × List (Nat × Nat)) :=
  let va := x.reg 0x109
  if bitsOf = 0 ∨ va = 0 ∨ va.toNat % 8 ≠ 0 then some (s, [])
  else
    match unitSpot s (dieOf x.src.core) x.ctx va .write true with
    | .error _ => some (s, [])
    | .ok p =>
      let slot := bits p.leaf 15 8
      let mod := (p.key - peerBase) / 2 ^ 45
      if leafTier p.leaf == 2 then
        (match routeTo s mod with
         | some n =>
           let q := takeSrcSeq s
           (sendOn q.2 n mod (.posted (modNum s) q.1 x.src ((p.key - peerBase) % 2 ^ 45) 3 .i64 (BitVec.ofNat 64 bitsOf))
             (some (x.src, x.epoch))).map fun s => (s, [(mod, q.1)])
         | none => some (s, []))
      else if bitOf p.leaf 6 then none
      else match badLine s slot (upto p.key 8) with
        | some b => some (if b = .tag then flagSlot s slot else s, [])
        | none =>
          let old := leNat ((upto p.key 8).map fun k => committedByte s slot k)
          let st := strandOf s x.ctx x.src
          let home := homeOf x.src.core p.sig p.leaf
          (placeWrite s p.leaf (atKeys p.sig (leBytes 8 (old ||| bitsOf))) x.src st.lid st.chunkSeq).map fun s =>
            let s := traceEvent s 2 home 0 x.src st.chunkSeq (p.sig % hostBase / 64 * 64) x.src.core st.lid
            (engineWatch s none (upto p.sig 8) 2 (watchSource x.src false), [])

/-- Sends the completion adds of a transfer, one to each module that it counts blocks on, after every block and report for
that module (R209, R240); where no port leads there the add is abandoned too (R210). -/
def sendAdds (s : State) (x : Copy) : Option State :=
  x.owed.foldlM (fun s e =>
    if e.2 = 0 then some s
    else match routeTo s e.1 with
      | none => (errorOr s x 8).map Prod.fst
      | some n =>
        let q := takeSrcSeq s
        let after := (x.sent.filter fun p => p.1 == e.1).map Prod.snd
        sendOn q.2 n e.1 (.ctrAdd (modNum s) q.1 x.ctx (x.reg 0x108).toNat e.2 after) (some (x.src, x.epoch))
          (some (x.ctx, x.reg 0x109))) s

/-- A block is done with: the transfer with it noted, or, once every block is, its adds to other modules sent and its slot
free. -/
def noteBlock (s : State) (x : Copy) (b : Nat) : Option State :=
  let y := { x with done := b :: x.done }
  if (copyBlocks x).all fun k => y.done.contains k then
    (sendAdds s y).map fun s => { s with eng := { s.eng with copies := s.eng.copies.filter fun z => z.num != x.num } }
  else some { s with eng := { s.eng with copies := s.eng.copies.map fun z => if z.num = x.num then y else z } }

/-- The add to xe.ctr for a block counted on this module; a refused one also sets bit 2 (R210, R265). -/
def blockAdd (s : State) (x : Copy) : Option State :=
  let h := x.reg 0x108
  if h = 0 then some s
  else
    let refused := addRefused s x.ctx h
    let s := unitAdd s x.src x.ctx h 1
    if refused then (errorOr s x 4).map Prod.fst else some s

/-- A block for another module is sent or not, its errors are reported, and it is counted for that module (R209, R210). -/
def placePeer (s : State) (x : Copy) (b mod key va : Nat) (g : Gathered) (write : Bool) : Option State := do
  if !fenceClear s x.src x.epoch then none
  else if (routeTo s mod).isNone then
    let r ← errorOr s x (g.err ||| 8)
    noteBlock r.1 { x with sent := x.sent ++ r.2 } b
  else
    let q ← if write && !g.bytes.isEmpty then (sendBlock s x mod key va g.bytes).map fun q => (q.1, [(mod, q.2)]) else some (s, [])
    let r ← errorOr q.1 x g.err
    let owed := if x.reg 0x108 = 0 then x.owed else fset x.owed mod (fget x.owed 0 mod + 1)
    noteBlock r.1 { x with sent := x.sent ++ q.2 ++ r.2, owed := owed } b

/-- Places one destination block (R209, R210): the write, the error bits, the counter add. Log 121 (DESIGN CHOICE). -/
def placeBlock (s : State) (x : Copy) (b : Nat) : Option State := do
  let parts := blockParts x b
  let first ← parts.head?
  let last := parts.foldl (fun m p => Nat.max m (p.1 + p.2.2)) 0
  let low := parts.foldl (fun m p => Nat.min m p.1) first.1
  let g := gather s x b
  let s := noteReads s x parts
  let bad := g.err &&& 2 != 0 || (g.err &&& 8 != 0 && g.bytes.isEmpty)
  let count := fun (s : State) (err : Nat) => do
    let r ← errorOr s x err
    let s ← blockAdd r.1 x
    noteBlock s { x with sent := x.sent ++ r.2 } b
  match blockTarget s x low last with
  | .hold => none
  | .peer mod key va bit => placePeer s x b mod key va { g with err := g.err ||| bit } (!bad && bit == 0)
  | .fault bit dropped => count (if dropped then countDropped s x.ctx else s) (g.err ||| bit)
  | .page leaf key va => do
    let s ← if bad then some s else writePage s x leaf key va g.bytes
    count s g.err
  | .pool l off => do
    let s ← if bad then some s else writePool s x l off low g.bytes
    count s g.err

/-! ## Forking and starting (R208, R209) -/

/-- The transfer numbered `num`. -/
def findCopy (s : State) (num : Nat) : Option Copy := s.eng.copies.find? fun x => x.num == num

/-- A chunk with an xe.go commits: the transfer is forked (R208, R236). -/
def forkCopy (s : State) (c : Sid) (ctx grp epoch : Nat) (ident : Word) (set : FMap Word) : State :=
  let x : Copy := { num := s.eng.nextOp, ident := ident, src := c, ctx := ctx, set := set, st := .queued, done := [],
                    epoch := epoch, grp := grp, snap := none, sent := [], owed := [] }
  { s with eng := { s.eng with copies := s.eng.copies ++ [x], nextOp := s.eng.nextOp + 1 } }

/-- Has the wait counter reached xe.wval (R209)? A counter that the context neither claims nor holds never does. -/
def copyQualifies (s : State) (x : Copy) : Bool :=
  x.reg 0x106 == 0 || match handleOf (x.reg 0x106) with
    | some (l, i) => fateOf s x.ctx l true == .apply && !fget (s.core l).ctrBad false i
        && !(s.die (dieOf l)).lost && decide ((x.reg 0x107).toNat ≤ (fget (s.core l).ctr 0 i).toNat)
    | none => false

/-- The slots in use of a cluster, 32 in all (R208). -/
def copySlots (s : State) (n : Nat) : Nat :=
  (s.eng.copies.filter fun y => clusterOf y.src.core == n && y.st != .queued).length

/-- Takes a slot, in order, with the identifier as the go's result; and starts once its wait counter qualifies. -/
def startCopy (s : State) (num : Nat) : Option State := do
  let x ← findCopy s num
  let n := clusterOf x.src.core
  let put := fun (s : State) (x : Copy) => { s with eng := { s.eng with copies := s.eng.copies.map fun y =>
    if y.num = num then x else y } }
  let ahead := s.eng.copies.any fun y => clusterOf y.src.core == n && y.st == .queued && decide (y.num < num)
  let s ← match x.st with
    | .running => none
    | .slotted => some s
    | .queued =>
      if ahead || decide (32 ≤ copySlots s n) || gateShut s x.src num then none
      else some (giveResult (put s { x with st := .slotted }) x.ctx x.src (some x.ident))
  if !copyQualifies s x then (if x.st = .queued then some s else none)
  else if (copyBlocks x).isEmpty then
    some { s with eng := { s.eng with copies := s.eng.copies.filter fun y => y.num != num } }
  else some (put s { x with st := .running, snap := some ⟨s.mem, s.poison, s.tags, s.cores⟩ })

/-- One block of a running transfer that is not placed yet (R209). -/
def copyBlock (s : State) (num b : Nat) : Option State := do
  let x ← findCopy s num
  if x.st = .running ∧ !x.done.contains b ∧ (copyBlocks x).contains b then placeBlock s x b else none

end Sys2Proof.Machine
end

