-- ==== Sys2Proof/Machine/Sched.lean ====
section
/-! DEFINITION. The launch unit's and schedulers' shared operations: the hierarchy (R275, R281), claims (R265), starting
and completing instances (R39, R276), readiness (R277), placement (R279 to R281), retirement (R278). -/

namespace Sys2Proof.Machine

/-! ## The hierarchy (R271, R275, R281) -/

/-- Cores of one unit of a DOMAIN code (Table 10.4). -/
def unitCores (d : Nat) : Nat :=
  match d with | 0 => 1 | 1 => 1 | 2 => 2 | 3 => 4 | 4 => 8 | 5 => 16 | 6 => 16 | 7 => 3200 | _ => 25600

/-- A level of a launch. -/
def Launch.lev (x : Launch) (m : Nat) : Level := nth x.levels ⟨false, 0, 0, 1⟩ m

/-- The product of the fanouts of levels `lo` to `lo + k - 1`. -/
def fanProd (x : Launch) (lo k : Nat) : Nat := (upto lo k).foldl (fun p m => p * (x.lev m).fanout) 1

/-- IDX of instance `i` of a node of level `n` (R275). -/
def idxOf (x : Launch) (n i : Nat) : List Nat :=
  (upto 0 8).map fun m =>
    if n < m then 0
    else if m = 0 then i / fanProd x 1 n else i / fanProd x (m + 1) (n - m) % (x.lev m).fanout

/-- Instances of one wave of a node of level `n` (R275). -/
def waveSize (x : Launch) (n : Nat) : Nat := fanProd x 0 (n + 1)

/-- The core offset and the strand that fixed placement gives an instance (R281). -/
def fixedSite (x : Launch) (n i : Nat) : Nat × Nat :=
  (upto 0 (n + 1)).foldl (fun (a : Nat × Nat) m =>
    let v := nth (idxOf x n i) 0 m
    let v := if m = 0 then v % (x.lev 0).fanout else v
    let d := (x.lev m).domain
    if d = 0 then (a.1, v) else (a.1 + v * unitCores d, a.2)) (0, 0)

/-- The lowest-numbered instance with the same IDX.0 to IDX.(m − 1) (R275): the head of the sibling group of level `m`. -/
def groupHead (x : Launch) (n m i : Nat) : Nat :=
  if m = 0 then 0 else i / fanProd x m (n + 1 - m) * fanProd x m (n + 1 - m)

/-- Cores of one unit of a SCOPE code. -/
def scopeCores (sc : Nat) : Nat := match sc with | 0 => 16 | 1 => 3200 | _ => 25600

/-- Mesh hops between the clusters of two cores; different dies count as far (R281). -/
def hops (s : State) (a b : Nat) : Nat :=
  if dieOf a = dieOf b then
    let p := coreSite s a
    let q := coreSite s b
    (p.1 - q.1) + (q.1 - p.1) + ((p.2.1 - q.2.1) + (q.2.1 - p.2.1))
  else 99

/-! ## Launches and claims (R265, R355) -/

/-- The state with a live launch changed. -/
def updLaunch (s : State) (lid : Nat) (f : Launch → Launch) : State :=
  match s.launch lid with | some x => s.setLaunch lid (f x) | none => s

/-- The state with node `k` of a launch changed. -/
def updNode (s : State) (lid k : Nat) (f : Node → Node) : State :=
  updLaunch s lid fun x => { x with nodes := x.nodes.zipIdx.map fun p => if p.2 = k then f p.1 else p.1 }

/-- WPCTL with EN set to 0. -/
def disarm (w : Watch) : Watch := { w with ctl := w.ctl &&& 0xFFFFFFFF7FFFFFFF, place := none, pending := false }

/-- Arms a watchpoint of core `l` through a context, or sets its EN to 0 (R355).
Log 60 (DEDUCED). -/
def armWatch (s : State) (l ctx : Nat) (w : Watch) : Watch :=
  let size := bits w.ctl 19 16
  if 12 < size ∨ bits w.ctl 27 26 = 3 ∨ w.base.toNat % 2 ^ size ≠ 0 ∨ bits w.base 63 60 ≠ 0 then disarm w
  else
    match placeOf w.base with
    | .scratch off => { w with place := some (true, off), pending := false }
    | .paged =>
      match walk s (dieOf l) ctx w.base with
      | .ok (x, _) => { w with place := some (false, (spotOf x w.base (dieOf l)).sig), pending := false }
      | .error _ => disarm w
    | _ => disarm w

/-- A new occupancy takes the core: its pending watchpoints are translated (R355).
Log 43 (DEDUCED). -/
def takeWatches (s : State) (l ctx : Nat) : State :=
  let co := s.core l
  s.setCore l { co with watches := co.watches.map fun p => (p.1, if p.2.pending then armWatch s l ctx p.2 else p.2) }

/-- The occupancy leaves: the watchpoints it translated are disarmed. -/
def dropWatches (s : State) (l : Nat) : State :=
  let co := s.core l
  s.setCore l { co with watches := co.watches.map fun p => (p.1, if p.2.place.isSome then disarm p.2 else p.2) }

/-- A claim ends (R265). -/
def endClaim (s : State) (l : Nat) : State :=
  match (s.core l).claim with
  | none => s
  | some lid =>
    let s := updLaunch s lid fun x => { x with cores := x.cores.filter fun k => k != l }
    let s := dropWatches s l
    s.setCore l { s.core l with claim := none, bunch := none }

/-- Does a strand of the core exist? -/
def coreBusy (s : State) (l : Nat) : Bool := (s.core l).strands.any fun p => p.2.run != .none

/-- The domains of the running instances of a launch whose units take in core `l`: a unit stays with its instance until the
instance completes, whichever of its strands have ended (R276, R309). -/
def Launch.domainsOn (x : Launch) (l : Nat) : List Nat :=
  x.running.filterMap fun r => (x.nodes[r.1]?).bind fun n =>
    let d := (x.lev n.level).domain
    let inUnit := (ffind n.sites r.2.1).any fun b => decide (b ≤ l) && decide (l < b + unitCores d)
    if inUnit || r.2.2.any (fun c => c.core == l) then some d else none

/-- A launch takes a core (R38): its partition; pool and counter file zero.
Log 31 (DESIGN CHOICE), 32 (DESIGN CHOICE). -/
def claimCore (s : State) (l : Nat) (lid : Nat) : State :=
  match s.launch lid with
  | none => s
  | some x =>
    let s := endClaim s l
    let s := s.setCore l { s.core l with
      nstr := x.nstr, nacc := x.nacc, strands := [], pool := [], poolBad := [], inUse := 0, ctr := [], ctrBad := [],
      arms := [], claim := some lid }
    let s := updLaunch s lid fun x => { x with cores := if x.cores.contains l then x.cores else x.cores ++ [l] }
    takeWatches s l x.ctx

/-- A launch takes a core for an instance; one that it has taken already stays as it is (R265).
Log 31 (DESIGN CHOICE), 32 (DESIGN CHOICE). -/
def takeCore (s : State) (l : Nat) (lid : Nat) : State := if (s.core l).claim = some lid then s else claimCore s l lid

/-! ## Clock mode (R346) -/

/-- Does the cluster hold an occupancy of a steady launch? -/
def steadyHere (s : State) (n : Nat) : Bool :=
  (upto (n * 16) 16).any fun l => (s.core l).strands.any fun p =>
    p.2.run != .none && (match s.launch p.2.lid with | some x => x.steady | none => false)

/-- Notes when the last steady occupancy leaves a steady cluster. -/
def noteSteady (s : State) (n : Nat) : State :=
  let cl := s.cluster n
  if steadyHere s n then (if cl.idleSince.isSome then s.setCluster n { cl with idleSince := none } else s)
  else if cl.steady && cl.idleSince.isNone then s.setCluster n { cl with idleSince := some s.time } else s

/-! ## Starting an instance (R39, R276, Table 10.8) -/

/-- The registers of a strand at its first instruction (R39). -/
def startArch (x : Launch) (entry : Word) : Arch :=
  let a := { Arch.reset with pc := entry }.wg 1 x.arg
  let a := ((a.wcr 0x010 x.fcsr).wcr 0x011 x.seed).wcr 0x021 (BitVec.ofNat 64 (x.lenm * 256))
  let a := (a.setCr 0x004 x.tvec).wcr 0x060 (BitVec.ofNat 64 x.viewg)
  (upto 0 7).foldl (fun a k =>
    let w := fun j => nth x.fmt (0 : Word) (3 * k + j)
    ((a.setCr (0x101 + k) (w 0)).setCr (0x109 + k) (w 1)).setCr (0x111 + k) (w 2)) a

/-- A strand of an instance (R30, R39). -/
def startStrand (s : State) (lid k i : Nat) (c : Sid) (twin : Option (Sid × Bool)) : State :=
  match s.launch lid with
  | none => s
  | some x =>
    match x.nodes[k]? with
    | none => s
    | some n =>
      s.setStrand c { Strand.reset with
        arch := startArch x n.entry, run := .ready, lid := lid, node := k, inst := i, twin := twin,
        debugReq := if (s.core c.core).dbgHalt then some 0 else none,
        idx := (idxOf x n.level i).zipIdx.map fun p => (p.2, BitVec.ofNat 64 p.1) }

/-- The strands of an instance on the unit that begins at core `l` (Table 10.8). -/
def unitStrands (d nstr l strand : Nat) : List Sid :=
  if d = 0 then [⟨l, strand⟩]
  else if 2 ≤ d ∧ d ≤ 5 then [⟨l, 0⟩]
  else (upto l (unitCores d)).flatMap fun k => (upto 0 nstr).map fun j => ⟨k, j⟩

/-- Starts instance `i` of node `k` at a unit, its twin copy at another (R276, R291). -/
def startInstance (s : State) (lid k i l strand : Nat) (twinAt : Option Nat) : State :=
  match s.launch lid with
  | none => s
  | some x =>
    match x.nodes[k]? with
    | none => s
    | some n =>
      let d := (x.lev n.level).domain
      let u := unitCores d
      let mine := unitStrands d x.nstr l strand
      let other := match twinAt with | some t => unitStrands d x.nstr t strand | none => []
      let s := (upto l u ++ (match twinAt with | some t => upto t u | none => [])).foldl (fun s c => takeCore s c lid) s
      let s := mine.foldl (fun s c =>
        startStrand s lid k i c (twinAt.map fun t => (⟨t + (c.core - l), c.strand⟩, true))) s
      let s := match twinAt with
        | some t => other.foldl (fun s c => startStrand s lid k i c (some (⟨l + (c.core - t), c.strand⟩, false))) s
        | none => s
      let s := if 2 ≤ d ∧ d ≤ 5 then
          fillBanks ((upto l u).foldl (fun s c => s.setCore c { s.core c with bunch := some ⟨l % 16, u, ⟨l, 0⟩⟩ }) s) ⟨l, 0⟩
        else s
      let s := updLaunch s lid fun x => { x with running := x.running ++ [(k, i, mine ++ other)] }
      let s := updNode s lid k fun n => { n with sites := fset n.sites i l }
      let s := ((mine ++ other).map fun c => clusterOf c.core).dedup.foldl noteSteady s
      traceEvent s 7 (.die (dieOf l)) 0 ⟨l, strand⟩ 0 i 0 lid

/-! ## Completion (R276) -/

/-- The handle of counter `i` of core `l` (R36). -/
def handleAt (l i : Nat) : Word := BitVec.ofNat 64 (0x0C00000000000000 + l * 0x200 + i * 8)

/-- A strand ends (its `idle` has committed): when it is the instance's last, the instance completes and DAMT leaves as a
counter add of that strand. -/
def endStrand (s : State) (c : Sid) (grp : Nat) : State :=
  let st := s.strand c
  let s := s.setStrand c { st with run := .none, opened := none, waiting := [], sync := none, pend := [], await := none,
                                   kw := none, debugReq := none, parkReq := false, preReq := false, parked := false }
  let s := match s.launch st.lid with
    | none => s
    | some x =>
      let mark := fun (r : Nat × Nat × List Sid) =>
        if r.1 = st.node ∧ r.2.1 = st.inst then (r.1, r.2.1, r.2.2.filter fun d => d != c) else r
      let now := x.running.map mark
      let ended := now.any fun r => r.1 == st.node && r.2.1 == st.inst && r.2.2.isEmpty
      let s := s.setLaunch st.lid { x with running := now.filter fun r => !r.2.2.isEmpty }
      if !ended then s
      else
        let s := updNode s st.lid st.node fun n =>
          { n with completed := n.completed + 1, st := if n.completed + 1 = n.count then .done else n.st }
        match x.nodes[st.node]? with
        | some n => if n.damt = 0 then s else pushOp s c x.ctx st.epoch grp false (.add (handleAt x.anchor n.dctr) n.damt)
        | none => s
  noteSteady s (clusterOf c.core)

/-! ## Readiness (R277) -/

/-- A due node: its predicate is read once; where it is 0, faults or is poisoned, no instance runs and one add is made. -/
def settleNode (s : State) (lid k : Nat) : State :=
  match s.launch lid with
  | none => s
  | some x =>
    match x.nodes[k]? with
    | none => s
    | some n =>
      if n.st ≠ .due then s
      else
        let word := if n.pred = 0 then some [1] else hubRead s x.ctx n.pred 4
        let s := if n.pred = 0 then s else flagRead s 8 x.ctx n.pred 4
        if (word.map leNat).getD 0 ≠ 0 then updNode s lid k fun n => { n with st := .ready }
        else
          let s := updNode s lid k fun n => { n with st := .skipped }
          let s := if word.isNone then setLastErr s lid 0x14 else s
          if n.damt = 0 then s else addCounter s x.anchor n.dctr (n.count * n.damt)

/-! ## Placement at D0 (R279, R280) -/

/-- Does a record that waits name the core as its anchor (R272)? -/
def anchorWanted (s : State) (l : Nat) : Bool :=
  s.lu.queues.any (fun q => match q.2.waitingRec with
    | some r => bits (nth r.dwords 0 4) 14 0 == l && bits (nth r.dwords 0 0) 63 56 == 0 | none => false)
  || s.lu.children.any fun r => bits (nth r.dwords 0 4) 14 0 == l

/-- May another launch take the core that this one claims (R265)? -/
def claimIdle (s : State) (l lid : Nat) : Bool :=
  match s.launch lid with
  | none => true
  | some y => y.det == 0 && y.anchor != l && !coreBusy s l && (y.domainsOn l).isEmpty && !(s.core l).husked.contains lid

/-- May an instance of domain `d` of a launch run on the core? -/
def fitCore (s : State) (x : Launch) (d l : Nat) : Bool :=
  let co := s.core l
  decide (l < 25600) && co.hold.isNone && !(s.die (dieOf l)).lost && !unavail s l && co.bunch.isNone
  && !(co.husked.any fun lid => ctxOf s lid == x.ctx)
  && (match co.claim with
      | none => true
      | some lid =>
        if lid = x.lid then
          !anchorWanted s l && (if d = 0 then
            (upto 0 x.nstr).any (fun k => (s.strand ⟨l, k⟩).run == .none) && (x.domainsOn l).all fun e => e == 0
            else !coreBusy s l && (x.domainsOn l).isEmpty)
        else claimIdle s l lid && ctxOf s lid != x.ctx)

/-- Does the whole unit that begins at `l` fit? -/
def fitUnit (s : State) (x : Launch) (d l : Nat) : Bool := (upto l (unitCores d)).all fun c => fitCore s x d c

/-- The range of cores that the placed siblings of an instance leave it (R275): first core and number.
Log 34 (DEDUCED). -/
def siblingRange (x : Launch) (n : Node) (i : Nat) : Nat × Nat :=
  (upto 0 (n.level + 1)).foldl (fun (r : Nat × Nat) m =>
    match n.sites.find? fun p => groupHead x n.level m p.1 == groupHead x n.level m i with
    | some p =>
      let w := scopeCores (x.lev m).scope
      if w < r.2 then (p.2 / w * w, w) else r
    | none => r) (0, 25600)

/-- The site of the lowest-numbered placed sibling of the node's level. -/
def nearSite (x : Launch) (n : Node) (i : Nat) : Option Nat :=
  (n.sites.find? fun p => groupHead x n.level n.level p.1 == groupHead x n.level n.level i).map Prod.snd

/-- The cores of a die in which it may differ from a free one: those with a record, and the UNAVAIL ones (R344). -/
def touchedOn (s : State) (die : Nat) : List Nat :=
  let gone := (s.boot.repair.filter fun p => p.1 / 512 == die && bitOf p.2 15).flatMap fun p =>
    let c := die * 3200 + bits p.2 57 50 * 16
    if bits p.2 63 61 = 1 then [c + bits p.2 49 46] else if bits p.2 63 61 = 2 then upto c 16 else []
  ((s.cores.filter fun p => dieOf p.1 == die).map Prod.fst ++ gone).dedup

/-- The free strands of a core for an instance of a launch. -/
def freeStrands (s : State) (x : Launch) (l : Nat) : Nat :=
  if !fitCore s x 0 l then 0
  else if (s.core l).claim = some x.lid then ((upto 0 x.nstr).filter fun k => (s.strand ⟨l, k⟩).run == .none).length
  else x.nstr

/-- The free slots of a domain on a die (R279): strands, or whole units. -/
def freeSlots (s : State) (x : Launch) (d die : Nat) : Nat :=
  let touched := touchedOn s die
  if d = 0 then (3200 - touched.length) * x.nstr + touched.foldl (fun n l => n + freeStrands s x l) 0
  else 3200 / unitCores d - (((touched.filter fun l => !fitCore s x d l).map fun l => l / unitCores d).dedup).length

/-- The die with the most free slots among those of a range that are not lost; the lowest on a tie (R279).
Log 34 (DEDUCED). -/
def freestDie (s : State) (x : Launch) (d : Nat) (r : Nat × Nat) : Nat :=
  ((upto (r.1 / 3200) (Nat.max 1 (r.2 / 3200))).foldl (fun (b : Option (Nat × Nat)) die =>
    if (s.die die).lost then b
    else
      let t := freeSlots s x d die
      match b with
      | some q => if q.2 < t then some (die, t) else b
      | none => some (die, t)) none).elim 0 Prod.fst

/-- The unit nearest to a site among some units; the lowest on a tie. -/
def nearest (s : State) (site : Option Nat) (l : List Nat) : Option Nat :=
  match site with
  | none => l.head?
  | some t => (l.foldl (fun (b : Option (Nat × Nat)) c =>
      let h := hops s t c
      match b with
      | some q => if h < q.2 then some (c, h) else b
      | none => some (c, h)) none).map Prod.fst

/-- The units of a range where an instance of domain `d` fits, lowest first. -/
def fitting (s : State) (x : Launch) (d : Nat) (r : Nat × Nat) : List Nat :=
  let u := unitCores d
  ((upto 0 (r.2 / u)).map fun k => r.1 + k * u).filter fun l => fitUnit s x d l

/-- The unit of a range that an instance takes: one that the launch holds before a free one, the nearest to its lowest
sibling, the lowest (R280). -/
def chooseIn (s : State) (x : Launch) (d : Nat) (near : Option Nat) (r : Nat × Nat) : Option Nat :=
  let u := unitCores d
  let mine := (x.cores.foldl (fun (m : FMap Unit) c =>
    if c % u = 0 ∧ r.1 ≤ c ∧ c + u ≤ r.1 + r.2 ∧ fitUnit s x d c then fset m c () else m) []).map Prod.fst
  if mine.isEmpty then nearest s near (fitting s x d r) else nearest s near mine

/-- The range of one die inside a range. -/
def dieRange (die : Nat) (r : Nat × Nat) : Nat × Nat := if r.2 ≤ 3200 then r else (die * 3200, 3200)

/-- Where instance `i` of a node is to go at D0 (R279, R280): the die of its siblings while a unit fits there, else the
die with the most free slots. Log 34 (DEDUCED). -/
def chooseUnit (s : State) (x : Launch) (n : Node) (i : Nat) : Option Nat :=
  let d := (x.lev n.level).domain
  let r := siblingRange x n i
  let near := nearSite x n i
  if 7 < d then (if fitUnit s x d 0 then some 0 else none)
  else
    let first := match near with | some t => chooseIn s x d near (dieRange (dieOf t) r) | none => none
    match first with
    | some l => some l
    | none => chooseIn s x d near (dieRange (freestDie s x d r) r)

/-- The instances of a node that may be placed now: those of its current wave that are not placed yet (R275). -/
def openInstances (x : Launch) (n : Node) : List Nat :=
  let w := waveSize x n.level
  let lo := n.completed / w * w
  if n.st ≠ .ready then [] else (upto lo (Nat.min w (n.count - lo))).filter fun i => (ffind n.sites i).isNone

/-- The effective priority of a pool entry (R279): 2.0 GHz hub cycles. -/
def effPrio (prio since now : Nat) : Nat := Nat.min 7 (prio + 2 * (now - since) / 65536)

/-- The keys of a pool entry: effective priority, time of entry, LAUNCHID, node, instance (R279). -/
structure Key where
  prio : Nat
  since : Nat
  lid : Nat
  node : Nat
  inst : Nat
deriving DecidableEq, Repr

/-- The earlier of two entries. -/
def Key.before (a b : Key) : Bool :=
  if a.prio ≠ b.prio then decide (b.prio < a.prio)
  else if a.since ≠ b.since then decide (a.since < b.since)
  else if a.lid ≠ b.lid then decide (a.lid < b.lid)
  else if a.node ≠ b.node then decide (a.node < b.node)
  else decide (a.inst < b.inst)

/-- The key of an instance. -/
def keyOf (s : State) (x : Launch) (k : Nat) (n : Node) (i : Nat) : Key :=
  ⟨effPrio x.prio n.since s.time, n.since, x.lid, k, i⟩

/-- The key of a husked occupancy. -/
def huskKey (s : State) (x : Launch) (h : Husk) : Key :=
  let p := h.strands.head?.map fun e => (e.2.node, e.2.inst)
  ⟨effPrio x.prio h.since s.time, h.since, x.lid, (p.getD (0, 0)).1, (p.getD (0, 0)).2⟩

/-- The D0 instances in the pool with their launches and nodes. -/
def poolInstances (s : State) : List (Launch × Nat × Node × Nat) :=
  s.lu.launches.flatMap fun p =>
    if p.2.det ≠ 0 then []
    else p.2.nodes.zipIdx.flatMap fun e => (openInstances p.2 e.1).map fun i => (p.2, e.2, e.1, i)

/-- The lowest free strand of a core. -/
def freeStrand (s : State) (l nstr : Nat) : Option Nat := (upto 0 nstr).find? fun k => (s.strand ⟨l, k⟩).run == .none

/-- May core `t` take the second copy of a twin whose first runs on core `l` (R291): another cluster at least 2 hops away. -/
def twinApart (s : State) (l t : Nat) : Bool := clusterOf t != clusterOf l && decide (2 ≤ hops s l t)

/-- The core of a twin's second copy at D0: the lowest free one in another cluster at least 2 hops away where the strand of
the same number is free, since STATUS shows it and may not differ (R291). Log 30 (DESIGN CHOICE). -/
def twinCore (s : State) (x : Launch) (d l strand : Nat) : Option Nat :=
  (upto 0 25600).find? fun t => twinApart s l t && fitCore s x d t
    && (d != 0 || (s.core t).claim != some x.lid || (s.strand ⟨t, strand⟩).run == .none)

/-- The strand on which an instance of domain `d` starts at core `l`. -/
def startsOn (s : State) (x : Launch) (d l : Nat) : Option Nat :=
  if d ≠ 0 then some 0
  else if (s.core l).claim = some x.lid then freeStrand s l x.nstr else some 0

/-- Could the instance take the unit that core `l` lies in, a twin with a core for its second copy? -/
def couldTake (s : State) (x : Launch) (n : Node) (i l : Nat) : Bool :=
  let d := (x.lev n.level).domain
  let u := unitCores d
  let r := siblingRange x n i
  let b := l / u * u
  decide (r.1 ≤ b) && decide (b + u ≤ r.1 + r.2) && fitUnit s x d b
    && (!(x.lev n.level).twin || ((startsOn s x d b).bind fun k => twinCore s x d b k).isSome)

/-- Does an entry of the pool come before the key and fit one of some cores (R279, R280)? -/
def outranked (s : State) (key : Key) (cores : List Nat) : Bool :=
  (poolInstances s).any (fun e => (keyOf s e.1 e.2.1 e.2.2.1 e.2.2.2).before key
    && cores.any fun l => couldTake s e.1 e.2.2.1 e.2.2.2 l)
  || s.lu.launches.any fun p => p.2.husks.any fun h =>
      cores.contains h.core && (huskKey s p.2 h).before key && !coreBusy s h.core

/-! ## Fixed placement at D1 and D2 (R281, R288) -/

/-- The instances of a node that a quantum end places: at each position the next one, when the one of the wave before has
completed. -/
def fixedOpen (x : Launch) (k : Nat) (n : Node) : List Nat :=
  let w := waveSize x n.level
  if n.st ≠ .ready then []
  else (upto 0 (Nat.min w n.count)).filterMap fun p =>
    let done := (n.sites.filter fun e => e.1 % w == p).length
    let i := p + w * done
    if i < n.count ∧ (done = 0 ∨ !(x.running.any fun r => r.1 == k && r.2.1 == i - w)) then some i else none

/-- Places an instance at its fixed site if the site is free; a strand that the partition does not have never exists (R9),
and an instance whose strand level names one is not placed. Log 111 (DESIGN CHOICE). -/
def placeFixed (s : State) (lid k i : Nat) : State :=
  match s.launch lid with
  | none => s
  | some x =>
    match x.nodes[k]? with
    | none => s
    | some n =>
      let d := (x.lev n.level).domain
      let p := fixedSite x n.level i
      let l := x.placeBase + p.1
      let t := if (x.lev n.level).twin then some (x.twinBase + p.1) else none
      let all := unitStrands d x.nstr l p.2 ++ (match t with | some t => unitStrands d x.nstr t p.2 | none => [])
      let taken := fun (c : Nat) => if d = 0 then (x.domainsOn c).any (fun e => e != 0)
        else coreBusy s c || (s.core c).bunch.isSome || !(x.domainsOn c).isEmpty
      let cores := upto l (unitCores d) ++ (match t with | some t => upto t (unitCores d) | none => [])
      if x.nstr ≤ p.2 || cores.any taken || (all.any fun c => (s.strand c).run != .none) then s
      else startInstance s lid k i l p.2 t

/-- Places every instance of a launch that may start (R288 step 3); none while dispatch is stopped (R372). -/
def placeAll (s : State) (lid : Nat) : State :=
  match s.launch lid with
  | none => s
  | some x => if s.lu.throttled then s else (x.nodes.zipIdx.flatMap fun e => (fixedOpen x e.2 e.1).map fun i => (e.2, i)).foldl
      (fun s e => placeFixed s lid e.1 e.2) s

/-! ## Retirement (R278) -/

/-- Writes LID and STATE of a record as one event (R269); none: it waits for a solo chunk or a write-blocked page (R260).
Log 85 (DEDUCED). -/
def writeState (s : State) (ctx : Nat) (va : Word) (lid code : Nat) : Option State :=
  match unitSpot s 8 ctx (va + 0x98) .write false with
  | .ok p => if bitOf p.leaf 6 then none else placeWrite s p.leaf (atKeys p.sig (leBytes 8 (lid * 2 ^ 32 + code)))
  | .error _ => some s

/-- Has the launch an unsettled child, record or submission (R274)? -/
def hasChild (s : State) (lid : Nat) : Bool :=
  s.lu.launches.any (fun p => p.2.parent == some lid) || s.lu.children.any (fun r => r.parent == some lid)
  || s.eng.ops.any fun o => match o.rel with | .launch _ l => l == lid | _ => false

/-- Is a completion add of the launch still on its way to its anchor? Log 33 (DEDUCED). -/
def addsDue (s : State) (x : Launch) : Bool :=
  s.eng.ops.any fun o => o.ctx == x.ctx && !o.unit && (match o.rel with
    | .add h _ => (handleOf h).map Prod.fst == some x.anchor | _ => false)

/-- Has every node completed or been skipped, with every child settled (R278)? Log 33 (DEDUCED). -/
def canRetire (s : State) (x : Launch) : Bool :=
  (x.nodes.all fun n => n.st == .done || n.st == .skipped) && x.running.isEmpty && x.husks.isEmpty
  && !hasChild s x.lid && !addsDue s x

/-- The launch gives up its cores and leaves; views that its quantum group was to see at its next end are applied (R319). -/
def freeLaunch (s : State) (x : Launch) : State :=
  let s := applyLagging s x.lid
  let s := x.cores.foldl (fun s l => if (s.core l).claim = some x.lid then endClaim s l else s) s
  { s with lu := { s.lu with launches := s.lu.launches.filter fun p => p.1 != x.lid } }

/-- A launch retires: STATE, its cores, then the RETCTR add (R278). -/
def retireLaunch (s : State) (lid : Nat) : Option State := do
  let x ← s.launch lid
  let s ← writeState s x.ctx x.recVA lid 2
  some (unitAdd (freeLaunch s x) ⟨0, 0⟩ x.ctx x.retctr x.retamt)

end Sys2Proof.Machine
end

