-- ==== Sys2Proof/Machine/Accept.lean ====
section
/-! DEFINITION. Launch records: reading, checking (R267, R270, R271, R273, R281), refusing, mode changes (R290),
accepting (R38, R272). -/

namespace Sys2Proof.Machine

/-! ## Reading and checking a record -/

/-- Dword `k` of a record. -/
def Rec.dw (r : Rec) (k : Nat) : Word := nth r.dwords 0 k

/-- The dwords of some bytes. -/
def dwordsOf : Nat → List Byte → List Word
  | 0, _ => []
  | k + 1, l => leWord (l.take 8) :: dwordsOf k (l.drop 8)

/-- Reads `n` dwords through a context; none for a fault or poison. -/
def readDwords (s : State) (ctx : Nat) (va : Word) (n : Nat) : Option (List Word) := (hubRead s ctx va (8 * n)).map (dwordsOf n)

/-- KIND. -/
def Rec.kind (r : Rec) : Nat := bits (r.dw 0) 63 56
/-- DET. -/
def Rec.det (r : Rec) : Nat := bits (r.dw 0) 39 38
/-- STEADY. -/
def Rec.steady (r : Rec) : Bool := bitOf (r.dw 0) 40
/-- PRIO. -/
def Rec.prio (r : Rec) : Nat := bits (r.dw 0) 43 41
/-- NLEV. -/
def Rec.nlev (r : Rec) : Nat := bits (r.dw 0) 47 44
/-- NNODES. -/
def Rec.nnodes (r : Rec) : Nat := bits (r.dw 0) 12 0

/-- Are the reserved bits `hi:lo` of dword `k` nonzero? -/
def Rec.dirty (r : Rec) (k hi lo : Nat) : Bool := bits (r.dw k) hi lo != 0

/-- Is a reserved field nonzero (R270 item 2, Table 10.3)? Log 95 (DEDUCED). -/
def recReserved (r : Rec) : Bool :=
  if r.kind = 1 then
    r.dirty 0 55 41 || r.dirty 0 37 0 || r.dirty 18 63 32 || r.dirty 19 31 8
    || (upto 1 16 ++ upto 20 12).any fun k => r.dw k != 0
  else
    r.dirty 0 55 48 || r.dirty 0 37 13 || r.dirty 4 63 47 || r.dirty 4 31 31 || r.dirty 4 15 15 || r.dirty 5 63 55
    || r.dirty 5 47 47 || r.dirty 7 31 16 || r.dirty 18 63 32 || r.dirty 19 31 8
    || (upto 8 8).any (fun k => r.dirty k 63 39) || (upto 20 12).any fun k => r.dw k != 0

/-- A level dword (Table 10.4). -/
def levelOf (w : Word) : Level := { twin := bitOf w 38, scope := bits w 37 36, domain := bits w 35 32, fanout := bits w 31 0 }

/-- The size of a unit of a domain in strands (Table 10.6). -/
def domainSize (nstr d : Nat) : Nat := if d = 0 then 1 else unitCores d * nstr

/-- Is level `m` malformed, after one of domain `above` (R271)? -/
def badLevel (nstr above : Nat) (l : Level) : Bool :=
  let enc := Nat.min (l.scope + 6) above
  l.scope == 3 || decide (8 < l.domain) || l.fanout == 0 || decide (above ≤ l.domain) || decide (l.scope + 6 < l.domain)
  || decide (domainSize nstr enc / domainSize nstr l.domain < l.fanout)

/-- Is some level of a hierarchy malformed (R271)? -/
def badLevels (nstr : Nat) : Nat → List Level → Bool
  | _, [] => false
  | above, l :: t => badLevel nstr above l || badLevels nstr l.domain t

/-- A node entry from its eight dwords (Table 10.7); none where it breaks a rule of R273. Log 122 (DESIGN CHOICE). -/
def nodeOf (nlev : Nat) (d : List Word) : Option Node :=
  let w := fun k => nth d (0 : Word) k
  let n : Node := { entry := w 0, dctr := bits (w 1) 51 46, wctr := bits (w 1) 45 40, level := bits (w 1) 37 35,
                    count := bits (w 1) 32 0, wval := w 2, damt := bits (w 3) 31 0, pred := w 4, st := .waiting,
                    since := 0, sites := [], completed := 0 }
  if bits (w 0) 1 0 ≠ 0 ∨ n.count = 0 ∨ 2 ^ 32 < n.count ∨ nlev ≤ n.level ∨ bits (w 4) 1 0 ≠ 0 ∨ bits (w 1) 63 52 ≠ 0
    ∨ bits (w 1) 39 38 ≠ 0 ∨ bits (w 1) 34 33 ≠ 0 ∨ bits (w 3) 63 32 ≠ 0 ∨ (d.drop 5).any (fun x => x != 0) then none
  else some n

/-- The node table from its dwords. -/
def nodesOf (nlev : Nat) : Nat → List Word → Option (List Node)
  | 0, _ => some []
  | k + 1, l => do
    let n ← nodeOf nlev (l.take 8)
    let t ← nodesOf nlev k (l.drop 8)
    some (n :: t)

/-- FCSR of a record (Table 10.3). -/
def recFcsr (r : Rec) : Word :=
  let f := bits (r.dw 5) 46 32
  BitVec.ofNat 64 (if f % 8 = 0 then 1 else if f % 8 = 7 then f - 6 else f)

/-- LENM of a record: LENP 0 gives the reset value, above 64 counts as 64. -/
def recLenm (r : Rec) : Nat :=
  let p := bits (r.dw 5) 54 48
  if p = 0 then 15 else Nat.min p 64 - 1

/-- QUANTUM, with the default of R287 by the widest scope. -/
def recQuantum (r : Rec) (levels : List Level) : Nat :=
  let q := bits (r.dw 7) 63 32
  if q ≠ 0 then q
  else if levels.any fun l => l.scope == 2 then 65536
  else if levels.any fun l => l.scope == 1 then 16384 else 4096

/-- The launch that a checked record describes, before it is accepted. -/
def launchOf (r : Rec) (levels : List Level) (nodes : List Node) (fmt : List Word) : Launch :=
  { lid := 0, queue := r.queue, parent := r.parent, ctx := r.ctx, recVA := r.va, prio := r.prio, steady := r.steady,
    det := r.det, nstr := bits (r.dw 1) 2 0, nacc := bits (r.dw 1) 12 8, anchor := bits (r.dw 4) 14 0,
    placeBase := bits (r.dw 4) 30 16, twinBase := bits (r.dw 4) 46 32, arg := r.dw 3, lenm := recLenm r, fcsr := recFcsr r,
    seed := r.dw 5 &&& 0xFFFFFFFF, tvec := r.dw 6, quantum := recQuantum r levels, viewg := bits (r.dw 7) 15 0,
    levels := levels, fmt := fmt, retctr := r.dw 17, retamt := bits (r.dw 18) 31 0, nodes := nodes, cores := [],
    running := [], husks := [], halted := [] }

/-! ## The footprint (R281) -/

/-- First cores of the units of a launch's instances, one wave of each node: node level, instance, core. -/
def footUnits (x : Launch) : List (Nat × Nat × Nat) :=
  x.nodes.flatMap fun n => (upto 0 (Nat.min n.count (waveSize x n.level))).map fun i =>
    (n.level, i, x.placeBase + (fixedSite x n.level i).1)

/-- The footprint: the units, their twins, the anchor. -/
def footprint (x : Launch) : List Nat :=
  ((footUnits x).foldl (fun (m : FMap Unit) e =>
    let u := unitCores (x.lev e.1).domain
    let m := (upto e.2.2 u).foldl (fun m c => fset m c ()) m
    if (x.lev e.1).twin then fset m (x.twinBase + (e.2.2 - x.placeBase)) () else m) [(x.anchor, ())]).map Prod.fst

/-- The largest stride in use; that of the package is its 25,600 cores. Log 122 (DESIGN CHOICE). -/
def bigStride (x : Launch) : Nat := x.levels.foldl (fun m l => if l.domain = 0 then m else Nat.max m (unitCores l.domain)) 1

/-- Does a sibling group leave one unit of its scope? -/
def scopeLeft (x : Launch) : Bool :=
  (footUnits x).any fun e => (upto 0 (e.1 + 1)).any fun m =>
    let head := x.placeBase + (fixedSite x e.1 (groupHead x e.1 m e.2.1)).1
    let w := scopeCores (x.lev m).scope
    head / w != e.2.2 / w

/-- Is the footprint refused (R281)? -/
def footRefused (s : State) (x : Launch) : Bool :=
  x.placeBase % bigStride x != 0 || x.twinBase % bigStride x != 0
  || ((footprint x).any fun l => decide (25600 ≤ l) || unavail s l || (s.core l).hold.isSome)
  || scopeLeft x
  || (footUnits x).any fun e => (x.lev e.1).twin &&
      (let t := x.twinBase + (e.2.2 - x.placeBase)
       clusterOf t == clusterOf e.2.2 || decide (hops s e.2.2 t < 2))

/-! ## The checks in their order (R270) -/

/-- Is the DET or STEADY of a child other than its parent's (R274)? -/
def childDiffers (s : State) (r : Rec) : Bool :=
  match r.parent with
  | none => false
  | some p => match s.launch p with | some x => x.det != r.det || x.steady != r.steady | none => true

/-- Items 6 and 7: the partition word and the hierarchy. -/
def checkShape (r : Rec) : Except Nat (List Level) :=
  let part := r.dw 1
  let nstr := bits part 2 0
  let levels := (upto 0 r.nlev).map fun k => levelOf (r.dw (8 + k))
  if part &&& 0xFFFFFFFFFFFFE0F8 ≠ 0 ∨ nstr = 0 ∨ 4 < nstr ∨ 16 < bits part 12 8 then .error 0x10
  else if r.nlev = 0 ∨ 8 < r.nlev ∨ (upto r.nlev (8 - r.nlev)).any (fun k => r.dw (8 + k) != 0)
    ∨ badLevels nstr 9 levels then .error 0x11
  else if levels.any fun l => l.twin && decide (1 < l.domain) then .error 0x19
  else .ok levels

/-- Items 9 and 10: anchor and footprint. A record that waits is held to them again when it is accepted.
Log 91 (DEDUCED). -/
def siteCheck (s : State) (x : Launch) : Option Nat :=
  if 25600 ≤ x.anchor ∨ unavail s x.anchor ∨ (s.core x.anchor).hold.isSome then some 0x15
  else if x.det ≠ 0 ∧ footRefused s x then some 0x16
  else none

/-- Items 8 to 10: node table, format block, anchor, footprint. -/
def checkTables (s : State) (r : Rec) (levels : List Level) : Except Nat Launch :=
  if r.nnodes = 0 ∨ 4096 < r.nnodes ∨ (r.dw 2).toNat % 64 ≠ 0 then .error 0x12
  else
    match readDwords s r.ctx (r.dw 2) (8 * r.nnodes),
        (if r.dw 16 = 0 then some (List.replicate 21 0) else readDwords s r.ctx (r.dw 16) 21) with
    | some tab, some fmt =>
      match nodesOf r.nlev r.nnodes tab with
      | none => .error 0x12
      | some nodes =>
        let x := launchOf r levels nodes fmt
        match siteCheck s x with | some e => .error e | none => .ok x
    | _, _ => .error 0x14

/-- The checks of a record that was read (R270 items 2 to 10): none for a mode change alone.
Log 91 (DEDUCED). -/
def checkRecord (s : State) (r : Rec) : Except Nat (Option Launch) :=
  if 1 < r.kind ∨ recReserved r then .error 0x13
  else if r.det = 3 ∨ (r.det = 2 ∧ !r.steady) then .error 0x17
  else if r.kind = 1 then .ok none
  else if childDiffers s r then .error 0x18
  else
    match checkShape r with
    | .error e => .error e
    | .ok levels => match checkTables s r levels with | .error e => .error e | .ok x => .ok (some x)

/-! ## Refusing, retiring at once -/

/-- The key slots of tags that failed as a record or its tables were read are flagged (R340). -/
def flagRecord (s : State) (r : Rec) : State :=
  let s := flagRead s 8 r.ctx r.va 256
  let s := if r.nnodes = 0 ∨ 4096 < r.nnodes then s else flagRead s 8 r.ctx (r.dw 2) (64 * r.nnodes)
  if r.dw 16 = 0 then s else flagRead s 8 r.ctx (r.dw 16) 168

/-- A refused record (R270): its STATE, the queue's LASTERR and ERRCOUNT, then its RETCTR add. -/
def refuseRecord (s : State) (r : Rec) (code : Nat) : Option State := do
  let s := if code = 0x14 then flagRecord s r else s
  let s ← writeState s r.ctx r.va 0 code
  let s := match r.queue with
    | some q => setQueue s q { s.queue q with lastErr := code, errCount := (s.queue q).errCount + 1 }
    | none => s
  some (unitAdd s ⟨0, 0⟩ r.ctx (r.dw 17) (bits (r.dw 18) 31 0))

/-- The next LAUNCHID. -/
def takeLid (s : State) : Nat × State := (s.lu.nextLid, { s with lu := { s.lu with nextLid := s.lu.nextLid + 1 } })

/-- A record of KIND 1 retires at once (R290). -/
def retireMode (s : State) (r : Rec) : Option State := do
  let p := takeLid s
  let s ← writeState p.2 r.ctx r.va p.1 2
  some (unitAdd s ⟨0, 0⟩ r.ctx (r.dw 17) (bits (r.dw 18) 31 0))

/-! ## Accepting (R38, R265, R272, R281) -/

/-- Is the core free to be taken at acceptance: no claim, or an idle one of a D0 launch, and no husked occupancy of the
same context (R265)? -/
def coreFree (s : State) (ctx l : Nat) : Bool :=
  let co := s.core l
  !huskedHere s ctx l && !(s.die (dieOf l)).lost && (match co.claim with | none => true | some lid => claimIdle s l lid)

/-- The cores that a launch takes at acceptance. -/
def acceptCores (x : Launch) : List Nat := if x.det = 0 then [x.anchor] else footprint x

/-- Can the record be accepted now? -/
def canAccept (s : State) (x : Launch) : Bool :=
  decide (s.lu.launches.length < 4096) && (acceptCores x).all fun l => coreFree s x.ctx l

/-- The record is accepted: STATE 0x01 and LID, the cores taken; nodes whose WVAL is 0 are due. -/
def acceptLaunch (s : State) (x : Launch) : Option State := do
  let p := takeLid s
  let s ← writeState p.2 x.ctx x.recVA p.1 1
  let x := { x with lid := p.1, nodes := x.nodes.map fun n =>
    if n.wval = 0 then { n with st := .due, since := s.time } else n }
  let s := { s with lu := { s.lu with contexts := fset s.lu.contexts x.ctx (ctxCopy s x.ctx) } }
  let s := s.setLaunch p.1 x
  some ((acceptCores x).foldl (fun s l => claimCore s l p.1) s)

/-! ## Queues (R266, R267, R375) -/

/-- The fields of a queue descriptor in memory (Table 10.2). -/
structure QueueDesc where
  ring : Word
  en : Bool
  rsize : Nat
  subctr : Word
  ctxd : Nat
  pdelay : Nat
deriving DecidableEq, Repr

/-- Reads a queue descriptor. -/
def queueDesc (s : State) (q : Nat) : QueueDesc :=
  let a := queueAddr s q
  let d1 := memWord s (a + 8)
  let p := bits (memWord s (a + 48)) 31 0
  { ring := memWord s a, en := bitOf d1 16, rsize := bits d1 15 0, subctr := memWord s (a + 16),
    ctxd := (memWord s (a + 24)).toNat, pdelay := if p = 0 then 100 else p }

/-- The submission counter that a descriptor names. -/
def subCount (s : State) (d : QueueDesc) : Nat :=
  match handleOf d.subctr with | some (l, i) => (fget (s.core l).ctr 0 i).toNat | none => 0

/-- Is the descriptor invalid (R267)? A launch with a husked occupancy of the core still claims it (R265). -/
def queueInvalid (s : State) (d : QueueDesc) : Bool :=
  !ringSize d.rsize || d.ring.toNat % 256 != 0 || (match handleOf d.subctr with
    | none => true
    | some (l, _) => (s.core l).claim.isSome || !(s.core l).husked.isEmpty || (match (s.core l).hold with | some c => c != d.ctxd | none => false))

/-- A hold begins: the counter file is zero unless a queue of the context holds the core already (R375). -/
def beginHold (s : State) (l ctx : Nat) : State :=
  if (s.core l).hold = some ctx then s
  else s.setCore l { s.core l with hold := some ctx, ctr := [], ctrBad := [], arms := [] }

/-- The launch unit reads a queue's descriptor (R267, R375): it serves a valid one with EN = 1; LASTERR is 0x1A when it
first finds it invalid. Log 50 (DEDUCED). -/
def readQueue (s : State) (q : Nat) : State :=
  let d := queueDesc s q
  let bad := queueInvalid s d
  let first := bad && !(s.queue q).invalid
  let note := fun (s : State) (served : Bool) (hold : Option Nat) =>
    let y := { s.queue q with served := served, hold := hold, polled := s.time, read := true, invalid := bad, seen := subCount s d }
    { s with lu := { s.lu with queues := fset s.lu.queues q y } }
  let s := if first then setQueue s q { s.queue q with lastErr := 0x1A } else s
  match handleOf d.subctr with
  | some (l, _) => if d.en && !bad then note (beginHold s l d.ctxd) true (some l) else note s false (s.queue q).hold
  | none => note s false (s.queue q).hold

/-- Has a queue a record that is neither fetched nor held back (R267)? -/
def recordWaits (s : State) (q : Nat) : Bool :=
  let d := queueDesc s q
  let x := s.queue q
  x.served && d.en && !queueInvalid s d && x.waitingRec.isNone && decide (x.fetched < subCount s d)

/-- The address of a queue's next record. -/
def nextRecord (s : State) (q : Nat) : Word :=
  let d := queueDesc s q
  d.ring + BitVec.ofNat 64 ((s.queue q).fetched % d.rsize * 256)

/-- PRIO of a queue's next record; 0 where it cannot be read. -/
def peekPrio (s : State) (q : Nat) : Nat :=
  match readDwords s (queueDesc s q).ctxd (nextRecord s q) 1 with | some (w :: _) => bits w 43 41 | _ => 0

/-- The state with a queue's waiting record set. -/
def setWaiting (s : State) (q : Nat) (r : Option Rec) : State :=
  { s with lu := { s.lu with queues := fset s.lu.queues q { s.queue q with waitingRec := r } } }

/-- Does the record ask for another mode than its context's (R290)? -/
def modeDiffers (s : State) (r : Rec) : Bool :=
  let x := ctxCopy s r.ctx
  r.kind == 1 || x.det != r.det || x.steady != r.steady

/-- Could the record that waits in queue `q` go on now (R267, R281, R290)? -/
def recordReady (s : State) (q : Nat) (r : Rec) : Bool :=
  if modeDiffers s r then !(s.lu.launches.any fun p => p.2.queue == some q)
  else match r.body with | some x => canAccept s x || (siteCheck s x).isSome | none => false

/-- PRIO of the record of a queue that is to be served now: its next one, or one that waits and can go on. -/
def servePrio (s : State) (q : Nat) : Option Nat :=
  match (s.queue q).waitingRec with
  | some r => if recordReady s q r then some r.prio else none
  | none => if recordWaits s q then some (peekPrio s q) else none

/-- Is another queue to be served before this one, whose record has PRIO `prio` (R267)? -/
def queueOutranked (s : State) (q prio : Nat) : Bool :=
  (upto 0 64).any fun k => k != q && (match servePrio s k with
    | some p => decide (prio < p) || (p == prio && decide (k < q))
    | none => false)

/-- A checked record of a queue's mode: accepted if its cores are free, else it waits.
Log 91 (DEDUCED). -/
def tryAccept (s : State) (q : Nat) (r : Rec) (x : Launch) : Option State :=
  match siteCheck s x with
  | some e => (refuseRecord s r e).map fun s => setWaiting s q none
  | none =>
    if canAccept s x then (acceptLaunch s x).map fun s => setWaiting s q none
    else some (setWaiting s q (some { r with body := some x }))

end Sys2Proof.Machine
end

