-- ==== Sys2Proof/WellFormed.lean ====
section
/-! DEFINITION. Which terms of `Instr` the spec's encodings and parties admit: the operand rules of R51 to
R56, R122, R123, R160 and R188, and the ranges of cores, dies, ports and queues of the events. -/

namespace Sys2Proof

/-- The three floating-point types (Table 5.1, class F). -/
def VTy.float : VTy → Bool
  | .f32 | .bf16 | .f16 => true
  | _ => false

/-- Engine register numbers with a name (Tables 6.1, 7.5, 7.6). -/
def engNumber (n : Nat) : Bool :=
  decide (n ≤ 0x00A) || (decide (0x100 ≤ n) && decide (n ≤ 0x10B)) || (decide (0x200 ≤ n) && decide (n ≤ 0x20A))

/-- Control register numbers of Table 1.2. -/
def ctlNumber (n : Nat) : Bool :=
  decide (n ≤ 0x005) || n == 0x010 || n == 0x011 || n == 0x020 || n == 0x021 || n == 0x022 || n == 0x030
  || (decide (0x040 ≤ n) && decide (n ≤ 0x047)) || (decide (0x050 ≤ n) && decide (n ≤ 0x053))
  || n == 0x060 || n == 0x061 || n == 0x070 || n == 0x080 || n == 0x081
  || (decide (0x101 ≤ n) && decide (n ≤ 0x107)) || (decide (0x109 ≤ n) && decide (n ≤ 0x10F))
  || (decide (0x111 ≤ n) && decide (n ≤ 0x117))

/-- A strand that the module can have (R9, R29). -/
def Sid.ok (c : Sid) : Bool := decide (c.core < 25600) && decide (c.strand < 4)

/-- Well-formedness of a term. The all-zero A-space word is no `add` (R57). -/
def Instr.wf : Instr → Bool
  | .add d a b => !(d == 0 && a == 0 && b == 0)
  | .sub _ _ _ => true
  | .band _ _ _ => true
  | .bor _ _ _ => true
  | .bxor _ _ _ => true
  | .bandn _ _ _ => true
  | .shl _ _ _ => true
  | .shr _ _ _ => true
  | .sra _ _ _ => true
  | .rol _ _ _ => true
  | .min _ _ _ => true
  | .max _ _ _ => true
  | .minn _ _ _ => true
  | .maxn _ _ _ => true
  | .slt _ _ _ => true
  | .sltn _ _ _ => true
  | .seq _ _ _ => true
  | .sel _ _ _ => true
  | .clz _ _ => true
  | .ctz _ _ => true
  | .pop _ _ => true
  | .bswap _ _ => true
  | .addW _ _ _ => true
  | .subW _ _ _ => true
  | .bandW _ _ _ => true
  | .borW _ _ _ => true
  | .bxorW _ _ _ => true
  | .bandnW _ _ _ => true
  | .shlW _ _ _ => true
  | .shrW _ _ _ => true
  | .sraW _ _ _ => true
  | .rolW _ _ _ => true
  | .minW _ _ _ => true
  | .maxW _ _ _ => true
  | .minnW _ _ _ => true
  | .maxnW _ _ _ => true
  | .sltW _ _ _ => true
  | .sltnW _ _ _ => true
  | .seqW _ _ _ => true
  | .selW _ _ _ => true
  | .clzW _ _ => true
  | .ctzW _ _ => true
  | .popW _ _ => true
  | .bswapW _ _ => true
  | .mul _ _ _ _ => true
  | .mulh _ _ _ _ => true
  | .mulhn _ _ _ _ => true
  | .div _ _ _ _ => true
  | .divn _ _ _ _ => true
  | .rem _ _ _ _ => true
  | .remn _ _ _ _ => true
  | .mulW _ _ _ _ => true
  | .mulhW _ _ _ _ => true
  | .mulhnW _ _ _ _ => true
  | .divW _ _ _ _ => true
  | .divnW _ _ _ _ => true
  | .remW _ _ _ _ => true
  | .remnW _ _ _ _ => true
  | .addImm _ _ _ => true
  | .bandImm _ _ _ => true
  | .borImm _ _ _ => true
  | .bxorImm _ _ _ => true
  | .sltImm _ _ _ => true
  | .sltnImm _ _ _ => true
  | .shlImm _ _ _ => true
  | .shrImm _ _ _ => true
  | .sraImm _ _ _ => true
  | .rolImm _ _ _ => true
  | .addWImm _ _ _ => true
  | .extI _ _ lenm pos => decide (pos.toNat + lenm.toNat + 1 ≤ 64)
  | .extN _ _ lenm pos => decide (pos.toNat + lenm.toNat + 1 ≤ 64)
  | .ins _ _ lenm pos => decide (pos.toNat + lenm.toNat + 1 ≤ 64)
  | .lea _ _ _ sh => sh != 7
  | .lpc _ _ => true
  | .ldI8 _ _ _ _ => true
  | .ldN8 _ _ _ _ => true
  | .ldI16 _ _ _ _ => true
  | .ldN16 _ _ _ _ => true
  | .ldI32 _ _ _ _ => true
  | .ldN32 _ _ _ _ => true
  | .ld64 _ _ _ _ => true
  | .st8 _ _ _ => true
  | .st16 _ _ _ => true
  | .st32 _ _ _ => true
  | .st64 _ _ _ => true
  | .ldp _ d _ b _ => d != b || d == 0
  | .stp _ _ _ _ => true
  | .bCc _ _ _ _ => true
  | .dbnz _ _ => true
  | .j _ => true
  | .call _ => true
  | .jr _ => true
  | .callr _ => true
  | .li _ _ => true
  | .lih _ _ => true
  | .addl _ _ _ => true
  | .bCcLong _ _ _ _ => true
  | .jLong _ => true
  | .callLong _ => true
  | .pfx p => p.rnd != 7
  | .vadd _ _ _ _ _ => true
  | .vsub _ _ _ _ _ => true
  | .vmul _ _ _ _ _ => true
  | .vmin _ _ _ _ _ => true
  | .vmax _ _ _ _ _ => true
  | .vfma _ t _ _ _ => t.float
  | .vfms _ t _ _ _ => t.float
  | .vdiv _ t _ _ _ => t.float
  | .vabs _ _ _ _ => true
  | .vneg _ _ _ _ => true
  | .vsqrt _ t _ _ => t.float
  | .vrsq _ t _ _ => t.float
  | .vexp2 _ t _ _ => t.float
  | .vlog2 _ t _ _ => t.float
  | .vrcp _ t _ _ => t.float
  | .vand _ _ _ _ _ => true
  | .vor _ _ _ _ _ => true
  | .vxor _ _ _ _ _ => true
  | .vandn _ _ _ _ _ => true
  | .vshl _ t _ _ _ => !t.float
  | .vshr _ t _ _ _ => !t.float
  | .vsra _ t _ _ _ => !t.float
  | .vcmp _ _ _ _ _ _ => true
  | .vsel vm _ _ _ _ => vm != 0
  | .mand _ _ _ => true
  | .mor _ _ _ => true
  | .mxor _ _ _ => true
  | .mnot _ _ => true
  | .mpop _ _ => true
  | .mfirst _ _ => true
  | .vcvt _ _ _ _ _ => true
  | .vcvtFromView _ t k _ _ => t.float && k != 0
  | .vcvtToView _ t k _ _ => t.float && k != 0
  | .vpack _ t _ _ _ => t == .bf16 || t == .f16 || t == .i16 || t == .i8 || t == .n8
  | .vunpack _ t _ _ _ => t == .bf16 || t == .f16 || t == .i16 || t == .i8 || t == .n8
  | .vperm _ _ _ _ _ => true
  | .vslide _ _ _ _ _ => true
  | .vbcast _ _ _ _ => true
  | .vextr _ _ _ _ => true
  | .vins _ _ _ _ => true
  | .vidx _ t _ _ _ => !t.float
  | .vredsum _ t _ _ => t.float || t == .i32 || t == .n32 || t == .i16
  | .vredmax _ t _ _ => t.float || t == .i32 || t == .n32 || t == .i16
  | .vredmin _ t _ _ => t.float || t == .i32 || t == .n32 || t == .i16
  | .vargmax _ _ _ _ _ => true
  | .vtopk _ t d _ _ => (t.float || t == .i32 || t == .n32) && d.getLsbD 0 == false
  | .vbucket _ t d _ => (t == .n32 || t == .n8) && d.getLsbD 0 == false
  | .vquant t _ _ => t.float
  | .vscale _ t _ _ _ => t.float
  | .vsrnd _ t _ _ => t == .bf16 || t == .f16
  | .vsrndView _ k _ _ => k != 0
  | .vmov _ _ _ _ => true
  | .vli _ _ _ _ => true
  | .vld _ m _ _ _ => !(m.reg == 0 && m.zero)
  | .vldb _ _ _ _ => true
  | .vst _ _ _ _ => true
  | .vlds _ _ _ _ _ => true
  | .vsts _ _ _ _ _ => true
  | .vgather _ t _ _ _ => t == .f32 || t == .i32 || t == .n32
  | .vscatter _ t _ _ _ => t == .f32 || t == .i32 || t == .n32
  | .tmma _ _ _ _ => true
  | .tmmat _ _ _ _ => true
  | .tzero _ _ => true
  | .tld _ _ _ => true
  | .tst _ _ _ => true
  | .tfetch _ _ => true
  | .tunpin _ _ => true
  | .tgeom _ n _ => decide (n.toNat ≤ 0x00A)
  | .tadd _ _ _ => true
  | .tscale _ _ _ => true
  | .trget _ _ _ _ => true
  | .trput _ _ _ _ => true
  | .trmax _ _ _ => true
  | .trsum _ _ _ => true
  | .tquant _ _ _ => true
  | .kadd _ _ => true
  | .kaddi _ _ => true
  | .kwait _ _ => true
  | .kread _ _ _ => true
  | .kdraw _ _ _ => true
  | .kset _ _ => true
  | .rld _ _ d _ => d != 0
  | .rst _ _ _ => true
  | .radd _ _ d _ _ => d != 0
  | .raddPosted _ _ _ => true
  | .rcas _ _ d _ _ => d != 0
  | .rswp _ _ d _ _ => d != 0
  | .padd _ _ _ => true
  | .pmin _ _ _ => true
  | .pmax _ _ _ => true
  | .por t _ _ => t != .f32
  | .cut => true
  | .hold => true
  | .unhold => true
  | .chk => true
  | .xer _ n _ => engNumber n.toNat && n != 0x10A && n != 0x208
  | .xeGo _ _ => true
  | .ceGo _ _ => true
  | .xew n _ => engNumber n.toNat && decide (0x100 ≤ n.toNat) && n != 0x20A
  | .ceJoin _ => true
  | .compose _ _ => true
  | .release => true
  | .bq _ => true
  | .launch _ => true
  | .nop => true
  | .trap _ => true
  | .tret => true
  | .brk _ => true
  | .halt => true
  | .idle => true
  | .sget n _ => ctlNumber n.toNat
  | .sset n _ => ctlNumber n.toNat
  | .lflush _ => true
  | .linv _ => true
  | .tlbinv _ => true
  | .hsave _ => true
  | .hload _ => true
  | .xfence => true
  | .pendingDrain c => c.ok
  | .chunkGrant c => c.ok
  | .soloSlotGrant c => c.ok
  | .resultReturn c => c.ok
  | .steppingReexecution c => c.ok
  | .trapEntry c => c.ok
  | .quantumEnd _ => true
  | .counterAdd _ => true
  | .checkAndArm _ => true
  | .counterDraw _ => true
  | .counterSet _ => true
  | .spillRetry _ => true
  | .remoteOperation _ => true
  | .postedAtomic _ => true
  | .copyTransferStart _ => true
  | .copyBlockWrite _ _ => true
  | .collectiveStart _ => true
  | .collectivePartial die _ => decide (die < 8)
  | .collectiveComplete _ => true
  | .heartbeatSend port => decide (port < 16)
  | .heartbeat mod => decide (mod < 128)
  | .heartbeatTimeout mod => decide (mod < 128)
  | .dieHeartbeatMiss die => decide (die < 8)
  | .dieFatalError die => decide (die < 8)
  | .suspect m => decide (m < 1024)
  | .propose grp _ => decide (1 ≤ grp ∧ grp ≤ 4095)
  | .ack grp _ mod => decide (1 ≤ grp ∧ grp ≤ 4095) && decide (mod < 128)
  | .viewCommit grp _ => decide (1 ≤ grp ∧ grp ≤ 4095)
  | .proposalTimeout grp => decide (1 ≤ grp ∧ grp ≤ 4095)
  | .holdTimeout grp => decide (1 ≤ grp ∧ grp ≤ 4095)
  | .force grp => decide (1 ≤ grp ∧ grp ≤ 4095)
  | .joinreq grp m => decide (1 ≤ grp ∧ grp ≤ 4095) && decide (m < 1024)
  | .joinack grp m => decide (1 ≤ grp ∧ grp ≤ 4095) && decide (m < 1024)
  | .flitReceive port _ => decide (port < 16)
  | .linkReplay port _ => decide (port < 16)
  | .portDown port => decide (port < 16)
  | .portUp port => decide (port < 16)
  | .hrd off size => (size == 8 || size == 16 || size == 32 || size == 64 || size == 128 || size == 256) && off % size == 0
  | .hwr _ _ _ => true
  | .hcadd _ _ => true
  | .peerReadTimeout c => c.ok
  | .pageWalk core _ => decide (core < 25600)
  | .notificationRecord die => decide (die < 8)
  | .writeBlockResume c => c.ok
  | .tfetchFill _ => true
  | .patrolScrub _ _ => true
  | .cethreshReached _ => true
  | .liveRetirement _ => true
  | .queuePoll q => decide (q < 64)
  | .recordFetch _ => true
  | .modeChange q => decide (q < 64)
  | .footprintReserve _ => true
  | .nodeReady _ _ => true
  | .instanceDispatch _ _ _ core strand => decide (core < 25600) && decide (strand < 4)
  | .launchRetire _ => true
  | .preempt _ _ core => decide (core < 25600)
  | .huskResume _ core => decide (core < 25600)
  | .twinThirdRun c _ => c.ok
  | .droopStretch cluster => decide (cluster < 1600)
  | .clockModeChange cluster => decide (cluster < 1600)
  | .elasticReturn cluster => decide (cluster < 1600)
  | .powerSample _ _ => true
  | .dispatchThrottle => true
  | .junctionTrip die => decide (die < 8)
  | .idleDepthEntry core => decide (core < 25600)
  | .coreWake core => decide (core < 25600)
  | .watchDelivery c => c.ok
  | .debugHalt core => decide (core < 25600)
  | .debugResume core => decide (core < 25600)
  | .dbgstopStop _ => true
  | .dbgstopResume _ => true
  | .quiesceTimeout core => decide (core < 25600)
  | .dbgrecRead => true
  | .dbgstatRead => true
  | .debugStateWrite c _ _ => c.ok
  | .watchpointArm core n _ => decide (core < 25600) && decide (n < 4)
  | .traceArm _ => true
  | .traceTrigger _ => true
  | .replayDivergence _ => true
  | .dumpRequest _ => true
  | .registerWrite _ _ => true
  | .coldStart _ => true
  | .warmStart _ => true
  | .keepMemoryWarmStart _ => true
  | .powerLoss => true
  | .keySlotLoad slot _ => decide (1 ≤ slot ∧ slot ≤ 255)
  | .keySlotClear slot => decide (1 ≤ slot ∧ slot ≤ 255)
  | .storeWrite _ => true
  | .groupEntryCreate grp _ _ _ => decide (1 ≤ grp ∧ grp ≤ 4095)
  | .unlockToken _ => true
  | .launchTerminate _ => true
  | .unallocatedEncoding _ _ => true
  | .instructionFetchFault _ _ _ => true
  | .haltedStrandRestart c => c.ok
  | .correctedErrorWindow => true
  | .flashSlotWrite slot _ _ => decide (slot < 2)
  | .clockModeChangeEnd cluster => decide (cluster < 1600)

end Sys2Proof
end

