-- ==== Sys2Proof/Decode.lean ====
section
/-! DEFINITION. The decoder of instruction words (chapter 02), total on any words and rejecting by the
subcode of Table 2.20, and after it an encoder written from the same format tables. -/

namespace Sys2Proof

/-! ## Field extraction (Tables 2.2 to 2.11) -/

/-- Bits 1:0 of an instruction word. -/
abbrev fld_kind (w : W32) : BitVec 2 := w.extractLsb' 0 2

/-- Bits 7:2 of an instruction word. -/
abbrev fld_maj (w : W32) : BitVec 6 := w.extractLsb' 2 6

/-- Bits 12:8 of an instruction word. -/
abbrev fld_d (w : W32) : BitVec 5 := w.extractLsb' 8 5

/-- Bits 17:13 of an instruction word. -/
abbrev fld_a (w : W32) : BitVec 5 := w.extractLsb' 13 5

/-- Bits 22:18 of an instruction word. -/
abbrev fld_b (w : W32) : BitVec 5 := w.extractLsb' 18 5

/-- Bits 27:23 of an instruction word. -/
abbrev fld_fn (w : W32) : BitVec 5 := w.extractLsb' 23 5

/-- Bits 31:28 of an instruction word. -/
abbrev fld_look (w : W32) : BitVec 4 := w.extractLsb' 28 4

/-- Bits 31:18 of an instruction word. -/
abbrev fld_imm14 (w : W32) : BitVec 14 := w.extractLsb' 18 14

/-- Bits 27:18 of an instruction word. -/
abbrev fld_imm10 (w : W32) : BitVec 10 := w.extractLsb' 18 10

/-- Bits 31:21 of an instruction word. -/
abbrev fld_off11 (w : W32) : BitVec 11 := w.extractLsb' 21 11

/-- Bits 20:18 of an instruction word. -/
abbrev fld_cond (w : W32) : BitVec 3 := w.extractLsb' 18 3

/-- Bits 31:8 of an instruction word. -/
abbrev fld_off24 (w : W32) : BitVec 24 := w.extractLsb' 8 24

/-- Bits 31:13 of an instruction word. -/
abbrev fld_off19 (w : W32) : BitVec 19 := w.extractLsb' 13 19

/-- Bits 31:29 of an instruction word. -/
abbrev fld_vmask (w : W32) : BitVec 3 := w.extractLsb' 29 3

/-- Bits 28:28 of an instruction word. -/
abbrev fld_vmm (w : W32) : BitVec 1 := w.extractLsb' 28 1

/-- Bits 27:25 of an instruction word. -/
abbrev fld_vty (w : W32) : BitVec 3 := w.extractLsb' 25 3

/-- Bits 24:23 of an instruction word. -/
abbrev fld_vsub (w : W32) : BitVec 2 := w.extractLsb' 23 2

/-- Bits 27:25 of an instruction word. -/
abbrev fld_mmask (w : W32) : BitVec 3 := w.extractLsb' 25 3

/-- Bits 24:24 of an instruction word. -/
abbrev fld_mmm (w : W32) : BitVec 1 := w.extractLsb' 24 1

/-- Bits 23:18 of an instruction word. -/
abbrev fld_imm6 (w : W32) : BitVec 6 := w.extractLsb' 18 6

/-- Bits 27:18 of an instruction word. -/
abbrev fld_num (w : W32) : BitVec 10 := w.extractLsb' 18 10

/-- Bits 27:24 of an instruction word. -/
abbrev fld_acc (w : W32) : BitVec 4 := w.extractLsb' 24 4

/-- Bits 23:18 of an instruction word. -/
abbrev fld_fn6 (w : W32) : BitVec 6 := w.extractLsb' 18 6

/-- Bits 29:18 of an instruction word. -/
abbrev fld_ctl (w : W32) : BitVec 12 := w.extractLsb' 18 12

/-- Bits 31:30 of an instruction word. -/
abbrev fld_top2 (w : W32) : BitVec 2 := w.extractLsb' 30 2

/-- Bits 23:18 of an instruction word. -/
abbrev fld_shn (w : W32) : BitVec 6 := w.extractLsb' 18 6

/-- Bits 25:24 of an instruction word. -/
abbrev fld_shop (w : W32) : BitVec 2 := w.extractLsb' 24 2

/-- Bits 31:26 of an instruction word. -/
abbrev fld_shtop (w : W32) : BitVec 6 := w.extractLsb' 26 6

/-- Bits 23:18 of an instruction word. -/
abbrev fld_fpos (w : W32) : BitVec 6 := w.extractLsb' 18 6

/-- Bits 29:24 of an instruction word. -/
abbrev fld_flen (w : W32) : BitVec 6 := w.extractLsb' 24 6

/-- Bits 31:30 of an instruction word. -/
abbrev fld_fsel (w : W32) : BitVec 2 := w.extractLsb' 30 2

/-- Bits 20:18 of an instruction word. -/
abbrev fld_b3 (w : W32) : BitVec 3 := w.extractLsb' 18 3

/-- Bits 22:21 of an instruction word. -/
abbrev fld_bhi (w : W32) : BitVec 2 := w.extractLsb' 21 2

/-- Bits 25:23 of an instruction word. -/
abbrev fld_lsc (w : W32) : BitVec 3 := w.extractLsb' 23 3

/-- Bits 27:26 of an instruction word. -/
abbrev fld_lhi (w : W32) : BitVec 2 := w.extractLsb' 26 2

/-- Bits 21:18 of an instruction word. -/
abbrev fld_src4 (w : W32) : BitVec 4 := w.extractLsb' 18 4

/-- Bits 23:22 of an instruction word. -/
abbrev fld_fnlo (w : W32) : BitVec 2 := w.extractLsb' 22 2

/-- Bits 25:23 of an instruction word. -/
abbrev fld_rop (w : W32) : BitVec 3 := w.extractLsb' 23 3

/-- Bits 27:26 of an instruction word. -/
abbrev fld_rw (w : W32) : BitVec 2 := w.extractLsb' 26 2

/-- Bits 24:23 of an instruction word. -/
abbrev fld_pop2 (w : W32) : BitVec 2 := w.extractLsb' 23 2

/-- Bits 26:25 of an instruction word. -/
abbrev fld_pty (w : W32) : BitVec 2 := w.extractLsb' 25 2

/-- Bits 27:27 of an instruction word. -/
abbrev fld_ptop (w : W32) : BitVec 1 := w.extractLsb' 27 1

/-- Bits 31:29 of an instruction word. -/
abbrev fld_prnd (w : W32) : BitVec 3 := w.extractLsb' 29 3

/-- Bits 28:28 of an instruction word. -/
abbrev fld_psat (w : W32) : BitVec 1 := w.extractLsb' 28 1

/-- Bits 27:25 of an instruction word. -/
abbrev fld_pfmt (w : W32) : BitVec 3 := w.extractLsb' 25 3

/-- Bits 24:24 of an instruction word. -/
abbrev fld_pftz (w : W32) : BitVec 1 := w.extractLsb' 24 1

/-- Bits 23:20 of an instruction word. -/
abbrev fld_pte (w : W32) : BitVec 4 := w.extractLsb' 20 4

/-- Bits 19:8 of an instruction word. -/
abbrev fld_pres (w : W32) : BitVec 12 := w.extractLsb' 8 12

/-- Bits 31:21 of an instruction word. -/
abbrev fld_l11 (w : W32) : BitVec 11 := w.extractLsb' 21 11

/-- Bits 31:8 of an instruction word. -/
abbrev fld_l24 (w : W32) : BitVec 24 := w.extractLsb' 8 24

/-- Bits 24:18 of an instruction word. -/
abbrev fld_v7 (w : W32) : BitVec 7 := w.extractLsb' 18 7

/-! ## Codes of fields -/

/-- Type codes (R43). -/
def VTy.ofCode (c : BitVec 3) : VTy :=
  match c.toNat with
  | 0 => .f32 | 1 => .bf16 | 2 => .f16 | 3 => .i32 | 4 => .n32 | 5 => .i16 | 6 => .i8 | _ => .n8

/-- Condition codes of `b.cc`; 110 and 111 are unallocated (R52, R114). -/
def Cond.ofCode (c : BitVec 3) : Option Cond :=
  match c.toNat with
  | 0 => some .eq | 1 => some .ne | 2 => some .lt | 3 => some .ge | 4 => some .ltn | 5 => some .gen | _ => none

/-- Selector codes of `vcmp` (R53). -/
def VCond.ofCode (c : BitVec 2) : VCond :=
  match c.toNat with
  | 0 => .eq | 1 => .ne | 2 => .lt | _ => .le

/-- Width codes of remote operations (R55). -/
def Size.ofCode (c : BitVec 2) : Size :=
  match c.toNat with
  | 0 => .b8 | 1 => .b16 | 2 => .b32 | _ => .b64

/-- Type codes of posted atomics; 11 is unallocated (R55). -/
def PTy.ofCode (c : BitVec 2) : Option PTy :=
  match c.toNat with
  | 0 => some .i32 | 1 => some .i64 | 2 => some .f32 | _ => none

/-- Why a word is not an instruction: the subcode of Table 2.20. -/
abbrev Sub := BitVec 4

/-- Refuse with `sub` when `bad` holds. -/
def need (ok : Bool) (sub : Sub) (k : Except Sub Instr) : Except Sub Instr :=
  if ok then k else .error sub

/-- The mask fields of format V (Table 2.7). -/
def vMask (w : W32) : Mask := ⟨fld_vmask w, fld_vmm w == 1⟩

/-! ## A-space (R50 to R52) -/

/-- Function codes of Table 2.13. -/
def alu3 (fn : Nat) : Option (Reg → Reg → Reg → Instr) :=
  match fn with
  | 0 => some Instr.add
  | 1 => some Instr.sub
  | 2 => some Instr.band
  | 3 => some Instr.bor
  | 4 => some Instr.bxor
  | 5 => some Instr.bandn
  | 6 => some Instr.shl
  | 7 => some Instr.shr
  | 8 => some Instr.sra
  | 9 => some Instr.rol
  | 10 => some Instr.min
  | 11 => some Instr.max
  | 12 => some Instr.minn
  | 13 => some Instr.maxn
  | 14 => some Instr.slt
  | 15 => some Instr.sltn
  | 16 => some Instr.seq
  | 17 => some Instr.sel
  | _ => none

/-- Function codes of Table 2.13. -/
def alu3W (fn : Nat) : Option (Reg → Reg → Reg → Instr) :=
  match fn with
  | 0 => some Instr.addW
  | 1 => some Instr.subW
  | 2 => some Instr.bandW
  | 3 => some Instr.borW
  | 4 => some Instr.bxorW
  | 5 => some Instr.bandnW
  | 6 => some Instr.shlW
  | 7 => some Instr.shrW
  | 8 => some Instr.sraW
  | 9 => some Instr.rolW
  | 10 => some Instr.minW
  | 11 => some Instr.maxW
  | 12 => some Instr.minnW
  | 13 => some Instr.maxnW
  | 14 => some Instr.sltW
  | 15 => some Instr.sltnW
  | 16 => some Instr.seqW
  | 17 => some Instr.selW
  | _ => none

/-- Function codes of Table 2.13. -/
def alu2 (fn : Nat) : Option (Reg → Reg → Instr) :=
  match fn with
  | 18 => some Instr.clz
  | 19 => some Instr.ctz
  | 20 => some Instr.pop
  | 21 => some Instr.bswap
  | _ => none

/-- Function codes of Table 2.13. -/
def alu2W (fn : Nat) : Option (Reg → Reg → Instr) :=
  match fn with
  | 18 => some Instr.clzW
  | 19 => some Instr.ctzW
  | 20 => some Instr.popW
  | 21 => some Instr.bswapW
  | _ => none

/-- Function codes of Table 2.13. -/
def mulOp (fn : Nat) : Option (BitVec 4 → Reg → Reg → Reg → Instr) :=
  match fn with
  | 0 => some Instr.mul
  | 1 => some Instr.mulh
  | 2 => some Instr.mulhn
  | 3 => some Instr.div
  | 4 => some Instr.divn
  | 5 => some Instr.rem
  | 6 => some Instr.remn
  | _ => none

/-- Function codes of Table 2.13. -/
def mulOpW (fn : Nat) : Option (BitVec 4 → Reg → Reg → Reg → Instr) :=
  match fn with
  | 0 => some Instr.mulW
  | 1 => some Instr.mulhW
  | 2 => some Instr.mulhnW
  | 3 => some Instr.divW
  | 4 => some Instr.divnW
  | 5 => some Instr.remW
  | 6 => some Instr.remnW
  | _ => none

/-- Majors 0x00 and 0x01: format R, look zero, field b zero in the one-source operations (R50, R98). -/
def decAlu (w : W32) (t3 : Nat → Option (Reg → Reg → Reg → Instr)) (t2 : Nat → Option (Reg → Reg → Instr)) :
    Except Sub Instr :=
  match t3 (fld_fn w).toNat with
  | some f => need (fld_look w == 0) 2 (.ok (f (fld_d w) (fld_a w) (fld_b w)))
  | none =>
    match t2 (fld_fn w).toNat with
    | some f => need (fld_look w == 0 && fld_b w == 0) 2 (.ok (f (fld_d w) (fld_a w)))
    | none => .error 1

/-- Majors 0x02 and 0x03 (R106). -/
def decMul (w : W32) (t : Nat → Option (BitVec 4 → Reg → Reg → Reg → Instr)) : Except Sub Instr :=
  match t (fld_fn w).toNat with
  | some f => .ok (f (fld_look w) (fld_d w) (fld_a w) (fld_b w))
  | none => .error 1

/-- Major 0x0A: shifts by an immediate; imm14[13:8] zero (R51, R102). -/
def decShift (w : W32) : Except Sub Instr :=
  need (fld_shtop w == 0) 2
    (match (fld_shop w).toNat with
     | 0 => .ok (.shlImm (fld_d w) (fld_a w) (fld_shn w))
     | 1 => .ok (.shrImm (fld_d w) (fld_a w) (fld_shn w))
     | 2 => .ok (.sraImm (fld_d w) (fld_a w) (fld_shn w))
     | _ => .ok (.rolImm (fld_d w) (fld_a w) (fld_shn w)))

/-- Major 0x0C: `ext.n` 00, `ext.i` 01, `ins` 10; pos + len at most 64 (R51, R103). -/
def decField (w : W32) : Except Sub Instr :=
  let ok := (fld_fpos w).toNat + (fld_flen w).toNat + 1 ≤ 64
  match (fld_fsel w).toNat with
  | 0 => need (decide ok) 3 (.ok (.extN (fld_d w) (fld_a w) (fld_flen w) (fld_fpos w)))
  | 1 => need (decide ok) 3 (.ok (.extI (fld_d w) (fld_a w) (fld_flen w) (fld_fpos w)))
  | 2 => need (decide ok) 3 (.ok (.ins (fld_d w) (fld_a w) (fld_flen w) (fld_fpos w)))
  | _ => .error 1

/-- A-space (kind 00); the all-zero word is refused first (R57). -/
def decodeA (w : W32) : Except Sub Instr :=
  if w = 0 then .error 4 else
  match (fld_maj w).toNat with
  | 0x00 => decAlu w alu3 alu2
  | 0x01 => decAlu w alu3W alu2W
  | 0x02 => decMul w mulOp
  | 0x03 => decMul w mulOpW
  | 0x04 => .ok (.addImm (fld_d w) (fld_a w) (fld_imm14 w))
  | 0x05 => .ok (.bandImm (fld_d w) (fld_a w) (fld_imm14 w))
  | 0x06 => .ok (.borImm (fld_d w) (fld_a w) (fld_imm14 w))
  | 0x07 => .ok (.bxorImm (fld_d w) (fld_a w) (fld_imm14 w))
  | 0x08 => .ok (.sltImm (fld_d w) (fld_a w) (fld_imm14 w))
  | 0x09 => .ok (.sltnImm (fld_d w) (fld_a w) (fld_imm14 w))
  | 0x0A => decShift w
  | 0x0B => .ok (.addWImm (fld_d w) (fld_a w) (fld_imm14 w))
  | 0x0C => decField w
  | 0x0D => need (fld_lsc w != 7) 1 (need (fld_lhi w == 0 && fld_look w == 0) 2
              (.ok (.lea (fld_d w) (fld_a w) (fld_b w) (fld_lsc w))))
  | 0x0E => .ok (.lpc (fld_d w) (fld_off19 w))
  | 0x10 => .ok (.ldI8 (fld_look w) (fld_d w) (fld_a w) (fld_imm10 w))
  | 0x11 => .ok (.ldN8 (fld_look w) (fld_d w) (fld_a w) (fld_imm10 w))
  | 0x12 => .ok (.ldI16 (fld_look w) (fld_d w) (fld_a w) (fld_imm10 w))
  | 0x13 => .ok (.ldN16 (fld_look w) (fld_d w) (fld_a w) (fld_imm10 w))
  | 0x14 => .ok (.ldI32 (fld_look w) (fld_d w) (fld_a w) (fld_imm10 w))
  | 0x15 => .ok (.ldN32 (fld_look w) (fld_d w) (fld_a w) (fld_imm10 w))
  | 0x16 => .ok (.ld64 (fld_look w) (fld_d w) (fld_a w) (fld_imm10 w))
  | 0x18 => .ok (.st8 (fld_d w) (fld_a w) (fld_imm14 w))
  | 0x19 => .ok (.st16 (fld_d w) (fld_a w) (fld_imm14 w))
  | 0x1A => .ok (.st32 (fld_d w) (fld_a w) (fld_imm14 w))
  | 0x1B => .ok (.st64 (fld_d w) (fld_a w) (fld_imm14 w))
  | 0x1C => need (fld_d w != fld_b w || fld_d w == 0) 3
              (.ok (.ldp (fld_look w) (fld_d w) (fld_a w) (fld_b w) (fld_fn w)))
  | 0x1D => need (fld_look w == 0) 2 (.ok (.stp (fld_d w) (fld_a w) (fld_b w) (fld_fn w)))
  | 0x20 => match Cond.ofCode (fld_cond w) with
            | some c => .ok (.bCc c (fld_a w) (fld_d w) (fld_off11 w))
            | none => .error 1
  | 0x21 => need (fld_cond w == 0 && fld_d w == 0) 2 (.ok (.dbnz (fld_a w) (fld_off11 w)))
  | 0x22 => .ok (.j (fld_off24 w))
  | 0x23 => .ok (.call (fld_off24 w))
  | 0x24 => need (fld_imm14 w == 0 && fld_d w == 0) 2 (.ok (.jr (fld_a w)))
  | 0x25 => need (fld_imm14 w == 0 && fld_d w == 0) 2 (.ok (.callr (fld_a w)))
  | _ => .error 0

/-! ## B-space (R53 to R55, R122, R160, R188) -/

/-- Types of `vred*` (Table 5.2). -/
def VTy.redOk : VTy → Bool
  | .f32 | .bf16 | .f16 | .i32 | .n32 | .i16 => true
  | _ => false

/-- Types of `vtopk` (Table 5.2). -/
def VTy.topkOk : VTy → Bool
  | .f32 | .bf16 | .f16 | .i32 | .n32 => true
  | _ => false

/-- Types of `vbucket` (Table 5.2). -/
def VTy.bucketOk : VTy → Bool
  | .n32 | .n8 => true
  | _ => false

/-- Types of `vpack` and `vunpack` (Table 5.2). -/
def VTy.packOk : VTy → Bool
  | .bf16 | .f16 | .i16 | .i8 | .n8 => true
  | _ => false

/-- Types of `vgather` and `vscatter` (Table 5.2). -/
def VTy.gatherOk : VTy → Bool
  | .f32 | .i32 | .n32 => true
  | _ => false

/-- The type field of format V. -/
def vTy (w : W32) : VTy := VTy.ofCode (fld_vty w)

/-- Binary vector operation with one selector code 00. -/
def decV3 (w : W32) (tyOk : Bool) (f : Mask → VTy → Reg → Reg → Reg → Instr) : Except Sub Instr :=
  need (fld_vsub w == 0 && tyOk) 1 (.ok (f (vMask w) (vTy w) (fld_d w) (fld_a w) (fld_b w)))

/-- Unary vector operation of major 0x08. -/
def decV2 (w : W32) (tyOk : Bool) (f : Mask → VTy → Reg → Reg → Instr) : Except Sub Instr :=
  need tyOk 1 (.ok (f (vMask w) (vTy w) (fld_d w) (fld_a w)))

/-- A mask operation of major 0x0D: no mask, sub 00 (R136). -/
def decM (w : W32) : Except Sub Instr :=
  let z := fld_vmask w == 0 && fld_vmm w == 0
  let zb := z && fld_b w == 0
  need (fld_vsub w == 0) 1
    (match (fld_vty w).toNat with
     | 0 => need z 2 (.ok (.mand (fld_d w) (fld_a w) (fld_b w)))
     | 1 => need z 2 (.ok (.mor (fld_d w) (fld_a w) (fld_b w)))
     | 2 => need z 2 (.ok (.mxor (fld_d w) (fld_a w) (fld_b w)))
     | 3 => need zb 2 (.ok (.mnot (fld_d w) (fld_a w)))
     | 4 => need zb 2 (.ok (.mpop (fld_d w) (fld_a w)))
     | 5 => need zb 2 (.ok (.mfirst (fld_d w) (fld_a w)))
     | _ => .error 1)

/-- Major 0x0E (R137, R138). -/
def decCvt (w : W32) : Except Sub Instr :=
  match (fld_vsub w).toNat with
  | 0 => need (fld_bhi w == 0) 2
           (.ok (.vcvt (vMask w) (vTy w) (VTy.ofCode (fld_b3 w)) (fld_d w) (fld_a w)))
  | 1 => need (vTy w).float 1 (need (fld_bhi w == 0) 2 (need (fld_b3 w != 0) 3
           (.ok (.vcvtFromView (vMask w) (vTy w) (fld_b3 w) (fld_d w) (fld_a w)))))
  | 2 => need (vTy w).float 1 (need (fld_bhi w == 0) 2 (need (fld_b3 w != 0) 3
           (.ok (.vcvtToView (vMask w) (vTy w) (fld_b3 w) (fld_d w) (fld_a w)))))
  | _ => .error 1

/-- Major 0x12 (R142). -/
def decMove (w : W32) : Except Sub Instr :=
  let z := fld_vmask w == 0 && fld_vmm w == 0
  match (fld_vsub w).toNat with
  | 0 => need (fld_b w == 0) 2 (.ok (.vbcast (vMask w) (vTy w) (fld_d w) (fld_a w)))
  | 1 => need z 2 (.ok (.vextr (vTy w) (fld_d w) (fld_a w) (fld_b w)))
  | 2 => need z 2 (.ok (.vins (vTy w) (fld_d w) (fld_a w) (fld_b w)))
  | _ => .error 1

/-- Major 0x1A (R140): types bf16 and f16 with b zero, type 000 with a view. -/
def decSrnd (w : W32) : Except Sub Instr :=
  need (fld_vsub w == 0) 1
    (match (fld_vty w).toNat with
     | 0 => need (fld_bhi w == 0) 2 (need (fld_b3 w != 0) 3
              (.ok (.vsrndView (vMask w) (fld_b3 w) (fld_d w) (fld_a w))))
     | 1 => need (fld_b w == 0) 1 (.ok (.vsrnd (vMask w) .bf16 (fld_d w) (fld_a w)))
     | 2 => need (fld_b w == 0) 1 (.ok (.vsrnd (vMask w) .f16 (fld_d w) (fld_a w)))
     | _ => .error 1)

/-- Vector majors 0x00 to 0x1F (Tables 2.16 and 5.2). -/
def decodeV (w : W32) : Except Sub Instr :=
  let F := (vTy w).float
  let I := !F
  let part := fld_vmm w == 0
  match (fld_maj w).toNat with
  | 0x00 => decV3 w true .vadd
  | 0x01 => decV3 w true .vsub
  | 0x02 => decV3 w true .vmul
  | 0x03 => decV3 w true .vmin
  | 0x04 => decV3 w true .vmax
  | 0x05 => decV3 w F .vfma
  | 0x06 => decV3 w F .vfms
  | 0x07 => decV3 w F .vdiv
  | 0x08 => need (fld_vsub w == 0) 1
      (match (fld_b w).toNat with
       | 0 => decV2 w true .vabs
       | 1 => decV2 w true .vneg
       | 2 => decV2 w F .vsqrt
       | 3 => decV2 w F .vrsq
       | 4 => decV2 w F .vexp2
       | 5 => decV2 w F .vlog2
       | 6 => decV2 w F .vrcp
       | _ => .error 1)
  | 0x09 =>
      match (fld_vsub w).toNat with
      | 0 => .ok (.vand (vMask w) (vTy w) (fld_d w) (fld_a w) (fld_b w))
      | 1 => .ok (.vor (vMask w) (vTy w) (fld_d w) (fld_a w) (fld_b w))
      | 2 => .ok (.vxor (vMask w) (vTy w) (fld_d w) (fld_a w) (fld_b w))
      | _ => .ok (.vandn (vMask w) (vTy w) (fld_d w) (fld_a w) (fld_b w))
  | 0x0A => need I 1
      (match (fld_vsub w).toNat with
       | 0 => .ok (.vshl (vMask w) (vTy w) (fld_d w) (fld_a w) (fld_b w))
       | 1 => .ok (.vshr (vMask w) (vTy w) (fld_d w) (fld_a w) (fld_b w))
       | 2 => .ok (.vsra (vMask w) (vTy w) (fld_d w) (fld_a w) (fld_b w))
       | _ => .error 1)
  | 0x0B => .ok (.vcmp (VCond.ofCode (fld_vsub w)) (vMask w) (vTy w) (fld_d w) (fld_a w) (fld_b w))
  | 0x0C => need (fld_vsub w == 0 && fld_vmask w != 0) 1 (need part 2
              (.ok (.vsel (fld_vmask w) (vTy w) (fld_d w) (fld_a w) (fld_b w))))
  | 0x0D => decM w
  | 0x0E => decCvt w
  | 0x0F =>
      match (fld_vsub w).toNat with
      | 0 => need (vTy w).packOk 1 (.ok (.vpack (vMask w) (vTy w) (fld_d w) (fld_a w) (fld_b w)))
      | 1 => need ((vTy w).packOk && decide ((fld_b w).toNat ≤ 1)) 1
               (.ok (.vunpack (vMask w) (vTy w) (fld_d w) (fld_a w) (fld_b w == 1)))
      | _ => .error 1
  | 0x10 => decV3 w true .vperm
  | 0x11 => decV3 w true .vslide
  | 0x12 => decMove w
  | 0x13 => decV3 w I .vidx
  | 0x14 => need (fld_vsub w != 3 && (vTy w).redOk) 1 (need (part && fld_b w == 0) 2
      (match (fld_vsub w).toNat with
       | 0 => .ok (.vredsum (fld_vmask w) (vTy w) (fld_d w) (fld_a w))
       | 1 => .ok (.vredmax (fld_vmask w) (vTy w) (fld_d w) (fld_a w))
       | _ => .ok (.vredmin (fld_vmask w) (vTy w) (fld_d w) (fld_a w))))
  | 0x15 => need (fld_vsub w == 0) 1 (need part 2
              (.ok (.vargmax (fld_vmask w) (vTy w) (fld_d w) (fld_a w) (fld_b w))))
  | 0x16 => need (fld_vsub w == 0 && (vTy w).topkOk) 1 (need part 2 (need ((fld_d w).getLsbD 0 == false) 3
              (.ok (.vtopk (fld_vmask w) (vTy w) (fld_d w) (fld_a w) (fld_b w)))))
  | 0x17 => need (fld_vsub w == 0 && (vTy w).bucketOk) 1 (need (part && fld_b w == 0) 2
              (need ((fld_d w).getLsbD 0 == false) 3
                (.ok (.vbucket (fld_vmask w) (vTy w) (fld_d w) (fld_a w)))))
  | 0x18 => need (fld_vsub w == 0 && F) 1 (need (part && fld_vmask w == 0 && fld_b w == 0) 2
              (.ok (.vquant (vTy w) (fld_d w) (fld_a w))))
  | 0x19 => decV3 w F .vscale
  | 0x1A => decSrnd w
  | 0x1B => need (fld_vsub w == 0) 1 (need (fld_b w == 0) 2
              (.ok (.vmov (vMask w) (vTy w) (fld_d w) (fld_a w))))
  | 0x1C => if fld_mmask w == 0 && fld_mmm w == 1 then .ok (.vldb (fld_look w) (fld_d w) (fld_a w) (fld_imm6 w))
            else .ok (.vld (fld_look w) ⟨fld_mmask w, fld_mmm w == 1⟩ (fld_d w) (fld_a w) (fld_imm6 w))
  | 0x1D => need (fld_look w == 0 && fld_mmm w == 0) 2
              (.ok (.vst (fld_mmask w) (fld_d w) (fld_a w) (fld_imm6 w)))
  | 0x1E =>
      match (fld_vsub w).toNat with
      | 0 => .ok (.vlds (vMask w) (vTy w) (fld_d w) (fld_a w) (fld_b w))
      | 1 => .ok (.vsts (vMask w) (vTy w) (fld_d w) (fld_a w) (fld_b w))
      | _ => .error 1
  | _ =>
      match (fld_vsub w).toNat with
      | 0 => need (vTy w).gatherOk 1 (.ok (.vgather (vMask w) (vTy w) (fld_d w) (fld_a w) (fld_b w)))
      | 1 => need (vTy w).gatherOk 1 (.ok (.vscatter (vMask w) (vTy w) (fld_d w) (fld_a w) (fld_b w)))
      | _ => .error 1

/-- Tile majors 0x20 to 0x2B (Tables 2.17 and 6.3). -/
def decodeT (w : W32) : Except Sub Instr :=
  let z5 (x : BitVec 5) := x == 0
  match (fld_maj w).toNat with
  | 0x20 =>
      match (fld_fn6 w).toNat with
      | 0 => .ok (.tmma (fld_look w) (fld_acc w) (fld_a w) (fld_d w))
      | 1 => .ok (.tmmat (fld_look w) (fld_acc w) (fld_a w) (fld_d w))
      | _ => .error 1
  | 0x21 => need (fld_fn6 w == 0) 1 (need (z5 (fld_a w) && z5 (fld_d w)) 2 (.ok (.tzero (fld_look w) (fld_acc w))))
  | 0x22 => need (fld_fn6 w == 0) 1 (need (z5 (fld_d w)) 2 (.ok (.tld (fld_look w) (fld_acc w) (fld_a w))))
  | 0x23 => need (fld_fn6 w == 0) 1 (need (z5 (fld_d w)) 2 (.ok (.tst (fld_look w) (fld_acc w) (fld_a w))))
  | 0x24 => need (fld_fn6 w == 0) 1 (need (z5 (fld_d w) && fld_acc w == 0) 2 (.ok (.tfetch (fld_look w) (fld_a w))))
  | 0x25 => need (fld_fn6 w == 0) 1 (need (z5 (fld_d w) && fld_acc w == 0) 2 (.ok (.tunpin (fld_look w) (fld_a w))))
  | 0x26 => need (decide ((fld_num w).toNat ≤ 0x00A)) 1 (need (z5 (fld_d w)) 2
              (.ok (.tgeom (fld_look w) (fld_num w) (fld_a w))))
  | 0x27 => need (fld_fnlo w == 0 && z5 (fld_a w) && z5 (fld_d w)) 2
              (.ok (.tadd (fld_look w) (fld_acc w) (fld_src4 w)))
  | 0x28 => need (fld_fn6 w == 0) 1 (need (z5 (fld_d w)) 2 (.ok (.tscale (fld_look w) (fld_acc w) (fld_a w))))
  | 0x29 =>
      match (fld_fn6 w).toNat with
      | 0 => .ok (.trget (fld_look w) (fld_acc w) (fld_d w) (fld_a w))
      | 1 => .ok (.trput (fld_look w) (fld_acc w) (fld_a w) (fld_d w))
      | _ => .error 1
  | 0x2A =>
      match (fld_fn6 w).toNat with
      | 0 => need (z5 (fld_a w)) 2 (.ok (.trmax (fld_look w) (fld_acc w) (fld_d w)))
      | 1 => need (z5 (fld_a w)) 2 (.ok (.trsum (fld_look w) (fld_acc w) (fld_d w)))
      | _ => .error 1
  | _ => need (fld_fn6 w == 0) 1 (need (z5 (fld_d w)) 2 (.ok (.tquant (fld_look w) (fld_acc w) (fld_a w))))

/-- Major 0x31 (R188). -/
def decRemote (w : W32) : Except Sub Instr :=
  let sz := Size.ofCode (fld_rw w)
  match (fld_rop w).toNat with
  | 0 => need (fld_b w == 0) 2 (need (fld_d w != 0) 3 (.ok (.rld (fld_look w) sz (fld_d w) (fld_a w))))
  | 1 => need (fld_d w == 0 && fld_look w == 0) 2 (.ok (.rst sz (fld_a w) (fld_b w)))
  | 2 => if fld_d w == 0 then need (fld_look w == 0) 2 (.ok (.raddPosted sz (fld_a w) (fld_b w)))
         else .ok (.radd (fld_look w) sz (fld_d w) (fld_a w) (fld_b w))
  | 3 => need (fld_d w != 0) 3 (.ok (.rcas (fld_look w) sz (fld_d w) (fld_a w) (fld_b w)))
  | 4 => need (fld_d w != 0) 3 (.ok (.rswp (fld_look w) sz (fld_d w) (fld_a w) (fld_b w)))
  | _ => .error 1

/-- Major 0x32 (R188). -/
def decPosted (w : W32) : Except Sub Instr :=
  match PTy.ofCode (fld_pty w) with
  | none => .error 1
  | some t =>
    need (fld_ptop w == 0 && !(fld_pop2 w == 3 && t == .f32)) 1 (need (fld_d w == 0 && fld_look w == 0) 2
      (match (fld_pop2 w).toNat with
       | 0 => .ok (.padd t (fld_a w) (fld_b w))
       | 1 => .ok (.pmin t (fld_a w) (fld_b w))
       | 2 => .ok (.pmax t (fld_a w) (fld_b w))
       | _ => .ok (.por t (fld_a w) (fld_b w))))

/-- Synchronisation, engine and system majors 0x2C to 0x3D (Tables 2.18 and 7.1). -/
def decodeS (w : W32) : Except Sub Instr :=
  let zl := fld_look w == 0
  let za := fld_a w == 0
  let zb := fld_b w == 0
  let zd := fld_d w == 0
  let fn := (fld_fn w).toNat
  match (fld_maj w).toNat with
  | 0x2C => need (fn == 0) 1 (need (zl && zd) 2 (.ok (.kadd (fld_a w) (fld_b w))))
  | 0x2D => need (fn == 0) 1 (need (zl && zd) 2 (.ok (.kwait (fld_a w) (fld_b w))))
  | 0x2E => need (fn == 0) 1 (need zb 2 (.ok (.kread (fld_look w) (fld_d w) (fld_a w))))
  | 0x2F => need (fn == 0) 1 (need zb 2 (.ok (.kdraw (fld_look w) (fld_d w) (fld_a w))))
  | 0x30 => need (fn == 0) 1 (need (zl && zd) 2 (.ok (.kset (fld_a w) (fld_b w))))
  | 0x31 => decRemote w
  | 0x32 => decPosted w
  | 0x33 =>
      match fn with
      | 0 => need (zl && za && zb && zd) 2 (.ok .cut)
      | 1 => need (zl && za && zb && zd) 2 (.ok .hold)
      | 2 => need (zl && za && zb && zd) 2 (.ok .unhold)
      | 3 => need (zl && za && zb && zd) 2 (.ok .chk)
      | _ => .error 1
  | 0x34 => need (engNumber (fld_num w).toNat) 1 (need za 2
      (if fld_num w == 0x10A then .ok (.xeGo (fld_look w) (fld_d w))
       else if fld_num w == 0x208 then .ok (.ceGo (fld_look w) (fld_d w))
       else .ok (.xer (fld_look w) (fld_num w) (fld_d w))))
  | 0x35 => need (engNumber (fld_num w).toNat && decide (0x100 ≤ (fld_num w).toNat)) 1 (need (zl && zd) 2
      (if fld_num w == 0x20A then .ok (.ceJoin (fld_a w)) else .ok (.xew (fld_num w) (fld_a w))))
  | 0x36 =>
      match fn with
      | 0 => need (zl && zb) 2 (.ok (.compose (fld_d w) (fld_a w)))
      | 1 => need (zl && za && zb && zd) 2 (.ok .release)
      | 2 => need (zl && za && zb) 2 (.ok (.bq (fld_d w)))
      | _ => .error 1
  | 0x37 => need (fn == 0) 1 (need (zl && zb && zd) 2 (.ok (.launch (fld_a w))))
  | 0x38 =>
      match fn with
      | 0 => need (zl && za && zb && zd) 2 (.ok .nop)
      | 1 => need (zl && za && zd) 2 (.ok (.trap (fld_b w)))
      | 2 => need (zl && za && zb && zd) 2 (.ok .tret)
      | 3 => need (zl && za && zd) 2 (.ok (.brk (fld_b w)))
      | 4 => need (zl && za && zb && zd) 2 (.ok .halt)
      | 5 => need (zl && za && zb && zd) 2 (.ok .idle)
      | _ => .error 1
  | 0x39 => need (ctlNumber (fld_ctl w).toNat) 1 (need (fld_top2 w == 0 && za) 2 (.ok (.sget (fld_ctl w) (fld_d w))))
  | 0x3A => need (ctlNumber (fld_ctl w).toNat) 1 (need (fld_top2 w == 0 && zd) 2 (.ok (.sset (fld_ctl w) (fld_a w))))
  | 0x3B =>
      match fn with
      | 0 => need (zl && zb && zd) 2 (.ok (.lflush (fld_a w)))
      | 1 => need (zl && zb && zd) 2 (.ok (.linv (fld_a w)))
      | 2 => need (zl && zb && zd) 2 (.ok (.tlbinv (fld_a w)))
      | _ => .error 1
  | 0x3C =>
      match fn with
      | 0 => need (zl && zb && zd) 2 (.ok (.hsave (fld_a w)))
      | 1 => need (zl && zb && zd) 2 (.ok (.hload (fld_a w)))
      | _ => .error 1
  | 0x3D => need (fn == 0) 1 (need (zl && za && zb && zd) 2 (.ok .xfence))
  | _ => .error 0

/-- B-space (kind 01). -/
def decodeB (w : W32) : Except Sub Instr :=
  if (fld_maj w).toNat < 0x20 then decodeV w
  else if (fld_maj w).toNat < 0x2C then decodeT w
  else decodeS w

/-! ## Prefix words and 64-bit instructions -/

/-- A prefix word (kind 10): kind field and reserved bits zero, rnd not 111 (R46, step 1 of R48). -/
def decodePfx (w : W32) : Except Sub Instr :=
  need (fld_maj w == 0) 0 (need (fld_pres w == 0) 2 (need (fld_prnd w != 7) 3
    (.ok (.pfx ⟨fld_prnd w, fld_psat w == 1, fld_pfmt w, fld_pftz w == 1, fld_pte w⟩))))

/-- The first word of a 64-bit instruction, checked in full before its extension is fetched (R44, R56). -/
def decode64 (w ext : W32) : Except Sub Instr :=
  let za := fld_a w == 0
  match (fld_maj w).toNat with
  | 0x00 => need za 2 (.ok (.li (fld_d w) (ext ++ fld_imm14 w)))
  | 0x01 => need (za && fld_imm14 w == 0) 2 (.ok (.lih (fld_d w) ext))
  | 0x02 => need (fld_imm14 w == 0) 2 (.ok (.addl (fld_d w) (fld_a w) ext))
  | 0x08 => match Cond.ofCode (fld_cond w) with
            | some c => need (fld_l11 w == 0) 2 (.ok (.bCcLong c (fld_a w) (fld_d w) ext))
            | none => .error 1
  | 0x09 => need (fld_l24 w == 0) 2 (.ok (.jLong ext))
  | 0x0A => need (fld_l24 w == 0) 2 (.ok (.callLong ext))
  | 0x10 => need (za && fld_v7 w == 0) 2 (.ok (.vli (vMask w) (vTy w) (fld_d w) ext))
  | 0x11 => need (fld_imm14 w == 0 && fld_d w == 0) 2 (.ok (.kaddi (fld_a w) ext))
  | _ => .error 0

/-- One 32-bit word that is not the first word of a 64-bit instruction (R41). Where a word fails several checks, the
order is that of its arm: selector (SUB 1), unused fields (2), operands (3). Log 96 (DEDUCED), 100 (DESIGN CHOICE). -/
def decode32 (w : W32) : Except Sub Instr :=
  match (fld_kind w).toNat with
  | 0 => decodeA w
  | 1 => decodeB w
  | _ => decodePfx w

/-- True when the word is the first word of a 64-bit instruction (Table 2.1). -/
def isLong (w : W32) : Bool := fld_kind w == 3

/-- What the words at an address are. -/
inductive Decoded where
  /-- an instruction of `len` bytes. -/
  | instr (i : Instr) (len : Nat)
  /-- ILLOP with a subcode; the first word is the offending one. -/
  | illop (sub : Sub)
  /-- the first word passes its checks and its extension word is needed (R44). -/
  | more
deriving DecidableEq, Repr

/-- Decode the words from an address on: total on any list. The checks of a 64-bit first word do not
depend on its extension, so they are made with extension 0 first (R44). -/
def decode : List W32 → Decoded
  | [] => .more
  | w :: rest =>
    if isLong w then
      match decode64 w 0 with
      | .error sub => .illop sub
      | .ok _ =>
        match rest with
        | [] => .more
        | e :: _ =>
          match decode64 w e with
          | .ok i => .instr i 8
          | .error sub => .illop sub
    else
      match decode32 w with
      | .ok i => .instr i 4
      | .error sub => .illop sub

/-! ## Prefixed pairs (R47, R48) -/

/-- The prefixable classes of Table 2.12. -/
inductive PfxClass where
  | scalar | vecFmt | vecNoFmt | tileMma | tileArith | tileStore
deriving DecidableEq, Repr

/-- The class of a decoded 32-bit word or of `addl` (Table 2.12). -/
def pfxClassOf (w : W32) : Option PfxClass :=
  let m := (fld_maj w).toNat
  let byType := if (vTy w).float then PfxClass.vecFmt else PfxClass.vecNoFmt
  match (fld_kind w).toNat with
  | 0 => if m ≤ 0x0B then some .scalar else none
  | 1 =>
    if m ≤ 0x08 then some byType
    else match m with
      | 0x0A => some .vecNoFmt
      | 0x0E => match (fld_vsub w).toNat with
                | 0 => some byType
                | 1 => some .vecFmt
                | _ => some .vecNoFmt
      | 0x0F => if fld_vsub w == 0 && (vTy w).float then some .vecFmt else some .vecNoFmt
      | 0x14 => some byType
      | 0x18 => some .vecNoFmt
      | 0x19 => some .vecFmt
      | 0x20 => some .tileMma
      | 0x27 => some .tileArith
      | 0x28 => some .tileArith
      | 0x23 => some .tileStore
      | 0x2B => some .tileStore
      | _ => none
  | 3 => if m == 0x02 then some .scalar else none
  | _ => none

/-- What the check of a pair finds (R48). `second` says that the following word is the offending one. -/
inductive PairCheck where
  | ok
  | orphan
  | illop (sub : Sub) (second : Bool)
deriving DecidableEq, Repr

/-- Step 5 of R48: a prefix field that the class does not use, or a rounding code that `tmma` forbids. -/
def pfxFieldCheck (p : Pfx) (c : PfxClass) : PairCheck :=
  match c with
  | .scalar => if p.rnd == 0 && p.fmt == 0 && p.ftz == false && (p.te &&& 0b1011) == 0 then .ok else .illop 2 false
  | .vecFmt | .tileArith => .ok
  | .vecNoFmt | .tileStore => if p.fmt == 0 then .ok else .illop 2 false
  | .tileMma => if p.rnd == 0 || p.rnd == 1 || p.rnd == 6 then .ok else .illop 3 false

/-- Steps 3 to 5 of R48 for the word after a prefix. A word that fails a check of its own is no allocated instruction
(R48 step 4 names `ldp` with d = b), so it is no orphan. `accOk` is the check of accumulator fields against NACC, an
operand rule of the following word (R57, R160). -/
def pairCheck (p : Pfx) (w : W32) (accOk : Instr → Bool) : PairCheck :=
  if fld_kind w == 2 then .orphan
  else if isLong w then
    if fld_maj w == 2 then
      match decode64 w 0 with
      | .ok _ => pfxFieldCheck p .scalar
      | .error sub => .illop sub true
    else .orphan
  else
    match decode32 w with
    | .error sub => .illop sub true
    | .ok i =>
      if !accOk i then .illop 3 true
      else match pfxClassOf w with
        | none => .orphan
        | some c => pfxFieldCheck p c

/-! ## The host's reading of a table word -/

/-- The words that hold the low `nbits` bits of `w`, first word first, and one zero word after them. -/
def tableWords (nbits w : Nat) : List W32 :=
  let v := w % 2 ^ nbits
  [BitVec.ofNat 32 v, BitVec.ofNat 32 (v / 2 ^ 32), BitVec.ofNat 32 (v / 2 ^ 64)]

/-- The instruction the decoder reads from an instruction whose bits are `w`, bits above `nbits` zero. -/
def decodeTableWord (nbits w : Nat) : Option Instr :=
  match decode (tableWords nbits w) with
  | .instr i _ => some i
  | _ => none

/-! ## Encoder -/

/-- Format R (Table 2.2). -/
def packR (look : BitVec 4) (fn b a d : BitVec 5) (major : BitVec 6) (kind : BitVec 2) : W32 :=
  look ++ fn ++ b ++ a ++ d ++ major ++ kind
/-- Format I (Table 2.3). -/
def packI (imm : BitVec 14) (a d : BitVec 5) (major : BitVec 6) (kind : BitVec 2) : W32 :=
  imm ++ a ++ d ++ major ++ kind
/-- Format IL (Table 2.4). -/
def packIL (look : BitVec 4) (imm : BitVec 10) (a d : BitVec 5) (major : BitVec 6) (kind : BitVec 2) : W32 :=
  look ++ imm ++ a ++ d ++ major ++ kind
/-- Format B (Table 2.5). -/
def packB (off : BitVec 11) (cond : BitVec 3) (a b : BitVec 5) (major : BitVec 6) (kind : BitVec 2) : W32 :=
  off ++ cond ++ a ++ b ++ major ++ kind
/-- Format J (Table 2.6). -/
def packJ (off : BitVec 24) (major : BitVec 6) (kind : BitVec 2) : W32 :=
  off ++ major ++ kind
/-- The layout of `lpc` (R105). -/
def packL (off : BitVec 19) (d : BitVec 5) (major : BitVec 6) (kind : BitVec 2) : W32 :=
  off ++ d ++ major ++ kind
/-- Format V (Table 2.7). -/
def packV (mask : BitVec 3) (mm : BitVec 1) (ty : BitVec 3) (sub : BitVec 2) (b a d : BitVec 5) (major : BitVec 6)
    (kind : BitVec 2) : W32 :=
  mask ++ mm ++ ty ++ sub ++ b ++ a ++ d ++ major ++ kind
/-- Format VM (Table 2.8). -/
def packVM (look : BitVec 4) (mask : BitVec 3) (mm : BitVec 1) (imm : BitVec 6) (a d : BitVec 5) (major : BitVec 6)
    (kind : BitVec 2) : W32 :=
  look ++ mask ++ mm ++ imm ++ a ++ d ++ major ++ kind
/-- Format X with an accumulator and fn6 (Table 2.9). -/
def packX (look acc : BitVec 4) (fn6 : BitVec 6) (a d : BitVec 5) (major : BitVec 6) (kind : BitVec 2) : W32 :=
  look ++ acc ++ fn6 ++ a ++ d ++ major ++ kind
/-- Format C (Table 2.10). -/
def packC (n : BitVec 12) (a d : BitVec 5) (major : BitVec 6) (kind : BitVec 2) : W32 :=
  (0 : BitVec 2) ++ n ++ a ++ d ++ major ++ kind
/-- The prefix word (Table 2.11). -/
def packP (rnd : BitVec 3) (sat : BitVec 1) (fmt : BitVec 3) (ftz : BitVec 1) (te : BitVec 4) : W32 :=
  rnd ++ sat ++ fmt ++ ftz ++ te ++ (0 : BitVec 12) ++ (0 : BitVec 6) ++ (2 : BitVec 2)

/-- Type codes (R43). -/
def VTy.code : VTy → BitVec 3
  | .f32 => 0 | .bf16 => 1 | .f16 => 2 | .i32 => 3 | .n32 => 4 | .i16 => 5 | .i8 => 6 | .n8 => 7
/-- Condition codes (R52). -/
def Cond.code : Cond → BitVec 3
  | .eq => 0 | .ne => 1 | .lt => 2 | .ge => 3 | .ltn => 4 | .gen => 5
/-- `vcmp` selectors (R53). -/
def VCond.code : VCond → BitVec 2
  | .eq => 0 | .ne => 1 | .lt => 2 | .le => 3
/-- Width codes (R55). -/
def Size.code : Size → BitVec 2
  | .b8 => 0 | .b16 => 1 | .b32 => 2 | .b64 => 3
/-- Posted-atomic type codes (R55). -/
def PTy.code : PTy → BitVec 2
  | .i32 => 0 | .i64 => 1 | .f32 => 2

/-- One bit. -/
def bit (b : Bool) : BitVec 1 := if b then 1 else 0

/-- Three-register A-space word of major 0x00 or 0x01. -/
def encR0 (mj : BitVec 6) (fn d a b : BitVec 5) : List W32 := [packR 0 fn b a d mj 0]
/-- Multiply or divide word. -/
def encMul (mj : BitVec 6) (fn : BitVec 5) (look : BitVec 4) (d a b : Reg) : List W32 := [packR look fn b a d mj 0]
/-- Vector word of format V. -/
def encV (mj : BitVec 6) (sub : BitVec 2) (m : Mask) (t : VTy) (d a b : Reg) : List W32 :=
  [packV m.reg (bit m.zero) t.code sub b a d mj 1]
/-- Tile word of format X. -/
def encT (mj : BitVec 6) (fn6 : BitVec 6) (look acc : BitVec 4) (a d : Reg) : List W32 := [packX look acc fn6 a d mj 1]
/-- System word of format R. -/
def encS (mj : BitVec 6) (fn b a d : BitVec 5) (look : BitVec 4) : List W32 := [packR look fn b a d mj 1]

/-- The words of an instruction, from the encoding tables of chapters 02, 05, 06 and 07. A device event has
no words. -/
def encode : Instr → List W32
  | .add d a b => encR0 0x00 0 d a b
  | .sub d a b => encR0 0x00 1 d a b
  | .band d a b => encR0 0x00 2 d a b
  | .bor d a b => encR0 0x00 3 d a b
  | .bxor d a b => encR0 0x00 4 d a b
  | .bandn d a b => encR0 0x00 5 d a b
  | .shl d a b => encR0 0x00 6 d a b
  | .shr d a b => encR0 0x00 7 d a b
  | .sra d a b => encR0 0x00 8 d a b
  | .rol d a b => encR0 0x00 9 d a b
  | .min d a b => encR0 0x00 10 d a b
  | .max d a b => encR0 0x00 11 d a b
  | .minn d a b => encR0 0x00 12 d a b
  | .maxn d a b => encR0 0x00 13 d a b
  | .slt d a b => encR0 0x00 14 d a b
  | .sltn d a b => encR0 0x00 15 d a b
  | .seq d a b => encR0 0x00 16 d a b
  | .sel d a b => encR0 0x00 17 d a b
  | .clz d a => encR0 0x00 18 d a 0
  | .ctz d a => encR0 0x00 19 d a 0
  | .pop d a => encR0 0x00 20 d a 0
  | .bswap d a => encR0 0x00 21 d a 0
  | .addW d a b => encR0 0x01 0 d a b
  | .subW d a b => encR0 0x01 1 d a b
  | .bandW d a b => encR0 0x01 2 d a b
  | .borW d a b => encR0 0x01 3 d a b
  | .bxorW d a b => encR0 0x01 4 d a b
  | .bandnW d a b => encR0 0x01 5 d a b
  | .shlW d a b => encR0 0x01 6 d a b
  | .shrW d a b => encR0 0x01 7 d a b
  | .sraW d a b => encR0 0x01 8 d a b
  | .rolW d a b => encR0 0x01 9 d a b
  | .minW d a b => encR0 0x01 10 d a b
  | .maxW d a b => encR0 0x01 11 d a b
  | .minnW d a b => encR0 0x01 12 d a b
  | .maxnW d a b => encR0 0x01 13 d a b
  | .sltW d a b => encR0 0x01 14 d a b
  | .sltnW d a b => encR0 0x01 15 d a b
  | .seqW d a b => encR0 0x01 16 d a b
  | .selW d a b => encR0 0x01 17 d a b
  | .clzW d a => encR0 0x01 18 d a 0
  | .ctzW d a => encR0 0x01 19 d a 0
  | .popW d a => encR0 0x01 20 d a 0
  | .bswapW d a => encR0 0x01 21 d a 0
  | .mul look d a b => encMul 0x02 0 look d a b
  | .mulh look d a b => encMul 0x02 1 look d a b
  | .mulhn look d a b => encMul 0x02 2 look d a b
  | .div look d a b => encMul 0x02 3 look d a b
  | .divn look d a b => encMul 0x02 4 look d a b
  | .rem look d a b => encMul 0x02 5 look d a b
  | .remn look d a b => encMul 0x02 6 look d a b
  | .mulW look d a b => encMul 0x03 0 look d a b
  | .mulhW look d a b => encMul 0x03 1 look d a b
  | .mulhnW look d a b => encMul 0x03 2 look d a b
  | .divW look d a b => encMul 0x03 3 look d a b
  | .divnW look d a b => encMul 0x03 4 look d a b
  | .remW look d a b => encMul 0x03 5 look d a b
  | .remnW look d a b => encMul 0x03 6 look d a b
  | .addImm d a imm => [packI imm a d 0x04 0]
  | .bandImm d a imm => [packI imm a d 0x05 0]
  | .borImm d a imm => [packI imm a d 0x06 0]
  | .bxorImm d a imm => [packI imm a d 0x07 0]
  | .sltImm d a imm => [packI imm a d 0x08 0]
  | .sltnImm d a imm => [packI imm a d 0x09 0]
  | .shlImm d a n => [packI ((0 : BitVec 6) ++ (0 : BitVec 2) ++ n) a d 0x0A 0]
  | .shrImm d a n => [packI ((0 : BitVec 6) ++ (1 : BitVec 2) ++ n) a d 0x0A 0]
  | .sraImm d a n => [packI ((0 : BitVec 6) ++ (2 : BitVec 2) ++ n) a d 0x0A 0]
  | .rolImm d a n => [packI ((0 : BitVec 6) ++ (3 : BitVec 2) ++ n) a d 0x0A 0]
  | .addWImm d a imm => [packI imm a d 0x0b 0]
  | .extI d a lenm pos => [packI ((1 : BitVec 2) ++ lenm ++ pos) a d 0x0C 0]
  | .extN d a lenm pos => [packI ((0 : BitVec 2) ++ lenm ++ pos) a d 0x0C 0]
  | .ins d a lenm pos => [packI ((2 : BitVec 2) ++ lenm ++ pos) a d 0x0C 0]
  | .lea d a b sh => [packR 0 ((0 : BitVec 2) ++ sh) b a d 0x0D 0]
  | .lpc d off => [packL off d 0x0E 0]
  | .ldI8 look d a imm => [packIL look imm a d 0x10 0]
  | .ldN8 look d a imm => [packIL look imm a d 0x11 0]
  | .ldI16 look d a imm => [packIL look imm a d 0x12 0]
  | .ldN16 look d a imm => [packIL look imm a d 0x13 0]
  | .ldI32 look d a imm => [packIL look imm a d 0x14 0]
  | .ldN32 look d a imm => [packIL look imm a d 0x15 0]
  | .ld64 look d a imm => [packIL look imm a d 0x16 0]
  | .st8 d a imm => [packI imm a d 0x18 0]
  | .st16 d a imm => [packI imm a d 0x19 0]
  | .st32 d a imm => [packI imm a d 0x1a 0]
  | .st64 d a imm => [packI imm a d 0x1b 0]
  | .ldp look d a b off => [packR look off b a d 0x1C 0]
  | .stp d a b off => [packR 0 off b a d 0x1D 0]
  | .bCc c a b off => [packB off c.code a b 0x20 0]
  | .dbnz a off => [packB off 0 a 0 0x21 0]
  | .j off => [packJ off 0x22 0]
  | .call off => [packJ off 0x23 0]
  | .jr a => [packR 0 0 0 a 0 0x24 0]
  | .callr a => [packR 0 0 0 a 0 0x25 0]
  | .li d imm => [packI (imm.extractLsb' 0 14) 0 d 0x00 3, imm.extractLsb' 14 32]
  | .lih d imm => [packI 0 0 d 0x01 3, imm]
  | .addl d a imm => [packI 0 a d 0x02 3, imm]
  | .bCcLong c a b off => [packB 0 c.code a b 0x08 3, off]
  | .jLong off => [packJ 0 0x09 3, off]
  | .callLong off => [packJ 0 0x0A 3, off]
  | .pfx p => [packP p.rnd (bit p.sat) p.fmt (bit p.ftz) p.te]
  | .vadd m t d a b => encV 0x00 0 m t d a b
  | .vsub m t d a b => encV 0x01 0 m t d a b
  | .vmul m t d a b => encV 0x02 0 m t d a b
  | .vmin m t d a b => encV 0x03 0 m t d a b
  | .vmax m t d a b => encV 0x04 0 m t d a b
  | .vfma m t d a b => encV 0x05 0 m t d a b
  | .vfms m t d a b => encV 0x06 0 m t d a b
  | .vdiv m t d a b => encV 0x07 0 m t d a b
  | .vabs m t d a => encV 0x08 0 m t d a 0
  | .vneg m t d a => encV 0x08 0 m t d a 1
  | .vsqrt m t d a => encV 0x08 0 m t d a 2
  | .vrsq m t d a => encV 0x08 0 m t d a 3
  | .vexp2 m t d a => encV 0x08 0 m t d a 4
  | .vlog2 m t d a => encV 0x08 0 m t d a 5
  | .vrcp m t d a => encV 0x08 0 m t d a 6
  | .vand m t d a b => encV 0x09 0 m t d a b
  | .vor m t d a b => encV 0x09 1 m t d a b
  | .vxor m t d a b => encV 0x09 2 m t d a b
  | .vandn m t d a b => encV 0x09 3 m t d a b
  | .vshl m t d a b => encV 0x0A 0 m t d a b
  | .vshr m t d a b => encV 0x0A 1 m t d a b
  | .vsra m t d a b => encV 0x0A 2 m t d a b
  | .vcmp c m t d a b => encV 0x0B c.code m t d a b
  | .vsel vm t d a b => encV 0x0C 0 ⟨vm, false⟩ t d a b
  | .mand d a b => [packV 0 0 0 0 b a d 0x0D 1]
  | .mor d a b => [packV 0 0 1 0 b a d 0x0D 1]
  | .mxor d a b => [packV 0 0 2 0 b a d 0x0D 1]
  | .mnot d a => [packV 0 0 3 0 0 a d 0x0D 1]
  | .mpop d a => [packV 0 0 4 0 0 a d 0x0D 1]
  | .mfirst d a => [packV 0 0 5 0 0 a d 0x0D 1]
  | .vcvt m t s d a => encV 0x0E 0 m t d a ((0 : BitVec 2) ++ s.code)
  | .vcvtFromView m t k d a => encV 0x0E 1 m t d a ((0 : BitVec 2) ++ k)
  | .vcvtToView m t k d a => encV 0x0E 2 m t d a ((0 : BitVec 2) ++ k)
  | .vpack m t d a b => encV 0x0F 0 m t d a b
  | .vunpack m t d a h => encV 0x0F 1 m t d a ((0 : BitVec 4) ++ bit h)
  | .vperm m t d a b => encV 0x10 0 m t d a b
  | .vslide m t d a b => encV 0x11 0 m t d a b
  | .vbcast m t d a => encV 0x12 0 m t d a 0
  | .vextr t d a b => encV 0x12 1 ⟨0, false⟩ t d a b
  | .vins t d a b => encV 0x12 2 ⟨0, false⟩ t d a b
  | .vidx m t d a b => encV 0x13 0 m t d a b
  | .vredsum vm t d a => encV 0x14 0 ⟨vm, false⟩ t d a 0
  | .vredmax vm t d a => encV 0x14 1 ⟨vm, false⟩ t d a 0
  | .vredmin vm t d a => encV 0x14 2 ⟨vm, false⟩ t d a 0
  | .vargmax vm t d a b => encV 0x15 0 ⟨vm, false⟩ t d a b
  | .vtopk vm t d a b => encV 0x16 0 ⟨vm, false⟩ t d a b
  | .vbucket vm t d a => encV 0x17 0 ⟨vm, false⟩ t d a 0
  | .vquant t d a => encV 0x18 0 ⟨0, false⟩ t d a 0
  | .vscale m t d a b => encV 0x19 0 m t d a b
  | .vsrnd m t d a => encV 0x1A 0 m t d a 0
  | .vsrndView m k d a => encV 0x1A 0 m .f32 d a ((0 : BitVec 2) ++ k)
  | .vmov m t d a => encV 0x1B 0 m t d a 0
  | .vli m t d imm => [packV m.reg (bit m.zero) t.code 0 0 0 d 0x10 3, imm]
  | .vld look m d a imm => [packVM look m.reg (bit m.zero) imm a d 0x1C 1]
  | .vldb look d a imm => [packVM look 0 1 imm a d 0x1C 1]
  | .vst vm d a imm => [packVM 0 vm 0 imm a d 0x1D 1]
  | .vlds m t d a b => encV 0x1E 0 m t d a b
  | .vsts m t d a b => encV 0x1E 1 m t d a b
  | .vgather m t d a b => encV 0x1F 0 m t d a b
  | .vscatter m t d a b => encV 0x1F 1 m t d a b
  | .tmma look acc a b => encT 0x20 0 look acc a b
  | .tmmat look acc a b => encT 0x20 1 look acc a b
  | .tzero look acc => encT 0x21 0 look acc 0 0
  | .tld look acc a => encT 0x22 0 look acc a 0
  | .tst look acc a => encT 0x23 0 look acc a 0
  | .tfetch look a => encT 0x24 0 look 0 a 0
  | .tunpin look a => encT 0x25 0 look 0 a 0
  | .tgeom look n a => [packIL look n a 0 0x26 1]
  | .tadd look acc src => encT 0x27 ((0 : BitVec 2) ++ src) look acc 0 0
  | .tscale look acc va => encT 0x28 0 look acc va 0
  | .trget look acc d a => encT 0x29 0 look acc a d
  | .trput look acc a b => encT 0x29 1 look acc a b
  | .trmax look acc d => encT 0x2A 0 look acc 0 d
  | .trsum look acc d => encT 0x2A 1 look acc 0 d
  | .tquant look acc a => encT 0x2b 0 look acc a 0
  | .kadd a b => encS 0x2c 0 b a 0 0
  | .kaddi a imm => [packI 0 a 0 0x11 3, imm]
  | .kwait a b => encS 0x2d 0 b a 0 0
  | .kread look d a => encS 0x2E 0 0 a d look
  | .kdraw look d a => encS 0x2F 0 0 a d look
  | .kset a b => encS 0x30 0 b a 0 0
  | .rld look w d a => encS 0x31 (w.code ++ (0 : BitVec 3)) 0 a d look
  | .rst w a b => encS 0x31 (w.code ++ (1 : BitVec 3)) b a 0 0
  | .radd look w d a b => encS 0x31 (w.code ++ (2 : BitVec 3)) b a d look
  | .raddPosted w a b => encS 0x31 (w.code ++ (2 : BitVec 3)) b a 0 0
  | .rcas look w d a b => encS 0x31 (w.code ++ (3 : BitVec 3)) b a d look
  | .rswp look w d a b => encS 0x31 (w.code ++ (4 : BitVec 3)) b a d look
  | .padd t a b => encS 0x32 ((0 : BitVec 1) ++ t.code ++ (0 : BitVec 2)) b a 0 0
  | .pmin t a b => encS 0x32 ((0 : BitVec 1) ++ t.code ++ (1 : BitVec 2)) b a 0 0
  | .pmax t a b => encS 0x32 ((0 : BitVec 1) ++ t.code ++ (2 : BitVec 2)) b a 0 0
  | .por t a b => encS 0x32 ((0 : BitVec 1) ++ t.code ++ (3 : BitVec 2)) b a 0 0
  | .cut => encS 0x33 0 0 0 0 0
  | .hold => encS 0x33 1 0 0 0 0
  | .unhold => encS 0x33 2 0 0 0 0
  | .chk => encS 0x33 3 0 0 0 0
  | .xer look n d => [packIL look n 0 d 0x34 1]
  | .xeGo look d => [packIL look 0x10A 0 d 0x34 1]
  | .ceGo look d => [packIL look 0x208 0 d 0x34 1]
  | .xew n a => [packIL 0 n a 0 0x35 1]
  | .ceJoin a => [packIL 0 0x20A a 0 0x35 1]
  | .compose d a => encS 0x36 0 0 a d 0
  | .release => encS 0x36 1 0 0 0 0
  | .bq d => encS 0x36 2 0 0 d 0
  | .launch a => encS 0x37 0 0 a 0 0
  | .nop => encS 0x38 0 0 0 0 0
  | .trap n => encS 0x38 1 n 0 0 0
  | .tret => encS 0x38 2 0 0 0 0
  | .brk n => encS 0x38 3 n 0 0 0
  | .halt => encS 0x38 4 0 0 0 0
  | .idle => encS 0x38 5 0 0 0 0
  | .sget n d => [packC n 0 d 0x39 1]
  | .sset n a => [packC n a 0 0x3A 1]
  | .lflush a => encS 0x3B 0 0 a 0 0
  | .linv a => encS 0x3B 1 0 a 0 0
  | .tlbinv a => encS 0x3B 2 0 a 0 0
  | .hsave a => encS 0x3C 0 0 a 0 0
  | .hload a => encS 0x3C 1 0 a 0 0
  | .xfence => encS 0x3D 0 0 0 0 0
  | .pendingDrain _ => []
  | .chunkGrant _ => []
  | .soloSlotGrant _ => []
  | .resultReturn _ => []
  | .steppingReexecution _ => []
  | .trapEntry _ => []
  | .quantumEnd _ => []
  | .counterAdd _ => []
  | .checkAndArm _ => []
  | .counterDraw _ => []
  | .counterSet _ => []
  | .spillRetry _ => []
  | .remoteOperation _ => []
  | .postedAtomic _ => []
  | .copyTransferStart _ => []
  | .copyBlockWrite _ _ => []
  | .collectiveStart _ => []
  | .collectivePartial _ _ => []
  | .collectiveComplete _ => []
  | .heartbeatSend _ => []
  | .heartbeat _ => []
  | .heartbeatTimeout _ => []
  | .dieHeartbeatMiss _ => []
  | .dieFatalError _ => []
  | .suspect _ => []
  | .propose _ _ => []
  | .ack _ _ _ => []
  | .viewCommit _ _ => []
  | .proposalTimeout _ => []
  | .holdTimeout _ => []
  | .force _ => []
  | .joinreq _ _ => []
  | .joinack _ _ => []
  | .flitReceive _ _ => []
  | .linkReplay _ _ => []
  | .portDown _ => []
  | .portUp _ => []
  | .hrd _ _ => []
  | .hwr _ _ _ => []
  | .hcadd _ _ => []
  | .peerReadTimeout _ => []
  | .pageWalk _ _ => []
  | .notificationRecord _ => []
  | .writeBlockResume _ => []
  | .tfetchFill _ => []
  | .patrolScrub _ _ => []
  | .cethreshReached _ => []
  | .liveRetirement _ => []
  | .queuePoll _ => []
  | .recordFetch _ => []
  | .modeChange _ => []
  | .footprintReserve _ => []
  | .nodeReady _ _ => []
  | .instanceDispatch _ _ _ _ _ => []
  | .launchRetire _ => []
  | .preempt _ _ _ => []
  | .huskResume _ _ => []
  | .twinThirdRun _ _ => []
  | .droopStretch _ => []
  | .clockModeChange _ => []
  | .elasticReturn _ => []
  | .powerSample _ _ => []
  | .dispatchThrottle => []
  | .junctionTrip _ => []
  | .idleDepthEntry _ => []
  | .coreWake _ => []
  | .watchDelivery _ => []
  | .debugHalt _ => []
  | .debugResume _ => []
  | .dbgstopStop _ => []
  | .dbgstopResume _ => []
  | .quiesceTimeout _ => []
  | .dbgrecRead => []
  | .dbgstatRead => []
  | .debugStateWrite _ _ _ => []
  | .watchpointArm _ _ _ => []
  | .traceArm _ => []
  | .traceTrigger _ => []
  | .replayDivergence _ => []
  | .dumpRequest _ => []
  | .registerWrite _ _ => []
  | .coldStart _ => []
  | .warmStart _ => []
  | .keepMemoryWarmStart _ => []
  | .powerLoss => []
  | .keySlotLoad _ _ => []
  | .keySlotClear _ => []
  | .storeWrite _ => []
  | .groupEntryCreate _ _ _ _ => []
  | .unlockToken _ => []
  | .launchTerminate _ => []
  | .unallocatedEncoding _ _ => []
  | .instructionFetchFault _ _ _ => []
  | .haltedStrandRestart _ => []
  | .correctedErrorWindow => []
  | .flashSlotWrite _ _ _ => []
  | .clockModeChangeEnd _ => []

end Sys2Proof
end

