-- ==== Sys2Proof/Machine/Fetch.lean ====
section
/-! DEFINITION. Instruction fetch (R58), what a strand does at a boundary before it fetches (R332), and the
smallest launch that lets a strand run (for `withFetchWord`). -/

namespace Sys2Proof.Machine

/-- Notes a translation in the strand's open chunk, which begins with its first fetch (R257). -/
def notePageOf (s : State) (c : Sid) (p : Page) : State :=
  let s := openFor s c
  s.setChunk c { chunkOf s c with pages := (chunkOf s c).pages.insert p }

/-- Reads the instruction word at `va` for a strand, through its fetch member: committed memory, through its context, with
execute permission (R58, R299). Faults carry code and SUB. -/
def fetchWord (s : State) (c : Sid) (va : Word) : Except (Nat × Nat) (W32 × State) :=
  if bits va 63 60 ≠ 0 ∨ 0x0C00000000000000 ≤ bits va 59 0 then .error (5, 0)
  else
    match resolve s (fetchCore s c va) (s.ctx c) va .fetch (!(s.strand c).arch.priv) false with
    | .error e => .error e
    | .ok (p, s) =>
      let slot := bits p.leaf 15 8
      let s := notePageOf s c (p.page (s.ctx c) va)
      if leafTier p.leaf == 2 then
        if (s.strand c).peerLate || unreachable s p.key then .error (0x12, 3) else
        .ok (BitVec.ofNat 32 (leNat ((upto p.key 4).map fun k => Config.peerByte s.draws k)), askPeer s p.key)
      else match badLine s slot (upto p.key 4) with
        | some .poison => .error (0x12, if slot = 0 then 0 else 2)
        | some .tag => .error (0x13, 0)
        | none => .ok (BitVec.ofNat 32 (leNat ((upto 0 4).map fun i => committedByte s slot (p.key + i))), s)

/-- What a fetch at a strand's next instruction finds. -/
inductive Fetched where
  | instr (i : Instr)
  | illop (sub : BitVec 4) (val : Word)
  | fault (cause : BitVec 8) (sub : BitVec 4) (val : Word)
deriving DecidableEq, Repr

/-- TRAPVAL of a fault of the fetch at an address: INTEG has syndrome class 1 (R339). -/
def fetchVal (e : Nat × Nat) (va : Word) : Word := if e.1 = 0x13 then va ||| 0x8000000000000000 else va

/-- A fetch fault with its address. -/
def fetchFault (e : Nat × Nat) (va : Word) : Fetched := .fault (BitVec.ofNat 8 e.1) (BitVec.ofNat 4 e.2) (fetchVal e va)

/-- The key slot of the page of an address is flagged, if its fetch has met a tag that fails (R340). -/
def flagFetch (s : State) (c : Sid) (code : Nat) (val : Word) : State :=
  let va := val &&& 0x7FFFFFFFFFFFFFFF
  if code ≠ 0x13 then s
  else match resolve s (fetchCore s c va) (s.ctx c) va .fetch false false with
    | .ok (p, _) => flagSlot s (bits p.leaf 15 8)
    | .error _ => s

/-- The address that a strand fetches next: after its prefix word when one is latched. -/
def fetchPc (st : Strand) : Word :=
  match st.opened with
  | some ch => if ch.pfx.isSome then st.arch.pc + 4 else st.arch.pc
  | none => st.arch.pc

/-- The next word of the strand: after a prefix the one that was fetched and checked with it (R48). -/
def nextWord (s : State) (c : Sid) : Except (Nat × Nat) (W32 × State) :=
  match (s.strand c).opened.bind fun ch => ch.pair with
  | some w => .ok (w, s)
  | none => fetchWord s c (fetchPc (s.strand c))

/-- Fetches and decodes the strand's next instruction; the extension word only after the first word has passed
(R44, R57). -/
def fetchNext (s : State) (c : Sid) : Fetched × State :=
  let pc := fetchPc (s.strand c)
  match nextWord s c with
  | .error e => (fetchFault e pc, s)
  | .ok (w, s) =>
    match decode [w] with
    | .instr i _ => (.instr i, s)
    | .illop sub => (.illop sub (w.zeroExtend 64), s)
    | .more =>
      match fetchWord s c (pc + 4) with
      | .error e => (fetchFault e (pc + 4), s)
      | .ok (x, s) =>
        match decode [w, x] with
        | .instr i _ => (.instr i, s)
        | .illop sub => (.illop sub (w.zeroExtend 64), s)
        | .more => (.illop 0 (w.zeroExtend 64), s)

/-- What stands at a strand's next issue (R11, R332). -/
inductive Ready where
  /-- it issues its next instruction. -/
  | go
  /-- it takes a trap at this boundary. -/
  | trap
  /-- it stops or parks at this boundary. -/
  | rest
  /-- it cannot issue now. -/
  | no
deriving DecidableEq, Repr

/-- Does the strand exist and is nothing holding its core (R217, R295, R346, R352)? -/
def awake (s : State) (c : Sid) : Bool :=
  let st := s.strand c
  hubReady s && !st.stopped && !st.parked
  && (s.cluster (clusterOf c.core)).changing.isNone && !(s.die (dieOf c.core)).lost && !(s.core c.core).asleep
  && (match s.launch st.lid with | some x => !x.steady || (s.cluster (clusterOf c.core)).steady | none => true)

/-- May the leader of a bunch start, all other member strands parked (R295)? -/
def membersParked (s : State) (c : Sid) : Bool :=
  match leads s c with
  | none => true
  | some b => (upto 0 b.w).all fun k =>
      let l := c.core / 16 * 16 + b.c0 + k
      (s.core l).strands.all fun p => (⟨l, p.1⟩ : Sid) == c || p.2.parked || p.2.run == .none

/-- Does a store of the strand wait at a write-blocked page: its translation is still there, and no request reaches the
strand (R260) or its chunk is solo (R234)? -/
def storeWaits (s : State) (st : Strand) : Bool :=
  match st.blocked with
  | some (_, gone) => !gone && ((match st.opened with | some ch => ch.solo | none => false)
      || (!takeable st && (ordered s st || !asked st)))
  | none => false

/-- Does the second copy of a twin wait for the third run of its chunk, which the first copy makes (R292)? -/
def thirdWaits (s : State) (st : Strand) : Bool :=
  match st.twin with | some (p, false) => (s.strand p).third.isSome | _ => false

/-- What the strand does when it is its turn (R11, R231, R234, R260, R332). Log 94 (DEDUCED). -/
def readiness (s : State) (c : Sid) : Ready :=
  let st := s.strand c
  if !awake s c || thirdWaits s st then .no
  else match st.run with
    | .kwait => if takeable st && st.waiting.isEmpty then .trap else .no
    | .ready =>
      if st.sync.isSome then (if st.waiting.isEmpty then .trap else .no)
      else match st.opened with
      | some _ => if storeWaits s st then .no else .go
      | none =>
        if takeable st then (if st.waiting.isEmpty then .trap else .no)
        else if st.waiting.any fun ch => ch.watch.isSome then .no
        else if st.preReq && !st.soloHeld then .no
        else if st.debugReq.isSome && !st.soloHeld then (if st.waiting.isEmpty || ordered s st then .rest else .no)
        else if st.parkReq && !st.soloHeld then (if st.waiting.isEmpty then .rest else .no)
        else if (st.solo.isSome && !st.soloHeld) || st.soloHeldBack then .no
        else if !ordered s st && decide (2 ≤ st.waiting.length) then .no
        else if membersParked s c then .go else .no
    | _ => .no

/-- A launch with one strand and nothing else: what `withFetchWord` gives a strand that no launch has started.
Log 2 (DESIGN CHOICE). -/
def bareLaunch (lid core : Nat) : Launch :=
  { lid := lid, queue := none, parent := none, ctx := 0, recVA := 0, prio := 0, steady := false, det := 0, nstr := 1,
    nacc := 16, anchor := core, placeBase := 0, twinBase := 0, arg := 0, lenm := 15, fcsr := 1, seed := 0, tvec := 0,
    quantum := 4096, viewg := 0, levels := [], fmt := [], retctr := 0, retamt := 0, nodes := [], cores := [core],
    running := [], husks := [], halted := [] }

/-- The strand `c` able to issue at once: as it is if it exists, without open or waiting chunks; else strand of a
bare launch that has taken its core. Log 2 (DESIGN CHOICE). -/
def ableToIssue (s : State) (c : Sid) : State :=
  let st := s.strand c
  if st.run = .none then
    let s := { s with lu := { s.lu with launches := fset s.lu.launches s.lu.nextLid (bareLaunch s.lu.nextLid c.core),
                                        nextLid := s.lu.nextLid + 1 } }
    let s := s.setCore c.core { s.core c.core with nstr := 1, nacc := 16, claim := some (s.lu.nextLid - 1), asleep := false }
    s.setStrand c { Strand.reset with run := .ready, lid := s.lu.nextLid - 1,
                                      arch := { Arch.reset with pc := 0x10000 } }
  else
    let s := s.setCore c.core { s.core c.core with asleep := false }
    s.setStrand c { st with run := .ready, opened := none, waiting := [], sync := none, pend := [], debugReq := none,
                            parkReq := false, preReq := false, stopped := false, parked := false, solo := none, blocked := none,
                            await := none, kw := none }

/-- A leaf that maps a page of local memory with every permission at die scope (Table 9.4).
Log 2 (DESIGN CHOICE). -/
def openLeaf (page : Nat) : Word := BitVec.ofNat 64 (0xFD00000000000000 + page % 0x100000 * 0x10000)

/-- Places instruction bytes at the strand's next fetch: a translation of its page in its core's TLB, and the bytes
behind it. Log 2 (DESIGN CHOICE). -/
def placeCode (s : State) (c : Sid) (bytes : List Byte) : State :=
  let pc := (s.strand c).arch.pc
  let page := bits pc 59 16
  let co := s.core c.core
  let ctx := s.ctx c
  let rest := co.tlb.filter fun e => !(e.ctx == ctx && e.page / 8192 == page / 8192)
  let s := s.setCore c.core { co with tlb := ⟨ctx, page, false, openLeaf page⟩ :: rest }
  { s with mem := s.mem.store (page % 0x100000 * 0x10000 + bits pc 15 0) bytes }

end Sys2Proof.Machine
end

