-- ==== Sys2Proof/Machine/Scalar.lean ====
section
/-! DEFINITION. The scalar unit (chapter 04) and the prefix word (R46 to R48): one meaning per instruction over a
few shared shapes. -/

namespace Sys2Proof.Machine

/-! ## Values (Table 4.3) -/

/-- gb with every bit inverted, ANDed with ga. -/
def andn {n : Nat} (x y : BitVec n) : BitVec n := x &&& ~~~y

/-- Shift amounts: the low 6 or 5 bits of the second operand (R99, R100). -/
def shiftBy {n : Nat} (y : BitVec n) : Nat := y.toNat % n

def vShl {n : Nat} (x y : BitVec n) : BitVec n := x <<< shiftBy y
def vShr {n : Nat} (x y : BitVec n) : BitVec n := x >>> shiftBy y
def vSra {n : Nat} (x y : BitVec n) : BitVec n := x.sshiftRight (shiftBy y)
def vRol {n : Nat} (x y : BitVec n) : BitVec n := x.rotateLeft (shiftBy y)
def vMin {n : Nat} (x y : BitVec n) : BitVec n := if x.slt y then x else y
def vMax {n : Nat} (x y : BitVec n) : BitVec n := if x.slt y then y else x
def vMinn {n : Nat} (x y : BitVec n) : BitVec n := if x.ult y then x else y
def vMaxn {n : Nat} (x y : BitVec n) : BitVec n := if x.ult y then y else x
def vSlt {n : Nat} (x y : BitVec n) : BitVec n := if x.slt y then 1 else 0
def vSltn {n : Nat} (x y : BitVec n) : BitVec n := if x.ult y then 1 else 0
def vSeq {n : Nat} (x y : BitVec n) : BitVec n := if x = y then 1 else 0

/-- Leading zero bits below bit `k`. -/
def clzFrom {n : Nat} (x : BitVec n) : Nat → Nat
  | 0 => 0
  | k + 1 => if x.getLsbD k then 0 else 1 + clzFrom x k

/-- Trailing zero bits among the `k` bits from bit `i`. -/
def ctzFrom {n : Nat} (x : BitVec n) (i : Nat) : Nat → Nat
  | 0 => 0
  | k + 1 => if x.getLsbD i then 0 else 1 + ctzFrom x (i + 1) k

/-- One bits among the low `k`. -/
def popFrom {n : Nat} (x : BitVec n) : Nat → Nat
  | 0 => 0
  | k + 1 => (if x.getLsbD k then 1 else 0) + popFrom x k

def vClz {n : Nat} (x : BitVec n) : BitVec n := BitVec.ofNat n (clzFrom x n)
def vCtz {n : Nat} (x : BitVec n) : BitVec n := BitVec.ofNat n (ctzFrom x 0 n)
def vPop {n : Nat} (x : BitVec n) : BitVec n := BitVec.ofNat n (popFrom x n)

/-- Bytes in reverse order. -/
def vBswap {n : Nat} (x : BitVec n) : BitVec n := BitVec.ofNat n (leNat (leBytes (n / 8) x.toNat).reverse)

/-- The low 32 bits of a word. -/
def lo32 (x : Word) : W32 := x.truncate 32

/-- sext(x, 64). -/
def sx {n : Nat} (x : BitVec n) : Word := x.signExtend 64

/-! ## Shapes -/

/-- Two registers to one, 64 bits; of two poisoned sources a is reported. Log 113 (DESIGN CHOICE). -/
def alu (f : Word → Word → Word) (d a b : Reg) (s : State) : Res :=
  runBody s 4 fun s => do
    let x ← rg s a
    let y ← rg s b
    done (wg s d (f x y))

/-- Two registers to one, on bits 31:0 (R100). -/
def aluW (f : W32 → W32 → W32) (d a b : Reg) (s : State) : Res := alu (fun x y => sx (f (lo32 x) (lo32 y))) d a b s

/-- One register to one. -/
def unary (f : Word → Word) (d a : Reg) (s : State) : Res :=
  runBody s 4 fun s => do
    let x ← rg s a
    done (wg s d (f x))

/-- A register and an immediate. -/
def aluImm (f : Word → Word) (d a : Reg) (s : State) : Res := unary f d a s

/-- Writes the exact signed result `e` to gd on `n` bits: wrapped, or clamped under a prefix with sat, which sets SF
when it changes the value (R65, R101). -/
def putExact (n : Nat) (s : State) (d : Reg) (e : Int) : State :=
  let r := if (pfxOf s).sat then clampI n e else e
  stickSF (wg s d (sx (BitVec.ofInt n r))) (r != e)

/-- A saturating operation on `n` bits of two registers. -/
def aluSat (n : Nat) (f : Int → Int → Int) (d a b : Reg) (s : State) : Res :=
  runBody s 4 fun s => do
    let x ← rg s a
    let y ← rg s b
    done (putExact n s d (f (x.truncate n).toInt (y.truncate n).toInt))

/-- A saturating operation on `n` bits of a register, in an instruction of `len` bytes. -/
def unarySat (n len : Nat) (f : Int → Int) (d a : Reg) (s : State) : Res :=
  runBody s len fun s => do
    let x ← rg s a
    done (putExact n s d (f (x.truncate n).toInt))

/-- A saturating left shift on `n` bits of two registers: the exact result is x × 2^amount (R101). -/
def shlSat (n : Nat) (d a b : Reg) (s : State) : Res :=
  runBody s 4 fun s => do
    let x ← rg s a
    let y ← rg s b
    done (putExact n s d ((x.truncate n).toInt * (2 ^ (y.toNat % n) : Nat)))

/-- sel: gd is the condition (R99). -/
def selBody (n : Nat) (d a b : Reg) (s : State) : Res :=
  runBody s 4 fun s => do
    let c ← rg s d
    let x ← rg s a
    let y ← rg s b
    done (wg s d (sx (if (c.truncate n : BitVec n) ≠ 0 then (x.truncate n : BitVec n) else y.truncate n)))

/-- A multiplication half on `n` bits (R106). -/
def mulHigh (n : Nat) (signed : Bool) (look : BitVec 4) (d a b : Reg) (s : State) : Res :=
  runBody s 4 fun s => do
    let x ← rg s a
    let y ← rg s b
    let u : BitVec n := x.truncate n
    let v : BitVec n := y.truncate n
    let p : Int := if signed then u.toInt * v.toInt else (u.toNat : Int) * v.toNat
    doneLate s d.toNat ((sx (BitVec.ofInt n (p / (2 ^ n : Nat)))).zeroExtend 512) look

/-- mul on `n` bits, saturating under sat (R101, R106). -/
def mulLow (n : Nat) (look : BitVec 4) (d a b : Reg) (s : State) : Res :=
  runBody s 4 fun s => do
    let x ← rg s a
    let y ← rg s b
    let e := (x.truncate n : BitVec n).toInt * (y.truncate n : BitVec n).toInt
    let r := if (pfxOf s).sat then clampI n e else e
    doneLate (stickSF s ((pfxOf s).sat && r != e)) d.toNat ((sx (BitVec.ofInt n r)).zeroExtend 512) look

/-- Quotient or remainder of Table 3.1 on `n` bits, and whether sat clamped it. -/
def divide (n : Nat) (signed rem sat : Bool) (x y : BitVec n) : BitVec n × Bool :=
  if y = 0 then (if rem then x else BitVec.allOnes n, false)
  else if signed then
    if rem then (BitVec.ofInt n (x.toInt.tmod y.toInt), false)
    else
      let q := x.toInt.tdiv y.toInt
      let r := if sat then clampI n q else q
      (BitVec.ofInt n r, r != q)
  else (if rem then x % y else x / y, false)

/-- A division (R66, R106): DIVZ when the divisor is 0 and the trap is enabled. -/
def divBody (n : Nat) (signed rem : Bool) (look : BitVec 4) (d a b : Reg) (s : State) : Res :=
  runBody s 4 fun s => do
    let x ← rg s a
    let y ← rg s b
    if (y.truncate n : BitVec n) = 0 ∧ divTraps s then raise 9 0 0
    else
      let r := divide n signed rem ((pfxOf s).sat && !rem) (x.truncate n) (y.truncate n)
      doneLate (stickSF s r.2) d.toNat ((sx r.1).zeroExtend 512) look

/-! ## Memory shapes -/

/-- A scalar load of `n` bytes (R108, R109, R112). -/
def loadBody (n : Nat) (signed : Bool) (look : BitVec 4) (d a : Reg) (imm : BitVec 10) (s : State) : Res :=
  runBody s 4 fun s => do
    let x ← rg s a
    let ea := x + sx imm * BitVec.ofNat 64 n
    checkScalar s ea n false (n == 8)
    match placeOf ea with
    | .counter l off =>
      let v ← snapshot s ea l (off / 8)
      doneLate s d.toNat (v.zeroExtend 512) look
    | _ =>
      let (bs, s) ← loadAt s ea n
      let v := leWord bs
      let v := if signed then sx (v.truncate (8 * n) : BitVec (8 * n)) else v
      doneLate s d.toNat (v.zeroExtend 512) look

/-- A scalar store of `n` bytes (R108, R110). -/
def storeBody (n : Nat) (d a : Reg) (imm : BitVec 14) (s : State) : Res :=
  runBody s 4 fun s => do
    let x ← rg s a
    let v ← rg s d
    let ea := x + sx imm
    checkScalar s ea n true false
    let s ← storeAt s ea (leBytes n v.toNat)
    done s

/-! ## Control shapes -/

/-- Does the condition hold (Table 4.6)? -/
def condHolds (c : Cond) (x y : Word) : Bool :=
  match c with
  | .eq => x == y | .ne => x != y | .lt => x.slt y | .ge => !x.slt y | .ltn => x.ult y | .gen => !x.ult y

/-- A compare and branch by `off` words in an instruction of `len` bytes (R114, R117). -/
def branchBody (len : Nat) (c : Cond) (a b : Reg) (off : Word) (s : State) : Res :=
  runBody s len fun s => do
    let x ← rg s a
    let y ← rg s b
    if condHolds c x y then doneJump s (s.arch.pc + off * 4) else done s

/-- A jump by `off` words that links when `link` (R116, R117). -/
def jumpBody (len : Nat) (link : Bool) (off : Word) (s : State) : Res :=
  runBody s len fun s =>
    let pc := s.arch.pc
    doneJump (if link then wg s 31 (pc + BitVec.ofNat 64 len) else s) (pc + off * 4)

/-- A jump to a register (R116, R58). -/
def jumpReg (link : Bool) (a : Reg) (s : State) : Res :=
  runBody s 4 fun s => do
    let x ← rg s a
    if bits x 1 0 ≠ 0 then raise 4 0 x
    else doneJump (if link then wg s 31 (s.arch.pc + 4) else s) x

/-! ## Meanings -/

/-- R99. -/
def execBand (d a b : Reg) (s : State) : Res := alu (· &&& ·) d a b s

/-- R100. -/
def execBandW (d a b : Reg) (s : State) : Res := aluW (· &&& ·) d a b s

/-- R99. -/
def execBor (d a b : Reg) (s : State) : Res := alu (· ||| ·) d a b s

/-- R100. -/
def execBorW (d a b : Reg) (s : State) : Res := aluW (· ||| ·) d a b s

/-- R99. -/
def execBxor (d a b : Reg) (s : State) : Res := alu (· ^^^ ·) d a b s

/-- R100. -/
def execBxorW (d a b : Reg) (s : State) : Res := aluW (· ^^^ ·) d a b s

/-- R99. -/
def execBandn (d a b : Reg) (s : State) : Res := alu andn d a b s

/-- R100. -/
def execBandnW (d a b : Reg) (s : State) : Res := aluW andn d a b s

/-- R99. -/
def execShr (d a b : Reg) (s : State) : Res := alu vShr d a b s

/-- R100. -/
def execShrW (d a b : Reg) (s : State) : Res := aluW vShr d a b s

/-- R99. -/
def execSra (d a b : Reg) (s : State) : Res := alu vSra d a b s

/-- R100. -/
def execSraW (d a b : Reg) (s : State) : Res := aluW vSra d a b s

/-- R99. -/
def execRol (d a b : Reg) (s : State) : Res := alu vRol d a b s

/-- R100. -/
def execRolW (d a b : Reg) (s : State) : Res := aluW vRol d a b s

/-- R99. -/
def execMin (d a b : Reg) (s : State) : Res := alu vMin d a b s

/-- R100. -/
def execMinW (d a b : Reg) (s : State) : Res := aluW vMin d a b s

/-- R99. -/
def execMax (d a b : Reg) (s : State) : Res := alu vMax d a b s

/-- R100. -/
def execMaxW (d a b : Reg) (s : State) : Res := aluW vMax d a b s

/-- R99. -/
def execMinn (d a b : Reg) (s : State) : Res := alu vMinn d a b s

/-- R100. -/
def execMinnW (d a b : Reg) (s : State) : Res := aluW vMinn d a b s

/-- R99. -/
def execMaxn (d a b : Reg) (s : State) : Res := alu vMaxn d a b s

/-- R100. -/
def execMaxnW (d a b : Reg) (s : State) : Res := aluW vMaxn d a b s

/-- R99. -/
def execSlt (d a b : Reg) (s : State) : Res := alu vSlt d a b s

/-- R100. -/
def execSltW (d a b : Reg) (s : State) : Res := aluW vSlt d a b s

/-- R99. -/
def execSltn (d a b : Reg) (s : State) : Res := alu vSltn d a b s

/-- R100. -/
def execSltnW (d a b : Reg) (s : State) : Res := aluW vSltn d a b s

/-- R99. -/
def execSeq (d a b : Reg) (s : State) : Res := alu vSeq d a b s

/-- R100. -/
def execSeqW (d a b : Reg) (s : State) : Res := aluW vSeq d a b s

/-- R99 to R101. -/
def execAdd (d a b : Reg) (s : State) : Res := aluSat 64 (· + ·) d a b s

/-- R99 to R101. -/
def execSub (d a b : Reg) (s : State) : Res := aluSat 64 (· - ·) d a b s

/-- R99 to R101. -/
def execShl (d a b : Reg) (s : State) : Res := shlSat 64 d a b s

/-- R99, R100. -/
def execSel (d a b : Reg) (s : State) : Res := selBody 64 d a b s

/-- R99 to R101. -/
def execAddW (d a b : Reg) (s : State) : Res := aluSat 32 (· + ·) d a b s

/-- R99 to R101. -/
def execSubW (d a b : Reg) (s : State) : Res := aluSat 32 (· - ·) d a b s

/-- R99 to R101. -/
def execShlW (d a b : Reg) (s : State) : Res := shlSat 32 d a b s

/-- R99, R100. -/
def execSelW (d a b : Reg) (s : State) : Res := selBody 32 d a b s

/-- R99. -/
def execClz (d a : Reg) (s : State) : Res := unary vClz d a s

/-- R100. -/
def execClzW (d a : Reg) (s : State) : Res := unary (fun x => sx (vClz (lo32 x))) d a s

/-- R99. -/
def execCtz (d a : Reg) (s : State) : Res := unary vCtz d a s

/-- R100. -/
def execCtzW (d a : Reg) (s : State) : Res := unary (fun x => sx (vCtz (lo32 x))) d a s

/-- R99. -/
def execPop (d a : Reg) (s : State) : Res := unary vPop d a s

/-- R100. -/
def execPopW (d a : Reg) (s : State) : Res := unary (fun x => sx (vPop (lo32 x))) d a s

/-- R99. -/
def execBswap (d a : Reg) (s : State) : Res := unary vBswap d a s

/-- R100. -/
def execBswapW (d a : Reg) (s : State) : Res := unary (fun x => sx (vBswap (lo32 x))) d a s

/-- R106. -/
def execMul (look : BitVec 4) (d a b : Reg) (s : State) : Res := mulLow 64 look d a b s

/-- R106. -/
def execMulh (look : BitVec 4) (d a b : Reg) (s : State) : Res := mulHigh 64 true look d a b s

/-- R106. -/
def execMulhn (look : BitVec 4) (d a b : Reg) (s : State) : Res := mulHigh 64 false look d a b s

/-- R66, R106. -/
def execDiv (look : BitVec 4) (d a b : Reg) (s : State) : Res := divBody 64 true false look d a b s

/-- R66, R106. -/
def execDivn (look : BitVec 4) (d a b : Reg) (s : State) : Res := divBody 64 false false look d a b s

/-- R66, R106. -/
def execRem (look : BitVec 4) (d a b : Reg) (s : State) : Res := divBody 64 true true look d a b s

/-- R66, R106. -/
def execRemn (look : BitVec 4) (d a b : Reg) (s : State) : Res := divBody 64 false true look d a b s

/-- R106. -/
def execMulW (look : BitVec 4) (d a b : Reg) (s : State) : Res := mulLow 32 look d a b s

/-- R106. -/
def execMulhW (look : BitVec 4) (d a b : Reg) (s : State) : Res := mulHigh 32 true look d a b s

/-- R106. -/
def execMulhnW (look : BitVec 4) (d a b : Reg) (s : State) : Res := mulHigh 32 false look d a b s

/-- R66, R106. -/
def execDivW (look : BitVec 4) (d a b : Reg) (s : State) : Res := divBody 32 true false look d a b s

/-- R66, R106. -/
def execDivnW (look : BitVec 4) (d a b : Reg) (s : State) : Res := divBody 32 false false look d a b s

/-- R66, R106. -/
def execRemW (look : BitVec 4) (d a b : Reg) (s : State) : Res := divBody 32 true true look d a b s

/-- R66, R106. -/
def execRemnW (look : BitVec 4) (d a b : Reg) (s : State) : Res := divBody 32 false true look d a b s

/-- R102. -/
def execAddImm (d a : Reg) (imm : BitVec 14) (s : State) : Res := unarySat 64 4 (· + imm.toInt) d a s

/-- R102. -/
def execAddWImm (d a : Reg) (imm : BitVec 14) (s : State) : Res := unarySat 32 4 (· + imm.toInt) d a s

/-- R102, zero-extended immediate. -/
def execBandImm (d a : Reg) (imm : BitVec 14) (s : State) : Res := aluImm (· &&& imm.zeroExtend 64) d a s

/-- R102. -/
def execBorImm (d a : Reg) (imm : BitVec 14) (s : State) : Res := aluImm (· ||| imm.zeroExtend 64) d a s

/-- R102. -/
def execBxorImm (d a : Reg) (imm : BitVec 14) (s : State) : Res := aluImm (· ^^^ imm.zeroExtend 64) d a s

/-- R102. -/
def execSltImm (d a : Reg) (imm : BitVec 14) (s : State) : Res := aluImm (vSlt · (sx imm)) d a s

/-- R102: the sign-extended immediate compared unsigned. -/
def execSltnImm (d a : Reg) (imm : BitVec 14) (s : State) : Res := aluImm (vSltn · (sx imm)) d a s

/-- R101, R102. -/
def execShlImm (d a : Reg) (n : BitVec 6) (s : State) : Res := unarySat 64 4 (· * (2 ^ n.toNat : Nat)) d a s

/-- R102. -/
def execShrImm (d a : Reg) (n : BitVec 6) (s : State) : Res := aluImm (· >>> n.toNat) d a s

/-- R102. -/
def execSraImm (d a : Reg) (n : BitVec 6) (s : State) : Res := aluImm (·.sshiftRight n.toNat) d a s

/-- R102. -/
def execRolImm (d a : Reg) (n : BitVec 6) (s : State) : Res := aluImm (·.rotateLeft n.toNat) d a s

/-- ga[p + n - 1 : p] as a number, n = lenm + 1 (R103, Table 2.14). -/
def fieldOf (x : Word) (lenm pos : BitVec 6) : Nat := (x.toNat >>> pos.toNat) % 2 ^ (lenm.toNat + 1)

/-- R103. -/
def execExtI (d a : Reg) (lenm pos : BitVec 6) (s : State) : Res := unary (fun x => sx (BitVec.ofNat (lenm.toNat + 1) (fieldOf x lenm pos))) d a s

/-- R103. -/
def execExtN (d a : Reg) (lenm pos : BitVec 6) (s : State) : Res := unary (fun x => BitVec.ofNat 64 (fieldOf x lenm pos)) d a s

/-- gd with the low n bits of ga at pos (R103). -/
def insertField (o x : Word) (lenm pos : BitVec 6) : Word :=
  let m : Word := BitVec.ofNat 64 ((2 ^ (lenm.toNat + 1) - 1) * 2 ^ pos.toNat)
  (o &&& ~~~m) ||| ((x <<< pos.toNat) &&& m)

/-- R103: gd is a source. -/
def execIns (d a : Reg) (lenm pos : BitVec 6) (s : State) : Res :=
  runBody s 4 fun s => do
    let o ← rg s d
    let x ← rg s a
    done (wg s d (insertField o x lenm pos))

/-- R104. -/
def execLea (d a b : Reg) (sh : BitVec 3) (s : State) : Res := alu (fun x y => x + (y <<< sh.toNat)) d a b s

/-- R105: the pc of the instruction itself. -/
def execLpc (d : Reg) (off : BitVec 19) (s : State) : Res :=
  runBody s 4 fun s => done (wg s d (s.arch.pc + sx off * 4))

/-- R109. -/
def execLdI8 (look : BitVec 4) (d a : Reg) (imm : BitVec 10) (s : State) : Res := loadBody 1 true look d a imm s

/-- R109. -/
def execLdN8 (look : BitVec 4) (d a : Reg) (imm : BitVec 10) (s : State) : Res := loadBody 1 false look d a imm s

/-- R109. -/
def execLdI16 (look : BitVec 4) (d a : Reg) (imm : BitVec 10) (s : State) : Res := loadBody 2 true look d a imm s

/-- R109. -/
def execLdN16 (look : BitVec 4) (d a : Reg) (imm : BitVec 10) (s : State) : Res := loadBody 2 false look d a imm s

/-- R109. -/
def execLdI32 (look : BitVec 4) (d a : Reg) (imm : BitVec 10) (s : State) : Res := loadBody 4 true look d a imm s

/-- R109. -/
def execLdN32 (look : BitVec 4) (d a : Reg) (imm : BitVec 10) (s : State) : Res := loadBody 4 false look d a imm s

/-- R109. -/
def execLd64 (look : BitVec 4) (d a : Reg) (imm : BitVec 10) (s : State) : Res := loadBody 8 false look d a imm s

/-- R110. -/
def execSt8 (d a : Reg) (imm : BitVec 14) (s : State) : Res := storeBody 1 d a imm s

/-- R110. -/
def execSt16 (d a : Reg) (imm : BitVec 14) (s : State) : Res := storeBody 2 d a imm s

/-- R110. -/
def execSt32 (d a : Reg) (imm : BitVec 14) (s : State) : Res := storeBody 4 d a imm s

/-- R110. -/
def execSt64 (d a : Reg) (imm : BitVec 14) (s : State) : Res := storeBody 8 d a imm s

/-- R111: two dwords of one sector; the window covers both registers. -/
def execLdp (look : BitVec 4) (d a b : Reg) (off : BitVec 5) (s : State) : Res :=
  runBody s 4 fun s => do
    let x ← rg s a
    let ea := x + sx off * 16
    checkScalar s ea 16 false false
    let (bs, s) ← loadAt s ea 16
    .ok { fx s with late := [(d.toNat, (leWord (bs.take 8)).zeroExtend 512, look.toNat),
                             (b.toNat, (leWord (bs.drop 8)).zeroExtend 512, look.toNat)] }

/-- R111. -/
def execStp (d a b : Reg) (off : BitVec 5) (s : State) : Res :=
  runBody s 4 fun s => do
    let x ← rg s a
    let u ← rg s d
    let v ← rg s b
    let ea := x + sx off * 16
    checkScalar s ea 16 true false
    let s ← storeAt s ea (leBytes 8 u.toNat ++ leBytes 8 v.toNat)
    done s

/-- R114. -/
def execBCc (c : Cond) (a b : Reg) (off : BitVec 11) (s : State) : Res := branchBody 4 c a b (sx off) s

/-- R117. -/
def execBCcLong (c : Cond) (a b : Reg) (off : BitVec 32) (s : State) : Res := branchBody 8 c a b (sx off) s

/-- R115. -/
def execDbnz (a : Reg) (off : BitVec 11) (s : State) : Res :=
  runBody s 4 fun s => do
    let x ← rg s a
    let t := x - 1
    if t ≠ 0 then doneJump (wg s a t) (s.arch.pc + sx off * 4) else done (wg s a t)

/-- R116. -/
def execJ (off : BitVec 24) (s : State) : Res := jumpBody 4 false (sx off) s

/-- R116. -/
def execCall (off : BitVec 24) (s : State) : Res := jumpBody 4 true (sx off) s

/-- R117. -/
def execJLong (off : BitVec 32) (s : State) : Res := jumpBody 8 false (sx off) s

/-- R117. -/
def execCallLong (off : BitVec 32) (s : State) : Res := jumpBody 8 true (sx off) s

/-- R116. -/
def execJr (a : Reg) (s : State) : Res := jumpReg false a s

/-- R116. -/
def execCallr (a : Reg) (s : State) : Res := jumpReg true a s

/-- R107. -/
def execLi (d : Reg) (imm : BitVec 46) (s : State) : Res := runBody s 8 fun s => done (wg s d (sx imm))

/-- R107: gd is a source. -/
def execLih (d : Reg) (imm : BitVec 32) (s : State) : Res :=
  runBody s 8 fun s => do
    let o ← rg s d
    done (wg s d (imm ++ lo32 o))

/-- R101, R107. -/
def execAddl (d a : Reg) (imm : BitVec 32) (s : State) : Res := unarySat 64 8 (· + imm.toInt) d a s

/-- The accumulators that a tile instruction names exist (R17, R57). -/
def accOk (nacc : Nat) (i : Instr) : Bool :=
  match i with
  | .tmma _ acc _ _ | .tmmat _ acc _ _ | .tzero _ acc | .tld _ acc _ | .tst _ acc _ | .tscale _ acc _
  | .trget _ acc _ _ | .trput _ acc _ _ | .trmax _ acc _ | .trsum _ acc _ | .tquant _ acc _ => decide (acc.toNat < nacc)
  | .tadd _ acc src => decide (acc.toNat < nacc) && decide (src.toNat < nacc)
  | _ => true

/-- The check of a prefix and the word after it (R48): the trap, or the word. -/
def pairTrap (s : State) (p : Pfx) : Except Trap (W32 × State) :=
  let pc := s.me.arch.pc
  match fetchWord s s.cur (pc + 4) with
  | .error e => .error (mkTrap e.1 e.2 (fetchVal e (pc + 4)))
  | .ok (w, s) =>
    match pairCheck p w (accOk (s.core s.cur.core).nacc) with
    | .ok => .ok (w, s)
    | .orphan => .error (mkTrap 3 0 (w.zeroExtend 64))
    | .illop sub second =>
      .error ⟨1, sub, if second then (1 : BitVec 32) ++ w else ((encode (.pfx p)).headD 0).zeroExtend 64⟩

/-- R46 to R49: the pair is fetched and checked; then the prefix waits for its word, with which it makes one instruction. -/
def execPfx (p : Pfx) (s : State) : Res :=
  if s.me.run = .none then .fault .noStrand
  else
    let s := { openFor s s.cur with draws := s.draws + 1 }
    if (chunkOf s s.cur).held ∧ 1024 ≤ (chunkOf s s.cur).retired then .next (stopped s s.cur (.cut 0))
    else match pairTrap s p with
      | .error t => .next (stopped (flagFetch s s.cur t.code.toNat t.val) s.cur (.trap t))
      | .ok (w, s) => .next (s.setCh { s.chunk with pfx := some p, pair := some w })

end Sys2Proof.Machine
end

