-- ==== Sys2Proof/Machine/Sync.lean ====
section
/-! DEFINITION. Counter, remote, posted, chunk-control, engine, compose and launch instructions (chapter 07): what
each checks, releases and ends. What a released operation does is in Machine/Commit.lean and the event files. -/

namespace Sys2Proof.Machine

/-! ## Shared checks and endings -/

/-- The word of an instruction, as TRAPVAL of PRIV and ILLOP shows it. -/
def wordOf (i : Instr) : W32 := (encode i).headD 0

/-- The strand that operations of a strand carry: the first copy of a twin (R192, R291). -/
def issuerOf (s : State) (c : Sid) : Sid :=
  match (s.strand c).twin with
  | some (p, false) => p
  | _ => c

/-- The check of a counter handle (R193). -/
def checkHandle (h : Word) : Ex Unit :=
  if bits h 63 60 ≠ 0 then raise 5 0 h
  else match placeOf h with
    | .counter _ off => if off % 8 = 0 then .ok () else raise 4 0 h
    | _ => raise 5 0 h

/-- The check of a remote address of `n` bytes (R200). -/
def checkRemote (ea : Word) (n : Nat) : Ex Unit :=
  if bits ea 63 60 ≠ 0 then raise 5 0 ea
  else match placeOf ea with
    | .remote _ _ => if ea.toNat % n = 0 then .ok () else raise 4 0 ea
    | _ => raise 5 0 ea

/-- Bytes of a width. -/
def sizeBytes : Size → Nat
  | .b8 => 1 | .b16 => 2 | .b32 => 4 | .b64 => 8

/-- Ends the chunk; the strand waits for the result of what the chunk releases (R189). -/
def endForResult (s : State) (rd : Reg) : Ex Fx :=
  doneCut s { run := .result, await := some { rd := rd.toNat, got := none }, kw := none }

/-- Ends the chunk; the strand issues nothing until the chunk is granted. -/
def endForGrant (s : State) : Ex Fx := doneCut s { run := .result, await := none, kw := none }

/-! ## Counters (R194 to R199) -/

/-- R194. -/
def execKadd (a b : Reg) (s : State) : Res :=
  runBody s 4 fun s => do
    let h ← rg s a
    let x ← rg s b
    checkHandle h
    done (release s (.add h (bits x 31 0)))

/-- R194. -/
def execKaddi (a : Reg) (imm : BitVec 32) (s : State) : Res :=
  runBody s 8 fun s => do
    let h ← rg s a
    checkHandle h
    done (release s (.add h imm.toNat))

/-- R195. -/
def execKwait (a b : Reg) (s : State) : Res :=
  runBody s 4 fun s => do
    needCut s
    let h ← rg s a
    let v ← rg s b
    checkHandle h
    let pc := s.arch.pc
    doneCut (release s (.arm h v pc)) { run := .kwait, await := none, kw := some { handle := h, val := v, pc := pc } }

/-- R196. -/
def execKread (look : BitVec 4) (d a : Reg) (s : State) : Res :=
  runBody s 4 fun s => do
    let h ← rg s a
    checkHandle h
    match handleOf h with
    | some (l, i) =>
      let v ← snapshot s h l i
      doneLate s d.toNat (v.zeroExtend 512) look
    | none => raise 5 0 h

/-- R197: an odd index raises ADDR. -/
def execKdraw (_look : BitVec 4) (d a : Reg) (s : State) : Res :=
  runBody s 4 fun s => do
    needCut s
    let h ← rg s a
    checkHandle h
    if bitOf h 3 then raise 5 0 h else endForResult (release s (.draw h s.arch.pc)) d

/-- R198 (S). -/
def execKset (a b : Reg) (s : State) : Res :=
  runBody s 4 fun s => do
    needS s (wordOf (.kset a b))
    let h ← rg s a
    let v ← rg s b
    checkHandle h
    done (release s (.set h v))

/-! ## Remote scratchpad operations (R200 to R202) -/

/-- A returning remote operation: number of Rel.remote, operand, compare value. -/
def remoteResult (fn : Nat) (w : Size) (d a : Reg) (data cmp : State → Ex Word) (s : State) : Res :=
  runBody s 4 fun s => do
    needCut s
    let ea ← rg s a
    let x ← data s
    let c ← cmp s
    checkRemote ea (sizeBytes w)
    endForResult (release s (.remote fn (sizeBytes w) ea x c true)) d

/-- A remote operation that returns nothing. -/
def remotePosted (fn : Nat) (w : Size) (a b : Reg) (s : State) : Res :=
  runBody s 4 fun s => do
    let ea ← rg s a
    let x ← rg s b
    checkRemote ea (sizeBytes w)
    done (release s (.remote fn (sizeBytes w) ea x 0 false))

/-- R201. -/
def execRld (_look : BitVec 4) (w : Size) (d a : Reg) (s : State) : Res :=
  remoteResult 0 w d a (fun _ => .ok 0) (fun _ => .ok 0) s

/-- R201. -/
def execRst (w : Size) (a b : Reg) (s : State) : Res := remotePosted 1 w a b s

/-- R201. -/
def execRadd (_look : BitVec 4) (w : Size) (d a b : Reg) (s : State) : Res :=
  remoteResult 2 w d a (fun s => rg s b) (fun _ => .ok 0) s

/-- R201. -/
def execRaddPosted (w : Size) (a b : Reg) (s : State) : Res := remotePosted 2 w a b s

/-- R201: gd is the compare value. -/
def execRcas (_look : BitVec 4) (w : Size) (d a b : Reg) (s : State) : Res :=
  remoteResult 3 w d a (fun s => rg s b) (fun s => rg s d) s

/-- R201. -/
def execRswp (_look : BitVec 4) (w : Size) (d a b : Reg) (s : State) : Res :=
  remoteResult 4 w d a (fun s => rg s b) (fun _ => .ok 0) s

/-! ## Posted atomics (R203) -/

/-- Bytes of a posted atomic's type. -/
def ptyBytes : PTy → Nat
  | .i64 => 8
  | _ => 4

/-- Notes a translation that the chunk uses (R257). -/
def notePage (s : State) (p : Page) : State := s.setCh { s.chunk with pages := s.chunk.pages.insert p }

/-- A posted atomic: checked as a store of its width; a peer-tier page with write permission takes it; a blocked page
makes it wait (R203, R260). Log 69 (DEDUCED). -/
def postedBody (fn : BitVec 2) (t : PTy) (a b : Reg) (s : State) : Res :=
  runBody s 4 fun s => do
    let ea ← rg s a
    let x ← rg s b
    if bits ea 63 60 ≠ 0 ∨ placeOf ea ≠ .paged then raise 5 0 ea
    else if ea.toNat % ptyBytes t ≠ 0 then raise 4 0 ea
    else
      let (p, s) ← lift ea (resolveLead s ea .write true)
      if bitOf p.leaf 6 then .error (.blocked (p.page (s.ctx s.cur) ea))
      else done (release (notePage s (p.page (s.ctx s.cur) ea)) (.posted fn t ea p.sig p.leaf x))

/-- R203. -/
def execPadd (t : PTy) (a b : Reg) (s : State) : Res := postedBody 0 t a b s

/-- R203. -/
def execPmin (t : PTy) (a b : Reg) (s : State) : Res := postedBody 1 t a b s

/-- R203. -/
def execPmax (t : PTy) (a b : Reg) (s : State) : Res := postedBody 2 t a b s

/-- R203. -/
def execPor (t : PTy) (a b : Reg) (s : State) : Res := postedBody 3 t a b s

/-! ## Chunk control (R204 to R206) -/

/-- R204. -/
def execCut (s : State) : Res :=
  runBody s 4 fun s => do
    needCut s
    doneCut s plainEnd

/-- R205: the chunk ends before a `hold`, which is the first instruction of the held chunk. -/
def execHold (s : State) : Res :=
  runBody s 4 fun s =>
    if s.chunk.held ∨ s.chunk.retired ≠ 0 then .error (.cut 4) else done (s.setCh { s.chunk with held := true })

/-- R204, R205. -/
def execUnhold (s : State) : Res := runBody s 4 fun s => doneCut s plainEnd

/-- R206: a conflicting commit squashes at once in this model, so nothing is left to do. -/
def execChk (s : State) : Res := runBody s 4 fun s => done s

/-! ## Engine registers (R207 to R211) -/

/-- R207: ce.status is a snapshot. -/
def execXer (look : BitVec 4) (n : BitVec 10) (d : Reg) (s : State) : Res :=
  runBody s 4 fun s =>
    let v := if n = 0x209 then s.me.ceStatus else s.arch.re n.toNat
    doneLate s d.toNat (v.zeroExtend 512) look

/-- R207. -/
def execXew (n : BitVec 10) (a : Reg) (s : State) : Res :=
  runBody s 4 fun s => do
    let x ← rg s a
    done (s.setArch (s.arch.we n.toNat x))

/-- May an engine register hold the pointer of a copy or collective (R208)? -/
def engPointerOk (p : Word) : Bool :=
  bits p 63 60 == 0 && (match placeOf p with | .paged => true | .remote _ _ => true | _ => false)

/-- May an engine register hold the counter handle, 0 for none (R208)? -/
def engHandleOk (h : Word) : Bool := h == 0 || (handleOf h).isSome

/-- The first register of a list whose check fails raises ADDR, SUB 3, with its value. -/
def checkRegs (s : State) (l : List (Nat × (Word → Bool))) : Ex Unit :=
  match l.find? fun p => !p.2 (s.arch.re p.1) with
  | some p => raise 5 3 (s.arch.re p.1)
  | none => .ok ()

/-- The registers `lo` to `lo + n - 1` as they stand. -/
def engSet (a : Arch) (lo n : Nat) : FMap Word := (upto lo n).map fun i => (i, a.re i)

/-- Starts an engine operation at commit: its identifier, and xe.seq advances (R208, R211). -/
def engGo (s : State) (d : Reg) (r : Word → Rel) : Ex Fx :=
  let id := goIdent (issuerOf s s.cur) s.arch
  endForResult ((release s (r id)).setArch s.arch.bumpSeq) d

/-- R208. -/
def execXeGo (_look : BitVec 4) (d : Reg) (s : State) : Res :=
  runBody s 4 fun s => do
    needCut s
    checkRegs s [(0x100, engPointerOk), (0x101, engPointerOk), (0x106, engHandleOk), (0x108, engHandleOk)]
    engGo s d (.copy (engSet s.arch 0x100 10))

/-- R211: KIND before COMB, both in ce.op; the types f32, bf16, f16, i32, n32. -/
def execCeGo (_look : BitVec 4) (d : Reg) (s : State) : Res :=
  runBody s 4 fun s => do
    needCut s
    checkRegs s [(0x200, fun w => decide (bits w 3 0 ≤ 4) && decide (bits w 7 4 ≤ 2)), (0x201, engPointerOk),
      (0x202, engPointerOk), (0x203, fun w => bits w 31 0 != 0), (0x204, fun w => decide (bits w 2 0 ≤ 4)),
      (0x206, fun w => decide (bits w 1 0 ≤ 3)), (0x207, engHandleOk)]
    engGo s d (.coll (engSet s.arch 0x200 8))

/-- R211, R323: an S write sends the acknowledgement when the chunk commits. -/
def execCeJoin (a : Reg) (s : State) : Res :=
  runBody s 4 fun s => do
    needS s (wordOf (.ceJoin a))
    let x ← rg s a
    done (release s (.join (bits x 15 0)))

/-! ## Compose, release, launch (R212 to R215) -/

/-- R212: the checks in their order; the formation happens at commit. Log 27 (DEDUCED). -/
def execCompose (d a : Reg) (s : State) : Res :=
  runBody s 4 fun s => do
    needCut s
    let w ← rg s a
    if s.me.twin.isSome then raise 0x0B 5 0
    else if (leads s s.cur).isSome then raise 0x0B 2 0
    else if w ≠ 2 ∧ w ≠ 4 ∧ w ≠ 8 ∧ w ≠ 16 then raise 0x0B 1 0
    else endForResult (release s (.compose w.toNat)) d

/-- R213. -/
def execRelease (s : State) : Res :=
  runBody s 4 fun s => do
    needCut s
    if (leads s s.cur).isNone then raise 0x0B 3 0 else endForGrant (release s .dissolve)

/-- R213: c0 in bits 11:8 and w in bits 4:0. -/
def execBq (d : Reg) (s : State) : Res :=
  runBody s 4 fun s =>
    let v := match leads s s.cur with
      | some b => b.c0 * 256 + b.w
      | none => s.cur.core % 16 * 256 + 1
    done (wg s d (BitVec.ofNat 64 v))

/-- Enters a line that the strand reads without taking its data: translation, permission, signature, count. -/
def enterRead (s : State) (ptr : Word) : Ex State := do
  let (p, s) ← lift ptr (resolveLead s ptr .read false)
  let s ← enterLine s p ptr false
  .ok (countAccess s p ptr)

/-- R215: checked as a read of 256 bytes; its lines enter the read signature. -/
def execLaunch (a : Reg) (s : State) : Res :=
  runBody s 4 fun s => do
    needCut s
    let ea ← rg s a
    if bits ea 63 60 ≠ 0 ∨ placeOf ea ≠ .paged then raise 5 0 ea
    else if ea.toNat % 256 ≠ 0 then raise 4 0 ea
    else
      let s ← (upto 0 4).foldlM (fun s k => keep s (enterRead s (ea + BitVec.ofNat 64 (64 * k)))) s
      doneCut (release s (.launch ea s.me.lid)) plainEnd

end Sys2Proof.Machine
end

