-- ==== Sys2Proof/Machine/System.lean ====
section
/-! DEFINITION. System instructions (R216 to R223): traps, return, stopping, control registers, maintenance, the
strand record (Table 10.9). -/

namespace Sys2Proof.Machine

/-! ## Traps, return and stopping (R216, R217) -/

/-- R216. -/
def execNop (s : State) : Res := runBody s 4 fun s => done s

/-- R216. -/
def execTrap (n : BitVec 5) (s : State) : Res := runBody s 4 fun _ => raise 0x0E 0 (n.zeroExtend 64)

/-- R216: on an armed core the boundary stops the strand instead (`takeTrap`). -/
def execBrk (n : BitVec 5) (s : State) : Res := runBody s 4 fun _ => raise 0x0D 0 (n.zeroExtend 64)

/-- R217 (S): the level in CAUSE.PPRIV, the pc in TRAPPC; the chunk ends. -/
def execTret (s : State) : Res :=
  runBody s 4 fun s => do
    needS s (wordOf .tret)
    needCut s
    let s := release s .tret
    .ok { fx (s.setArch (tretArch s.arch)) with jump := some (s.arch.cr' 2), ending := some plainEnd }

/-- R217 (S), R214. -/
def execHalt (s : State) : Res :=
  runBody s 4 fun s => do
    needS s (wordOf .halt)
    needAlone s 4
    needCut s
    endForGrant (release s .halt)

/-- R217, R214. -/
def execIdle (s : State) : Res :=
  runBody s 4 fun s => do
    needAlone s 4
    needCut s
    endForGrant (release s .idle)

/-! ## Control registers (R218) -/

/-- R218, R21. -/
def execSget (n : BitVec 12) (d : Reg) (s : State) : Res :=
  runBody s 4 fun s => do
    if crNoUser n.toNat then needS s (wordOf (.sget n d)) else .ok ()
    done (wg s d (crRead s s.cur n.toNat))

/-- R218, R21, R22, R26: a read-only register is left alone; STATUS takes STEP alone; QUANTUM takes effect at a quantum
end (R289); a write that cuts ends the chunk. -/
def execSset (n : BitVec 12) (a : Reg) (s : State) : Res :=
  runBody s 4 fun s => do
    let k := n.toNat
    if crReadOnly k then done s
    else
      if crNoUserWrite k then needS s (wordOf (.sset n a)) else .ok ()
      let x ← rg s a
      if crCuts k then needCut s else .ok ()
      let s := if k = 0x000 then s.setArch { s.arch with step := bitOf x 6 }
        else if k = 0x020 then release s (.quantum (bits x 31 0))
        else s.setArch (s.arch.setCr k x)
      if crCuts k then doneCut s plainEnd else done s

/-! ## Maintenance (R219 to R221, R223) -/

/-- R219: a hint; an address without translation or in the window region is ignored. -/
def execLflush (a : Reg) (s : State) : Res :=
  runBody s 4 fun s => do
    let ea ← rg s a
    if bits ea 63 60 ≠ 0 ∨ placeOf ea ≠ .paged then done s
    else match translate s s.cur.core (s.ctx s.cur) ea with
      | .ok (x, s) => done (release s (.lineFlush (spotOf x ea (dieOf s.cur.core)).sig))
      | .error _ => done s

/-- R220 (S): checked like a 1-byte read. -/
def execLinv (a : Reg) (s : State) : Res :=
  runBody s 4 fun s => do
    needS s (wordOf (.linv a))
    let ea ← rg s a
    checkScalar s ea 1 false false
    match placeOf ea with
    | .paged =>
      let (p, s) ← lift ea (resolveLead s ea .read false)
      done (release (notePage s (p.page (s.ctx s.cur) ea)) (.lineInv p.sig))
    | _ => done s

/-- R221 (S). -/
def execTlbinv (a : Reg) (s : State) : Res :=
  runBody s 4 fun s => do
    needS s (wordOf (.tlbinv a))
    let x ← rg s a
    done (release s (.tlbinv x))

/-- R223. -/
def execXfence (s : State) : Res := runBody s 4 fun s => done (release s .fence)

/-! ## The strand record (R222, Table 10.9) -/

/-- Numbers of the control registers at 0x900 to 0x958. -/
def recordCtl : List Nat := [0x010, 0x011, 0x021, 0x060, 0x070, 0x005, 0x001, 0x002, 0x003, 0x004, 0x000, 0x022]

/-- Numbers of the format registers at 0x960 to 0xA07. -/
def recordFmt : List Nat := upto 0x101 7 ++ upto 0x109 7 ++ upto 0x111 7

/-- Numbers of the engine registers at 0xA08 to 0xB17. -/
def recordEng : List Nat := upto 0x000 11 ++ upto 0x100 12 ++ upto 0x200 11

/-- The dwords of a strand's record from 0x000 to 0xB17, with `pc` in the PC field. -/
def recordHead (s : State) (c : Sid) (pc : Word) : List Byte :=
  let st := s.strand c
  let a := st.arch
  leBytes 8 pc.toNat
  ++ (upto 1 31).flatMap (fun i => leBytes 8 (a.rg (BitVec.ofNat 5 i)).toNat)
  ++ (upto 0 32).flatMap (fun i => leBytes 64 (a.rv (BitVec.ofNat 5 i)).toNat)
  ++ recordCtl.flatMap (fun n => leBytes 8 (crRead s c n).toNat)
  ++ recordFmt.flatMap (fun n => leBytes 8 (a.cr' n).toNat)
  ++ recordEng.flatMap (fun n => leBytes 8 (if n = 0x209 then st.ceStatus else a.re n).toNat)

/-- The whole 4-KiB record: outstanding result, pending `kwait`, IDX, LAUNCHID, NODEID, zeros. -/
def recordBytes (s : State) (c : Sid) (pc : Word) : List Byte :=
  let st := s.strand c
  let flags := (if st.await.isSome then 1 else 0) + (if st.kw.isSome then 2 else 0)
  let tail := leBytes 8 flags ++ leBytes 8 (match st.kw with | some k => k.handle.toNat | none => 0)
    ++ leBytes 8 (match st.kw with | some k => k.val.toNat | none => 0)
    ++ leBytes 8 (match st.await with | some w => w.rd | none => 0)
    ++ (upto 0 8).flatMap (fun i => leBytes 8 (fget st.idx 0 i).toNat)
    ++ leBytes 8 0 ++ leBytes 8 st.lid ++ leBytes 8 st.node
  let l := recordHead s c pc ++ tail
  l ++ List.replicate (4096 - l.length) 0

/-- A dword of a record. -/
def recordWord (l : List Byte) (off : Nat) : Word := leWord ((l.drop off).take 8)

/-- The registers that a record loads: every field from 0x000 to 0xB17 but STATUS and CHUNKSEQ; read-only fields keep
their values; the PC field sets TRAPPC when `trappc`, else TRAPPC has its own field. -/
def recordLoad (a : Arch) (l : List Byte) (trappc : Bool) : Arch :=
  let a := (upto 1 31).foldl (fun a i => a.wg (BitVec.ofNat 5 i) (recordWord l (8 * i))) a
  let a := (upto 0 32).foldl (fun a i => a.wv (BitVec.ofNat 5 i) (BitVec.ofNat 512 (leNat ((l.drop (0x100 + 64 * i)).take 64)))) a
  let a := (recordCtl.take 10).zipIdx.foldl (fun a p => a.setCr p.1 (recordWord l (0x900 + 8 * p.2))) a
  let a := if trappc then a.setCr 0x002 (recordWord l 0) else a
  let a := recordFmt.zipIdx.foldl (fun a p => a.setCr p.1 (recordWord l (0x960 + 8 * p.2))) a
  recordEng.zipIdx.foldl (fun a p => a.we p.1 (recordWord l (0xA08 + 8 * p.2))) a

/-- The checks of R222: outside the window region, aligned to 4,096. -/
def recordCheck (ea : Word) : Ex Unit :=
  if bits ea 63 60 ≠ 0 ∨ placeOf ea ≠ .paged then raise 5 0 ea
  else if ea.toNat % 4096 ≠ 0 then raise 4 0 ea
  else .ok ()

/-- The half-lines of a strand record that hold a poisoned register (Table 10.9, R338), by offset ÷ 32. -/
def recordTaint (a : Arch) : List Nat :=
  (a.bad.filter fun p => p.2).flatMap fun p =>
    if p.1 < 32 then [p.1 / 4] else [(0x100 + 64 * (p.1 - 32)) / 32, (0x100 + 64 * (p.1 - 32)) / 32 + 1]

/-- R222 (S), R214: 64 line stores; a poisoned register's poison goes with it (R338). -/
def execHsave (a : Reg) (s : State) : Res :=
  runBody s 4 fun s => do
    needS s (wordOf (.hsave a))
    needAlone s 4
    let ea ← rg s a
    recordCheck ea
    let l := recordBytes s s.cur (s.arch.cr' 2)
    let s ← (upto 0 64).foldlM (fun s k =>
      keep s (storeAt s (ea + BitVec.ofNat 64 (64 * k)) ((l.drop (64 * k)).take 64))) s
    match recordTaint s.arch with
    | [] => done s
    | t => do
      let (p, s) ← lift ea (resolveOwn s ea .write false)
      done (s.setCh { s.chunk with taint := s.chunk.taint ++ t.map fun h => p.sig / 32 + h })

/-- R222 (S), R214: 64 line reads, of which the fields up to 0xB17 are used. -/
def execHload (a : Reg) (s : State) : Res :=
  runBody s 4 fun s => do
    needS s (wordOf (.hload a))
    needAlone s 4
    let ea ← rg s a
    recordCheck ea
    let (l, s) ← (upto 0 64).foldlM (fun (q : List Byte × State) k => do
      let p := ea + BitVec.ofNat 64 (64 * k)
      if k < 45 then do
        let (b, s) ← keep q.2 (loadAt q.2 p (if k = 44 then 24 else 64))
        .ok (q.1 ++ b, s)
      else do
        let s ← keep q.2 (enterRead q.2 p)
        .ok (q.1, s)) (([] : List Byte), s)
    let s := s.setArch (recordLoad s.arch l true)
    done (s.setCh { s.chunk with late := [] })

end Sys2Proof.Machine
end

