-- ==== Sys2Proof/Machine/Commit.lean ====
section
/-! DEFINITION. The grant of a chunk (R226 to R235, R303): containment checks, committed data, squashes, released operations;
composing and releasing a bunch (R294 to R296, R309); maintenance at commit (R220, R221, R257); twins (R291, R292). -/

namespace Sys2Proof.Machine

/-! ## Bunches (R212, R294 to R296, R309) -/

/-- Does the core hold the context for a `compose` of a strand at a level (R294): at D0 an occupancy of it is there, at D1 and
D2 the core is of the footprint of a launch of the context? -/
def holdsContext (s : State) (det ctx l : Nat) : Bool :=
  if det = 0 then (s.core l).strands.any fun p => p.2.run != .none && ctxOf s p.2.lid == ctx
  else match (s.core l).claim with | some lid => detOf s lid != 0 && ctxOf s lid == ctx | none => false

/-- A strand of a member parks: at once where no chunk of it is open or waits and no solo slot is its own, else when that is
so (R295). -/
def parkStrand (s : State) (c : Sid) : State :=
  let st := s.strand c
  if st.run = .none then s
  else if st.opened.isNone && st.waiting.isEmpty && !st.soloHeld then s.setStrand c { st with parked := true }
  else s.setStrand c { st with parkReq := true }

/-- The members of a bunch of the cluster of core `l`. -/
def memberCores (l : Nat) (b : Bunch) : List Nat := upto (l / 16 * 16 + b.c0) b.w

/-- Forms a bunch: its members record it, their banks take the leader's registers, their other strands park (R295, R298). -/
def bindBunch (s : State) (l : Nat) (b : Bunch) : State :=
  let s := fillBanks ((memberCores l b).foldl (fun s k => s.setCore k { s.core k with bunch := some b }) s) b.leader
  (memberCores l b).foldl (fun s k =>
    (s.core k).strands.foldl (fun s p => if (⟨k, p.1⟩ : Sid) = b.leader then s else parkStrand s ⟨k, p.1⟩) s) s

/-- A granted `compose`: the state, and the value of gd (R212, R296). -/
def formBunch (s : State) (c : Sid) (w : Nat) : State × Nat :=
  let i := c.core % 16
  let b : Bunch := ⟨i - i % w, w, c⟩
  let cores := memberCores c.core b
  if !(cores.all fun k => holdsContext s (detOf s (s.strand c).lid) (s.ctx c) k) then (s, 1)
  else if cores.any fun k => (s.core k).bunch.isSome then (s, 2)
  else (bindBunch s c.core b, 0)

/-- The bunch that a strand leads dissolves; the parked strands go on (R309). -/
def dissolveBunch (s : State) (c : Sid) : State :=
  match leads s c with
  | none => s
  | some b =>
    (memberCores c.core b).foldl (fun s k =>
      let co := s.core k
      s.setCore k { co with bunch := none, strands := co.strands.map fun p =>
        (p.1, if (⟨k, p.1⟩ : Sid) = c then p.2 else { p.2 with parked := false, parkReq := false }) }) s

/-! ## Maintenance (R220, R221, R257, R258) -/

/-- Stores of the context that wait at a page whose translation is removed go on (R260). -/
def freeBlocked (s : State) (ctx : Nat) (arg : Word) : State :=
  (allStrands s).foldl (fun s c =>
    match (s.strand c).blocked with
    | some (p, _) => if p.ctx = ctx ∧ tlbHits arg p.page p.big then s.setStrand c { s.strand c with blocked := some (p, true) } else s
    | none => s) s

/-- The removal of a `tlbinv`: TLBs, walker caches and access counters of the context lose the pages, and stores and hub
writes that wait there go on (R221, R257, R258, R260). -/
def removeCached (s : State) (ctx : Nat) (arg : Word) : State :=
  let keep := fun (e : TlbEntry) => !(e.ctx == ctx && tlbHits arg e.page e.big)
  let gone := fun (a : Access) => a.ctx == ctx && tlbHits arg a.page a.big
  let s := { s with
    cores := s.cores.map fun p => (p.1, { p.2 with tlb := p.2.tlb.filter keep }),
    clusters := s.clusters.map fun p => (p.1, { p.2 with tlb := p.2.tlb.filter keep }),
    dies := s.dies.map fun p => (p.1, { p.2 with
      walk := if bitOf arg 0 then p.2.walk.filter fun e => e.1 != ctx else p.2.walk,
      access := p.2.access.filter fun a => !gone a,
      full := if p.2.access.any gone then [] else p.2.full }) }
  drainPokes (freeBlocked s ctx arg)

/-- Has the chunk used a translation that one of these `tlbinv` arguments removes (R257)? -/
def Chunk.usedAny (ch : Chunk) (ctx : Nat) (args : List Word) : Bool :=
  ch.pages.any fun p => p.ctx == ctx && args.any fun a => tlbHits a p.page p.big

/-- The index of a strand's first chunk that used one of the translations; the chunk that holds the `tlbinv`, the oldest of
the strands in `own`, is not squashed. -/
def firstUser (s : State) (own : List Sid) (ctx : Nat) (args : List Word) (c : Sid) : Option Nat :=
  if own.contains c then ((s.strand c).chunks.drop 1).findIdx? (fun ch => ch.usedAny ctx args) |>.map (· + 1)
  else firstChunk s c fun ch => ch.usedAny ctx args

/-- Would squashing the users of the translations squash a solo chunk, so that the removal waits (R234)? -/
def usersSolo (s : State) (own : List Sid) (ctx : Nat) (args : List Word) : Bool :=
  (allStrands s).any fun c => (firstUser s own ctx args c).any (s.strand c).soloFrom

/-- Chunks that used one of the translations are squashed without counting (R257). Log 28 (DEDUCED). -/
def squashUsers (s : State) (own : List Sid) (ctx : Nat) (args : List Word) : State :=
  (allStrands s).foldl (fun s c =>
    match firstUser s own ctx args c with
    | some k => squashFrom s c k 6 false
    | none => s) s

/-- Does the strand's oldest chunk hold `tlbinv` instructions whose removal has not been made? -/
def removalDue (s : State) (c : Sid) : Bool :=
  match (s.strand c).waiting with
  | ch :: _ => ch.drained && !ch.purged && !ch.removals.isEmpty
  | [] => false

/-- The removal that the grant of a strand's oldest chunk waits for: it reaches every TLB and walker cache that serves the
context, and squashes what used the old translations (R221, R257); none: nothing is due, or it waits for a solo chunk.
Log 108 (DEDUCED). -/
def purge (s : State) (c : Sid) : Option State :=
  match (s.strand c).waiting with
  | [] => none
  | ch :: rest =>
    let ctx := s.ctx c
    let own := bothOf s ctx c
    if !removalDue s c || usersSolo s own ctx ch.removals then none
    else
      let s := s.setStrand c { s.strand c with waiting := { ch with purged := true } :: rest }
      some (ch.removals.foldl (fun s a => removeCached s ctx a) (squashUsers s own ctx ch.removals))

/-- The grant of a chunk with `tlbinv`: what used the pages between the removal and now is squashed (R257). -/
def invalidate (s : State) (ctx : Nat) (arg : Word) : State := squashUsers s [] ctx [arg]

/-- Must the grant of a strand's oldest chunk wait for its removal, or for a solo chunk that used one of the pages since? -/
def removalBlocks (s : State) (c : Sid) : Bool :=
  match (s.strand c).waiting with
  | ch :: _ => !ch.removals.isEmpty && (!ch.purged || usersSolo s (bothOf s (s.ctx c) c) (s.ctx c) ch.removals)
  | [] => false

/-- `linv` at the grant: open chunks with speculative sectors of the line are squashed (R220).
Log 28 (DEDUCED). -/
def dropLine (s : State) (key : Nat) : State :=
  (allStrands s).foldl (fun s c =>
    match (s.strand c).opened with
    | some ch => if ch.lines.any (fun e => e.1 == key / 64) && !ch.solo then squashOpen s c 6 false else s
    | none => s) s

/-! ## Operations that a grant releases (R190, R191) -/

/-- A strand stops as by `halt` (R217). -/
def haltStrand (s : State) (c : Sid) : State :=
  let st := s.strand c
  let s := s.setStrand c { st with run := .halted false }
  updLaunch s st.lid fun x => { x with halted := x.halted ++ [c] }

/-- An operation leaves at the grant of its strand's chunk; `grp` is the quantum group that places it.
Log 25 (DEDUCED). -/
def relOp (c : Sid) (grp : Nat) (s : State) (r : Rel) : State :=
  let st := s.strand c
  let ctx := s.ctx c
  match r with
  | .copy set ident => forkCopy s c ctx grp st.epoch ident set
  | .coll set ident => issueColl s c ctx grp ident set
  | .compose w => let p := formBunch s c w; giveResult p.1 ctx c (some (BitVec.ofNat 64 p.2))
  | .dissolve => dissolveBunch s c
  | .lineFlush _ => s
  | .lineInv key => dropLine s key
  | .tlbinv arg => invalidate s ctx arg
  | .fence => s.setStrand c { st with epoch := st.epoch + 1 }
  | .join g => commitJoin s (dieOf c.core) g
  | .quantum v => updLaunch s (groupOf s st.lid) fun x => { x with quantum := Nat.max 256 v }
  | .tret => (bothOf s ctx c).foldl (fun s d =>
      if (s.core d.core).latch = some d.strand then s.setCore d.core { s.core d.core with latch := none } else s) s
  | .idle => (bothOf s ctx c).reverse.foldl (fun s d => endStrand s d grp) s
  | .halt => (bothOf s ctx c).foldl haltStrand s
  | r => pushOp s c ctx st.epoch grp false r

/-! ## Containment checks before a grant (R324, R338) -/

/-- Does a written line live on a lost die? -/
def homeLost (s : State) (ch : Chunk) : Bool :=
  ch.lines.any fun e => (copyOffsets e.2.repl).all fun off =>
    decide (e.1 * 64 < hostBase) && (s.die ((e.1 * 64 + off) / dieStep)).lost

/-- The pointer of the chunk's first store to a poisoned half-line that it does not cover, at a home or copy that is not lost
(R250, R262, R339). -/
def partPoison (s : State) (ch : Chunk) : Option Word :=
  let whole := coveredHalves ch.writes
  (ch.lines.flatMap fun e => e.2.ptrs.map fun p => (e.1 * 2 + p.1, e.2.repl, p.2)).findSome? fun x =>
    if !whole.contains x.1 && (copyOffsets x.2.1).any (fun off => fget s.poison false (x.1 + off / 32)
        && !(decide (x.1 * 32 + off < hostBase) && (s.die ((x.1 * 32 + off) / dieStep)).lost))
    then some x.2.2 else none

/-- Pending data of a poisoned half-line: MCHK, SUB 6, with TRAPPC at the chunk's first instruction; reported once. -/
def partTrap (s : State) (c : Sid) (pc ptr : Word) : State :=
  let p : Pending := ⟨mkTrap 0x12 6 ptr, some pc⟩
  if (s.strand c).pend.contains p then s else pendOn s (s.ctx c) c p.trap p.pc

/-! ## The grant (R231, R232, R234) -/

/-- Would the grant squash another strand's solo chunk (R234)? -/
def grantBlocked (s : State) (c : Sid) (ch : Chunk) : Bool :=
  let arb := arbiterOf c.core ch.scope
  !ch.writes.isEmpty && soloBlocks s (fun d => d != c && inDomain arb d.core) ch.wsig

/-- Must the next grant wait for room in the order log (R361)? Log 110 (DESIGN CHOICE). -/
def orderFull (s : State) : Bool := ordering s && (traceFull s || !s.dbg.trwait.isEmpty)

/-- In replay mode, is it the chunk's turn at its arbiter (R361)? -/
def grantTurn (s : State) (c : Sid) (ch : Chunk) : Bool := replayTurn s (s.strand c).lid (arbiterOf c.core ch.scope) { kind := 0, who := c, what := 0, other := 0 }

/-- The chunk's data turns committed (R231 step 4), line by line; half-lines that a record saved
poisoned are marked at every copy (R249, R338). -/
def commitLines (s : State) (ch : Chunk) : State :=
  let s := ch.lines.foldl (fun s e => putCopies s e.2.repl e.2.key (ch.writes.filter fun w => w.1 / 64 == e.1)) s
  { s with poison := ch.taint.foldl (fun p h =>
      (copyOffsets ((ffind ch.lines (h / 2)).any fun i => i.repl)).foldl (fun p off => fset p (h + off / 32) true) p) s.poison }

/-- The strand without its oldest chunk, which has committed (R231 step 7); a solo slot is free. -/
def popChunk (s : State) (c : Sid) (ch : Chunk) : State :=
  let st := s.strand c
  let s := s.setStrand c { st with
    waiting := st.waiting.drop 1, chunkSeq := (st.chunkSeq + 1) % 2 ^ 64, sqcnt := 0, mismatch := 0,
    solo := if ch.solo then none else st.solo, soloHeld := if ch.solo then false else st.soloHeld }
  if ch.solo then dropSolo s c else s

/-- What a grant lets the strand do: go on where it waited for the grant alone; rest where it was asked to. -/
def afterGrant (s : State) (c : Sid) : State :=
  let st := s.strand c
  let free := st.waiting.isEmpty
  let st := if free ∧ st.run = .result ∧ st.await = none then { st with run := .ready } else st
  let st := if free ∧ st.run = .boundary ∧ detOf s st.lid = 0 then { st with run := .ready, quantum := 0 } else st
  restIfIdle (s.setStrand c st) c

/-- What a granted chunk `ch` of strand `c` does outside the strand (R231): data, squashes in the arbiter's domain other
than of the strand itself, trace, released operations. Log 26 (DEDUCED). -/
def publish (s : State) (c : Sid) (grp seq : Nat) (ch : Chunk) : State :=
  let arb := arbiterOf c.core ch.scope
  let st := s.strand c
  let s := commitLines s ch
  let s := if ch.writes.isEmpty then s
    else squashHits s (fun d => d != c && inDomain arb d.core) (fun y => sigConflict y.rsig ch.wsig) 0 true c.core
  let s := traceEvent s 0 arb 0 c seq ((ch.lines.head?.map fun e => e.1 * 64 % hostBase).getD 0) 0 st.lid
  let s := traceCasts s c seq ((ch.lines.filter fun e => e.2.repl).map Prod.fst) st.lid
  ch.ops.foldl (relOp c grp) s

/-- The grant of chunk `ch`, the oldest of strand `c`. -/
def grantNow (s : State) (c : Sid) (grp : Nat) (ch : Chunk) : State :=
  watchReport (publish (fillBanks (popChunk s c ch) c) c grp (s.strand c).chunkSeq ch) c ch

/-- The grant of a strand's oldest chunk, with its checks; none: it waits. -/
def grantChunk (s : State) (c : Sid) (grp : Nat) : Option State :=
  match (s.strand c).waiting with
  | [] => none
  | ch :: _ =>
    if !ch.drained || removalBlocks s c || grantBlocked s c ch || orderFull s || !grantTurn s c ch then none
    else if homeLost s ch then some (squashFrom s c 0 5 false)
    else match partPoison s ch with
      | some ptr => some (partTrap (squashFrom s c 0 5 false) c ch.start.pc ptr)
      | none => some (afterGrant (grantNow s c grp ch) c)

/-! ## Twins (R291, R292) -/

/-- The bytes of a released operation in the write-set hash. Log 29 (DESIGN CHOICE). -/
def relBytes (r : Rel) : List Byte :=
  let l : List Nat := match r with
    | .add h n => [0, h.toNat, n]
    | .set h v => [1, h.toNat, v.toNat]
    | .arm h v pc => [2, h.toNat, v.toNat, pc.toNat]
    | .draw h pc => [3, h.toNat, pc.toNat]
    | .remote fn w ea x y ret => [4, fn, w, ea.toNat, x.toNat, y.toNat, if ret then 1 else 0]
    | .posted fn _ va _ _ x => [5, fn.toNat, va.toNat, x.toNat]
    | .copy set id => [6, id.toNat] ++ set.map fun p => p.2.toNat
    | .coll set id => [7, id.toNat] ++ set.map fun p => p.2.toNat
    | .compose w => [8, w]
    | .dissolve => [9]
    | .launch va _ => [10, va.toNat]
    | .lineFlush k => [11, k]
    | .lineInv k => [12, k]
    | .tlbinv a => [13, a.toNat]
    | .fence => [14]
    | .join g => [15, g]
    | .quantum v => [16, v]
    | .tret => [17]
    | .idle => [18]
    | .halt => [19]
  l.flatMap (leBytes 8)

/-- A strand's registers and control state at the end of its oldest chunk. -/
def endArch (st : Strand) : Arch :=
  match st.waiting.drop 1, st.opened with
  | ch :: _, _ => ch.start
  | [], some ch => ch.start
  | [], none => st.arch

/-- The bytes of registers in the write-set hash: pc, g, v, control, format and engine registers.
Log 29 (DESIGN CHOICE). -/
def archBytes (a : Arch) : List Byte :=
  leBytes 8 a.pc.toNat
  ++ (upto 1 31).flatMap (fun i => leBytes 8 (a.rg (BitVec.ofNat 5 i)).toNat)
  ++ (upto 0 32).flatMap (fun i => leBytes 64 (a.rv (BitVec.ofNat 5 i)).toNat)
  ++ (recordCtl.take 10 ++ recordFmt).flatMap (fun n => leBytes 8 (a.cr' n).toNat)
  ++ recordEng.flatMap (fun n => leBytes 8 (a.re n).toNat)
  ++ leBytes 8 ((if a.priv then 1 else 0) + if a.step then 2 else 0)

/-- The 16 bytes of a granule at the end of a strand's oldest chunk: what a later chunk logged first, else the pool. -/
def granuleAfter (s : State) (c : Sid) (g : Nat) : List Byte :=
  match (((s.strand c).chunks.drop 1).findSome? fun (ch : Chunk) => ch.undo.find? fun e => e.1 == g) with
  | some e => e.2.1
  | none => Mem.bytes (s.core c.core).pool (g * 16) 16

/-- The bytes that the write-set hash of a strand's oldest chunk covers (R292).
Log 29 (DESIGN CHOICE). -/
def writeSet (s : State) (c : Sid) (ch : Chunk) : List Byte :=
  ch.lines.flatMap (fun e =>
    let own := fun k => ffind ch.writes (e.1 * 64 + k)
    leBytes 8 (e.1 * 64) ++ (upto 0 64).map (fun k => (own k).getD 0)
    ++ leBytes 8 ((upto 0 64).foldl (fun m k => if (own k).isSome then m + 2 ^ k else m) 0))
  ++ (ch.undo.foldl (fun (m : FMap Unit) e => fset m e.1 ()) []).flatMap (fun p => leBytes 8 (p.1 * 16) ++ granuleAfter s c p.1)
  ++ ch.ops.flatMap relBytes ++ archBytes (endArch (s.strand c))

/-- The first and the second copy of a strand's pair. -/
def twinPair (s : State) (c : Sid) : Option (Sid × Sid) :=
  (s.strand c).twin.map fun t => if t.2 then (c, t.1) else (t.1, c)

/-- The oldest chunks of both copies, when both have requested commit. -/
def twinHeads (s : State) (a b : Sid) : Option (Chunk × Chunk) :=
  match (s.strand a).waiting, (s.strand b).waiting with
  | x :: _, y :: _ => if x.drained && y.drained then some (x, y) else none
  | _, _ => none

/-- Do the hashes of both copies agree (R292)? Log 29 (DESIGN CHOICE). -/
def twinsAgree (s : State) (a b : Sid) (x y : Chunk) : Bool := crc64 (writeSet s a x) == crc64 (writeSet s b y)

/-- Both copies' chunks are squashed after a mismatch. -/
def twinSquash (s : State) (a b : Sid) : State :=
  [a, b].foldl (fun s c =>
    let s := squashFrom s c 0 7 false
    s.setStrand c { s.strand c with mismatch := (s.strand c).mismatch + 1 }) s

/-- The requests of a twin pair meet (R292); none: one is missing, a grant must wait, or a third run is due. -/
def twinGrant (s : State) (c : Sid) (grp : Nat) : Option State := do
  let (a, b) ← twinPair s c
  let (x, y) ← twinHeads s a b
  if twinsAgree s a b x y then
    if removalBlocks s a || grantBlocked s a x || orderFull s || !grantTurn s a x then none
    else if homeLost s x || (partPoison s x).isSome then
      let s := squashFrom (squashFrom s a 0 5 false) b 0 5 false
      some (match partPoison s x with | some ptr => partTrap s a x.start.pc ptr | none => s)
    else
      let s := popChunk s b y
      some (afterGrant (afterGrant (watchReport (grantNow s a grp x) b y) a) b)
  else if (s.strand a).mismatch = 0 then some (twinSquash s a b)
  else none

/-- The grant of a strand's oldest chunk, twin or not. -/
def grantAny (s : State) (c : Sid) (grp : Nat) : Option State :=
  if (s.strand c).twin.isSome then twinGrant s c grp else grantChunk s c grp

end Sys2Proof.Machine
end

