-- ==== Sys2Proof/Machine/Chunks.lean ====
section
/-! DEFINITION. Device events of chunks, traps and released operations: pending drain, grant, solo slot, result return,
stepping, trap entry, the two traps of a fetch, and operations at their ports and homes. -/

namespace Sys2Proof.Machine

/-! ## Chunks (R231, R234, R245) -/

/-- The list with its first undrained chunk drained. Log 97 (DEDUCED). -/
def drainFirst : List Chunk → List Chunk
  | [] => []
  | ch :: t => if ch.drained then ch :: drainFirst t else { ch with drained := true } :: t

/-- R231, R245: the speculative sectors of the strand's oldest undrained chunk reach their homes as pending data, and its
commit request leaves; at D0 only when it is the strand's oldest chunk. Log 94 (DEDUCED). -/
def execPendingDrain (c : Sid) (s : State) : Res :=
  let st := s.strand c
  let may := if ordered s st then st.waiting.any fun ch => !ch.drained
    else match st.waiting.head? with | some ch => !ch.drained | none => false
  event s (if may then some (s.setStrand c { st with waiting := drainFirst st.waiting }) else none)

/-- R231: at D0 the arbiter grants the strand's oldest chunk; at D1 and D2 grants fall at quantum ends (R239). The removal of
a `tlbinv` in that chunk comes first, at a time of its own (R221, R257). -/
def execChunkGrant (c : Sid) (s : State) : Res :=
  event s (if removalDue s c then purge s c
    else if detOf s (s.strand c).lid = 0 then grantAny s c 0 else none)

/-- Has the strand to whose solo chunk this one lost its slot committed that chunk (R234)? -/
def winnerDone (s : State) (c : Sid) : Bool :=
  match (s.strand c).soloAfter with
  | some (k, n) => let w := s.strand ⟨c.core, k⟩; w.solo.isNone || decide ((w.chunkSeq + 2 ^ 64 - n) % 2 ^ 64 < 2 ^ 63)
  | none => true

/-- Is the strand next in line for the solo slot that it waits for, with no holder of the slot (R234)? A parked or stopped
strand, and one that lost its slot to a chunk not yet committed, starts no attempt and is passed over. -/
def soloNext (s : State) (c : Sid) : Bool :=
  let st := s.strand c
  match st.solo with
  | none => false
  | some a =>
    let line := (s.solo.filter fun p => p.1 == a).map Prod.snd
    let free := line.all fun d => !(s.strand d).soloHeld
    free && (line.filter fun d => !(s.strand d).parked && !(s.strand d).stopped && winnerDone s d).head? == some c

/-- The strand takes the slot; its next attempt runs solo. -/
def takeSolo (s : State) (c : Sid) : State := s.setStrand c { s.strand c with soloHeld := true, soloAfter := none }

/-- R234: in arrival order at D0; at D1 and D2 slots are granted at quantum ends. -/
def execSoloSlotGrant (c : Sid) (s : State) : Res :=
  event s (if detOf s (s.strand c).lid = 0 ∧ soloNext s c then some (takeSolo s c) else none)

/-! ## Results (R189) -/

/-- The strand's result is there and its chunk has committed: written before the next chunk, which may then start. -/
def returnResult (s : State) (c : Sid) : Option State :=
  let st := s.strand c
  match st.await with
  | some w =>
    match w.got with
    | some v =>
      if st.waiting.isEmpty && st.opened.isNone then
        let a := match v with | some x => st.arch.wg (BitVec.ofNat 5 w.rd) x | none => st.arch
        some (restIfIdle (s.setStrand c { st with arch := a, await := none, run := if st.run = .result then .ready else st.run }) c)
      else none
    | none => none
  | none => none

/-- R189. -/
def execResultReturn (c : Sid) (s : State) : Res := event s (returnResult s c)

/-! ## Traps (R331 to R333) -/

/-- R331: the squashed chunk begins again from its start state in stepping mode. -/
def execSteppingReexecution (c : Sid) (s : State) : Res :=
  let st := s.strand c
  event s (if st.stepping ∧ st.opened.isNone ∧ st.sync.isNone ∧ readiness s c = .go then some (openFor s c) else none)

/-- The rank of an asynchronous cause at a boundary (R332). -/
def causeRank (t : Trap) : Nat :=
  if t.code = 0x12 ∨ t.code = 0x13 ∨ t.code = 0x14 then 0 else if t.code = 0x05 then 1 else if t.code = 0x11 then 2 else 3

/-- The pending cause to take first, by rank and then arrival. -/
def firstPending (l : List Pending) : Option Pending :=
  l.foldl (fun b p => match b with
    | none => some p
    | some q => if causeRank p.trap < causeRank q.trap then some p else some q) none

/-- A strand loses its armed wait, at a port or on its way there (R322, R332, R358). -/
def loseWait (s : State) (c : Sid) : State :=
  let ctx := s.ctx c
  { s with
    cores := s.cores.map fun p => (p.1, { p.2 with arms := p.2.arms.filter fun a => !(a.who == c && a.ctx == ctx) }),
    eng := { s.eng with ops := s.eng.ops.filter fun o => !(o.src == c && o.ctx == ctx && !o.unit
      && (match o.rel with | .arm _ _ _ => true | _ => false)) } }

/-- The trap of a strand that stands at a boundary: the synchronous one, else the first pending cause (R332). A strand that
waits in `kwait` takes a pending cause at the `kwait`, which it executes again; a STEP due after it is not taken. -/
def trapAtBoundary (s : State) (c : Sid) : State :=
  let st := s.strand c
  match (if st.run = RunState.kwait then none else st.sync) with
  | some t => reportTrap s c t
  | none =>
    match firstPending st.pend with
    | none => s
    | some p =>
      let s := if st.run = RunState.kwait then loseWait s c else s
      let pc := match p.pc, st.kw with
        | some q, _ => q
        | none, some k => if st.run = .kwait then k.pc else st.arch.pc
        | none, none => st.arch.pc
      let s := s.setStrand c { s.strand c with pend := st.pend.erase p }
      takeTrap s c p.trap pc

/-- R330. -/
def execTrapEntry (c : Sid) (s : State) : Res :=
  event s (if readiness s c = .trap then some (trapAtBoundary s c) else none)

/-- R57: the fetched word is no instruction; ILLOP with the word. -/
def execUnallocatedEncoding (sub : BitVec 4) (val : Word) (s : State) : Res :=
  if s.me.run = .none then .fault .noStrand else .next (raiseSync s s.cur ⟨0x01, sub, val⟩)

/-- R58, R333: the fetch of the next instruction faults; at the first instruction of a handler the strand stops. -/
def execInstructionFetchFault (cause : BitVec 8) (sub : BitVec 4) (val : Word) (s : State) : Res :=
  let s := flagFetch s s.cur cause.toNat val
  if s.me.run = .none then .fault .noStrand
  else if s.me.handler ∧ (chunkOf s s.cur).retired = 0 then .next (unhandled s s.cur)
  else .next (raiseSync s s.cur ⟨cause, sub, val⟩)

/-! ## Operations (R194 to R203, R285) -/

/-- Is the operation placed on its own, not at a quantum end (R239)? -/
def freeOp (s : State) (o : Op) : Bool := o.grp == 0 || (s.launch o.grp).isNone

/-- The event of an operation of a kind. -/
def opNow (s : State) (num : Nat) (kind : Rel → Bool) : Res :=
  event s (opEvent s num fun o => kind o.rel && !o.held && freeOp s o)

/-- R194. -/
def execCounterAdd (op : Nat) (s : State) : Res := opNow s op fun r => match r with | .add _ _ => true | _ => false

/-- R195. -/
def execCheckAndArm (op : Nat) (s : State) : Res := opNow s op fun r => match r with | .arm _ _ _ => true | _ => false

/-- R197. -/
def execCounterDraw (op : Nat) (s : State) : Res := opNow s op fun r => match r with | .draw _ _ => true | _ => false

/-- R198. -/
def execCounterSet (op : Nat) (s : State) : Res := opNow s op fun r => match r with | .set _ _ => true | _ => false

/-- R285: a held operation is tried again; one of a quantum group only at that group's ends (R239). -/
def execSpillRetry (op : Nat) (s : State) : Res := event s (opEvent s op fun o => o.held && freeOp s o)

/-- R201. -/
def execRemoteOperation (op : Nat) (s : State) : Res :=
  opNow s op fun r => match r with | .remote _ _ _ _ _ _ => true | _ => false

/-- R203. -/
def execPostedAtomic (op : Nat) (s : State) : Res :=
  opNow s op fun r => match r with | .posted _ _ _ _ _ _ => true | _ => false

/-! ## Engines (R209, R313, R316, R320) -/

/-- R209: at D1 and D2 transfers start and write at quantum ends (R237). -/
def execCopyTransferStart (x : Nat) (s : State) : Res :=
  event s (match findCopy s x with
    | some c => if c.grp = 0 ∨ (s.launch c.grp).isNone then startCopy s x else none
    | none => none)

/-- R209. -/
def execCopyBlockWrite (x block : Nat) (s : State) : Res :=
  event s (match findCopy s x with
    | some c => if c.grp = 0 ∨ (s.launch c.grp).isNone then copyBlock s x block else none
    | none => none)

/-- R313. -/
def execCollectiveStart (k : Nat) (s : State) : Res :=
  event s (match findColl s k with
    | some c => if c.qgrp = 0 ∨ (s.launch c.qgrp).isNone then startColl s k else none
    | none => none)

/-- R320. -/
def execCollectivePartial (die : Nat) (p : Partial) (s : State) : Res := event s (receivePartial s die p)

/-- R316. -/
def execCollectiveComplete (k : Nat) (s : State) : Res :=
  event s (match findColl s k with
    | some c => if c.qgrp = 0 ∨ (s.launch c.qgrp).isNone then completeColl s k else none
    | none => none)

end Sys2Proof.Machine
end

