-- ==== Sys2Proof/Machine/Env.lean ====
section
/-! DEFINITION. What the schedule does besides instructions and events: TIME passes, a cluster's clock ticks, an
uncorrectable error strikes. -/

namespace Sys2Proof.Machine

/-- TIME advances (R32); the module must be powered. Log 90 (DEDUCED). -/
def elapse (s : State) (ns : Nat) : State := if s.boot.powered then { s with time := s.time + ns } else s

/-- The account that counts a cycle of a strand (R362). -/
def accountOf (co : Core) (st : Strand) : Nat :=
  if st.parked || st.stopped then 6
  else match st.run with
    | .none | .halted _ | .lost => 7
    | .kwait | .result => if st.waiting.isEmpty then (if co.asleep then 7 else 3) else 4
    | .boundary => 4
    | .ready => if st.opened.isNone && !st.waiting.isEmpty && st.issued != 0 then 4 else st.issued

/-- A cycle of one strand: its account, saturating at 48 bits, and the cycles of its attempt.
Log 90 (DEDUCED), 99 (DEDUCED). -/
def tickStrand (co : Core) (k : Nat) : Core :=
  let st := fget co.strands Strand.reset k
  let a := accountOf co st
  let co := { co with acct := fset co.acct (k * 8 + a) (Nat.min (2 ^ 48 - 1) (fget co.acct 0 (k * 8 + a) + 1)) }
  let opened := st.opened.map fun ch =>
    if a < 3 then { ch with cycles := setNth ch.cycles a (nth ch.cycles 0 a + 1) } else ch
  { co with strands := fset co.strands k { st with opened := opened, issued := if st.issued = 0 then 1 else st.issued } }

/-- A cycle of every core of a cluster and of its CYCLE (R32, R345, R346); none passes while the clock mode
changes. Log 90 (DEDUCED). -/
def tick (s : State) (n : Nat) : State :=
  let cl := s.cluster n
  if !s.boot.powered || cl.changing.isSome then s
  else
    let s := s.setCluster n { cl with cycle := (cl.cycle + 1) % 2 ^ 64 }
    (upto (n * 16) 16).foldl (fun s l =>
      let co := s.core l
      if co.nstr = 0 then s else s.setCore l ((upto 0 co.nstr).foldl tickStrand co)) s

/-- The site that a unit of the repair map has now: die and a number (clusters from 4,096, slices from 8,192). -/
def siteCode (s : State) (u : RepairUnit) : Nat × Nat :=
  match u with
  | .core d c k => let p := coreSite s (d * 3200 + c * 16 + k); (d, (p.1 * 16 + p.2.1) * 17 + p.2.2)
  | .cluster d c => let p := clusterSite s d c; (d, 4096 + p.1 * 16 + p.2)
  | .slice d k => (d, 8192 + match repairEntry s d 3 k 0 with | some e => bits e 37 32 | none => k)

/-- Length of a window in ns. -/
def windowLength : Nat := 86400000000000

/-- The counts of corrected errors are those of the window that TIME is in (R343). -/
def rollWindow (s : State) : State :=
  if s.boot.window < s.time / windowLength then
    { s with dies := s.dies.map fun p => (p.1, { p.2 with ce := [] }), boot := { s.boot with window := s.time / windowLength } }
  else s

/-- A corrected error counts toward the repair threshold of its site (R337, R343).
Log 89 (DEDUCED). -/
def countCorrected (s : State) (u : RepairUnit) : State :=
  let s := rollWindow s
  let p := siteCode s u
  let d := s.die p.1
  s.setDie p.1 { d with ce := fset d.ce p.2 (fget d.ce 0 p.2 + 1) }

/-- The state with the `k`-th chunk of a strand changed, counted from the oldest that has not committed. -/
def onChunk (s : State) (c : Sid) (k : Nat) (f : Chunk → Chunk) : State :=
  let st := s.strand c
  if k < st.waiting.length then s.setStrand c { st with waiting := st.waiting.modify k f }
  else if k = st.waiting.length then s.setStrand c { st with opened := st.opened.map f }
  else s

/-- An uncorrectable error strikes (R338): the place is poisoned, and a speculative sector's chunk is squashed and
runs again without counting. Log 89 (DEDUCED). -/
def upset (s : State) (u : Config.Upset) : State :=
  match u with
  | .halfLine n => { s with poison := fset s.poison n true }
  | .poolWord l n => s.setCore l { s.core l with poolBad := fset (s.core l).poolBad n true }
  | .register c n =>
    let st := s.strand c
    s.setStrand c { st with arch := { st.arch with bad := fset st.arch.bad n true } }
  | .counter l i => s.setCore l { s.core l with ctrBad := fset (s.core l).ctrBad i true }
  | .sector c k => squashFrom s c k 5 false
  | .undoEntry c k g => onChunk s c k fun ch => { ch with badUndo := g :: ch.badUndo }
  | .shadow c k => onChunk s c k fun ch => { ch with badShadow := true }
  | .tag line => { s with tags := fdel s.tags line }
  | .corrected u => countCorrected s u

end Sys2Proof.Machine
end

