-- ==== Sys2Proof/Machine/Inputs.lean ====
section
/-! DEFINITION. Inputs from outside the module (R237, R240, R327 to R329) and access notices (R259): where each is placed,
and what holds it for a quantum end. -/

namespace Sys2Proof.Machine

/-! ## Placing an input -/

/-- The context for which an add from outside acts on core `l`: that of the claiming launch, of the holding queue, or of a
husked occupancy (R265). -/
def coreContext (s : State) (l : Nat) : Option Nat :=
  let co := s.core l
  match co.claim, co.hold, co.husked with
  | some lid, _, _ => some (ctxOf s lid)
  | none, some c, _ => some c
  | none, none, lid :: _ => some (ctxOf s lid)
  | none, none, [] => none

/-- The state with one more host error (R329). Log 57 (DEDUCED). -/
def hostError (s : State) : State := { s with net := { s.net with hostErr := s.net.hostErr + 1 } }

/-- A host's add to a handle (R265, R329): for the context that the core serves; where there is none it is discarded and
counted as a host error. -/
def hostAdd (s : State) (h : Word) (amount : Nat) : State :=
  match (handleOf h).bind fun p => if (s.die (dieOf p.1)).lost then none else coreContext s p.1 with
  | some ctx => unitAdd s ⟨0, 0⟩ ctx h amount
  | none => hostError s

/-- Has the module a launch or a queue of the context? -/
def ctxHere (s : State) (ctx : Nat) : Bool := ctxLive s ctx || s.cores.any fun p => p.2.hold == some ctx

/-- An add from another module, for the context that it carries (R265): a refused one is discarded and counted in that
context's DROPPED, where the module has the context. Log 115 (DEDUCED). -/
def linkAdd (s : State) (ctx : Nat) (h : Word) (amount : Nat) : State :=
  if addRefused s ctx h && !ctxHere s ctx then s else unitAdd s ⟨0, 0⟩ ctx h amount

/-- The bytes of a line that a mask selects. -/
def maskedBytes (key : Nat) (data : List Byte) (mask : BitVec 64) : FMap Byte :=
  ((upto 0 64).zip data).filterMap fun p => if mask.toNat.testBit p.1 then some (key + p.1, p.2) else none

/-- Has the module applied operation `q` of a source? -/
def wasApplied (s : State) (src q : Nat) : Bool := s.net.applied.contains (src, q)

/-- A posted atomic of another module at its home: nobody of this module takes its faults.
Log 37 (DEDUCED). -/
def placePosted (s : State) (who : Sid) (pa : Nat) (fn : BitVec 2) (t : PTy) (v : Word) : Option State :=
  let n := postedBytes t
  if !localOk pa || (s.die (pa / dieStep)).lost || anyPoison s pa n || pa % n != 0 then some s
  else
    let old := leNat ((upto pa n).map fun k => committedByte s 0 k)
    (placeWrite s 0 (atKeys pa (leBytes n (combine fn t old v.toNat)))).map fun s =>
      engineWatch (traceEvent s 2 .package 0 who 0 (pa / 64 * 64) who.core 0) none (upto pa n) 2 (watchSource who false)

/-- A copy block of another module at its homes, one event with its poison markers (R209, R210).
Log 37 (DEDUCED). -/
def placeArrival (s : State) (ident pa : Nat) (bytes : List (Option (Byte × Bool))) : Option State :=
  let w : FMap (Byte × Bool) := ((upto pa bytes.length).zip bytes).filterMap fun p => p.2.map fun b => (p.1, b)
  if !localOk pa || !localOk (pa + bytes.length - 1) || (s.die (pa / dieStep)).lost then some s
  else (placeWrite s 0 (w.map fun e => (e.1, e.2.1))).map fun s =>
    let s := { s with poison := (poisonedUnits w 32).foldl (fun p h => fset p h true) s.poison }
    let s := traceEvent s 5 .package 0 ⟨0, 0⟩ (ident % 2 ^ 30) ident 0 0
    engineWatch s none (w.map Prod.fst) 1 (BitVec.ofNat 64 ident)

/-- An input is placed (R237); none: it waits for a solo chunk or for blocks that must precede it.
Log 37 (DEDUCED). -/
def placeInput (s : State) (i : Input) : Option State :=
  match i with
  | .add h n => some (hostAdd s h n)
  | .write key data mask => placeWrite s 0 (maskedBytes key data mask)
  | .block _ _ ident pa bytes => placeArrival s ident pa bytes
  | .posted _ _ who pa fn t v => placePosted s who pa fn t v
  | .after _ _ ctx h n _ => some (linkAdd s ctx h n)

/-! ## What holds an input (R237, R240) -/

/-- The quantum group whose end places an add to a handle. -/
def addGroup (s : State) (h : Word) : Option Nat :=
  match handleOf h with
  | none => none
  | some (l, _) => match (s.core l).claim with
    | some lid => if detOf s lid = 0 then none else some (groupOf s lid)
    | none => none

/-- Is a D1 or D2 quantum group live? -/
def anyGroup (s : State) : Bool := s.lu.launches.any fun p => p.2.det != 0

/-- Does the input wait for a quantum end? -/
def inputHeld (s : State) (i : Input) : Bool :=
  match i with
  | .add h _ | .after _ _ _ h _ _ => (addGroup s h).isSome
  | _ => anyGroup s

/-- May the quantum end of group `q` place the input? -/
def endTakes (s : State) (q : Nat) (i : Input) : Bool :=
  match i with
  | .add h _ | .after _ _ _ h _ _ => match addGroup s h with | some k => k == q | none => true
  | _ => true

/-- Is a held input the operation of a source that bears one of some numbers? -/
def isMsg (src : Nat) (l : List Nat) : Input → Bool
  | .block a b _ _ _ | .posted a b _ _ _ _ _ => a == src && l.contains b
  | _ => false

/-- Must the input wait for others that are held, those `ahead` of it and those `behind` it in arrival order: a host add for
the host writes ahead, a copy's add for every block of it (R237, R240, R328)? -/
def inputWaits (s : State) (ahead behind : List Input) (i : Input) : Bool :=
  match i with
  | .add _ _ => ahead.any fun j => match j with | .write _ _ _ => true | _ => false
  | .after src _ _ _ _ l => l.any (fun k => !wasApplied s src k) || (ahead ++ behind).any (isMsg src l)
  | _ => false

/-- Places, in arrival order, the inputs that meet a test and wait for no other; `ahead` holds those passed over. -/
def drainFrom (ok : State → Input → Bool) : State → List Input → List Input → State
  | s, ahead, [] => { s with net := { s.net with inputs := ahead } }
  | s, ahead, i :: rest =>
    match if ok s i && !inputWaits s ahead rest i then placeInput s i else none with
    | some s => drainFrom ok s ahead rest
    | none => drainFrom ok s (ahead ++ [i]) rest

/-- Places the held inputs that meet a test and wait for no other. -/
def drainInputs (s : State) (ok : State → Input → Bool) : State := drainFrom ok s [] s.net.inputs

/-- Places what no quantum end holds. -/
def drainFree (s : State) : State := drainInputs s fun s i => !inputHeld s i

/-- An input arrives: placed at once, and what waited for it, or held for a quantum end; none: it cannot be placed yet. -/
def takeInput (s : State) (i : Input) : Option State :=
  let s := drainFree s
  if inputHeld s i || inputWaits s s.net.inputs [] i then
    some { s with net := { s.net with inputs := s.net.inputs ++ [i] } }
  else (placeInput s i).map drainFree

/-! ## Access notices (R259) -/

/-- The bytes of a notification record (Table 9.6). -/
def noticeBytes (d : Nat) (n : Notice) : List Byte :=
  leBytes 8 (n.page * 0x10000) ++ leBytes 8 (n.count % 2 ^ 16 * 2 ^ 48 + n.kind * 2 ^ 40 + d * 2 ^ 32) ++ leBytes 8 n.stamp
  ++ leBytes 8 0

/-- The value of NQCTR before the add (R259): of a husked counter the saved value with the adds that its spill ring holds;
none where the husk cannot be read. Log 112 (DEDUCED). -/
def noticeCount (s : State) (ctx l i : Nat) : Option Nat :=
  if huskedHere s ctx l && !anchorOf s ctx l then
    let spilled := s.eng.ops.foldl (fun n o => match o.rel with
      | .add h k => if o.spilled && o.ctx == ctx && handleOf h == some (l, i) then n + k else n
      | _ => n) 0
    (hubRead s ctx (huskAddr s ctx l + BitVec.ofNat 64 (0x4000 + 8 * i)) 8).map fun b => leNat b + spilled
  else some (fget (s.core l).ctr 0 i).toNat

/-- A notice of a die: the record, then the add to NQCTR; neither where the record has no place; none: an earlier notice of its
context is to come first, or it waits for a solo chunk or a write-blocked page (R260). -/
def placeNotice (s : State) (d : Nat) (n : Notice) : Option State :=
  let gone := s.setDie d { s.die d with notices := (s.die d).notices.erase n }
  let size := bits (memWord s (n.ctx + 24)) 15 0
  let h := memWord s (n.ctx + 16)
  if (s.die d).notices.find? (fun m => m.ctx == n.ctx) ≠ some n then none
  else match (handleOf h).bind fun p => noticeCount s n.ctx p.1 p.2 with
    | none => some gone
    | some k =>
      if !ringSize size || memWord s (n.ctx + 8) == 0 then some gone
      else
        match unitSpot s d n.ctx (memWord s (n.ctx + 8) + BitVec.ofNat 64 (k % size * 32)) .write false with
        | .error _ => some gone
        | .ok p =>
          if bitOf p.leaf 6 then none
          else (placeWrite gone p.leaf (atKeys p.sig (noticeBytes d n))).map fun s => unitAdd s ⟨0, 0⟩ n.ctx h 1

/-- Does a notice of the die belong to a context with a D1 or D2 launch, so that a quantum end places it? -/
def noticeGroup (s : State) (ctx : Nat) : Option Nat :=
  (s.lu.launches.find? fun p => p.2.ctx == ctx && p.2.det != 0).map fun p => groupOf s p.1

end Sys2Proof.Machine
end

