-- ==== Sys2Proof/Machine/Quantum.lean ====
section
/-! DEFINITION. The end of a quantum of a quantum group (R237, R239, R288, R289, Table 8.3), and child launches (R274). -/

namespace Sys2Proof.Machine

/-! ## Child launches (R274) -/

/-- The context and parent of a child record. -/
def childRec (parent ctx : Nat) (va : Word) (dwords : List Word) (since : Nat) : Rec :=
  { queue := none, parent := some parent, ctx := ctx, va := va, dwords := dwords, since := since, body := none }

/-- A checked child record: accepted if its cores are free, else it waits; none: it waits for a solo chunk. -/
def admitChild (s : State) (r : Rec) (x : Launch) : Option State :=
  if canAccept s x then acceptLaunch s x
  else some { s with lu := { s.lu with children := s.lu.children ++ [{ r with body := some x }] } }

/-- The launch unit reads and checks a submitted child record (R215, R270, R274). A child record of KIND 1 retires at once
and changes no mode. Log 35 (DEDUCED). -/
def submitChild (s : State) (o : Op) : Option State :=
  match o.rel with
  | .launch va lid =>
    let s := dropOp s o.num
    match readDwords s o.ctx va 32 with
    | none => refuseRecord s (childRec lid o.ctx va [] s.time) 0x14
    | some l =>
      let r := childRec lid o.ctx va l s.time
      match checkRecord s r with
      | .error e => refuseRecord s r e
      | .ok none => retireMode s r
      | .ok (some x) => admitChild s r x
  | _ => none

/-- A child record that waits is accepted once its cores are free. -/
def acceptChild (s : State) (r : Rec) : Option State :=
  match r.body with
  | none => none
  | some x =>
    let gone := { s with lu := { s.lu with children := s.lu.children.erase r } }
    match siteCheck s x with
    | some e => refuseRecord gone r e
    | none => if canAccept s x then acceptLaunch gone x else none

/-! ## When a quantum ends (R288) -/

/-- The live launches of a quantum group, by number. -/
def groupLaunches (s : State) (q : Nat) : List Nat :=
  (s.lu.launches.filter fun p => p.2.det != 0 && groupOf s p.1 == q).map Prod.fst

/-- The strands of a quantum group, in (core, strand) order. -/
def groupStrands (s : State) (q : Nat) : List Sid :=
  (allStrands s).filter fun c =>
    let st := s.strand c
    st.run != .none && detOf s st.lid != 0 && groupOf s st.lid == q

/-- Does the strand take nothing further before a grant of what it has ended (R11, R228, R332)? -/
def needsGrant (st : Strand) : Bool :=
  !st.waiting.isEmpty && (st.sync.isSome || (st.opened.isNone
    && (takeable st || st.parkReq || st.waiting.any fun ch => ch.watch.isSome)))

/-- Has the strand reached its boundary, ended, or stalled on what only a quantum end can give? A store at a write-blocked
page waits for something else, and the end waits for a strand that the debugger has stopped (R352). -/
def strandWaits (s : State) (c : Sid) : Bool :=
  let st := s.strand c
  st.waiting.all (fun ch => ch.drained) && (match st.run with
    | .halted _ | .lost | .none => true
    | .boundary => !st.stopped
    | .kwait => !st.stopped && (st.parked || !takeable st || !st.waiting.isEmpty)
    | .result => !st.stopped && (match st.await with | some w => w.got.isNone | none => true)
    | .ready =>
      !st.stopped && (st.parked || (st.issued == 2 && st.blocked.isNone) || needsGrant st
        || (st.opened.isNone && (st.preReq || (st.solo.isSome && !st.soloHeld) || st.soloHeldBack || !membersParked s c))))

/-- Does a twin pair of the group wait for its third run (R292)? -/
def thirdRunDue (s : State) (c : Sid) : Bool :=
  match twinPair s c with
  | some (a, b) => (s.strand a).third.isSome || (match twinHeads s a b with
    | some (x, y) => decide ((s.strand a).mismatch ≠ 0) && !twinsAgree s a b x y
    | none => false)
  | none => false

/-- Can a collective of the group that runs complete at this end, or is it for the next view (R319)? -/
def collDue (s : State) (q : Nat) (x : Coll) : Bool :=
  x.qgrp != q || !x.running || x.failed || (s.group x.grp).state == 3
  || (ffind (s.die (collDie x)).view (q * 4096 + x.grp)).isSome || allHere s x

/-- Does a child record of the group wait for cores that launches outside the group hold (R288)?
Log 24 (DEDUCED). -/
def childBlocks (s : State) (q : Nat) : Bool :=
  s.lu.children.any fun r =>
    (match r.parent with | some p => groupOf s p == q | none => false)
    && (match r.body with
        | some x => (acceptCores x).any fun l =>
            match (s.core l).claim with | some lid => groupOf s lid != q && !claimIdle s l lid | none => !coreFree s x.ctx l
        | none => false)

/-- Does a quantum end occur now? Log 22 (DEDUCED). -/
def quantumEnds (s : State) (q : Nat) : Bool :=
  !(groupLaunches s q).isEmpty
  && (groupLaunches s q).all (fun lid => match s.launch lid with | some x => x.husks.isEmpty | none => true)
  && (groupStrands s q).all (fun c => strandWaits s c && !thirdRunDue s c)
  && s.eng.colls.all (fun x => collDue s q x) && !childBlocks s q

/-! ## Groups 1 and 2: grants -/

/-- A grant at a quantum end, after the removal of a `tlbinv` that is still due (R221). -/
def grantAtEnd (s : State) (c : Sid) (q : Nat) : Option State := grantAny ((purge s c).getD s) c q

/-- Grants a strand's chunks in program order, until one waits or none is left. -/
def grantsOf (q : Nat) : Nat → State → Sid → State
  | 0, s, _ => s
  | n + 1, s, c =>
    match grantAtEnd s c q with
    | some s => grantsOf q n s c
    | none => s

/-- Is the strand's oldest chunk solo? -/
def soloFirst (s : State) (c : Sid) : Bool := match (s.strand c).waiting with | ch :: _ => ch.solo | [] => false

/-- Is the strand the second copy of a twin pair, whose chunks go with the first's? -/
def secondCopy (s : State) (c : Sid) : Bool := match (s.strand c).twin with | some (_, false) => true | _ => false

/-- Group 1: the solo chunk that waits; group 2: the others. -/
def endGrants (s : State) (q : Nat) : State :=
  let l := (groupStrands s q).filter fun c => !secondCopy s c
  let s := l.foldl (fun s c => if soloFirst s c then (grantAtEnd s c q).getD s else s) s
  l.foldl (fun s c => grantsOf q (s.strand c).waiting.length s c) s

/-! ## Groups 3 to 6 and 8: operations of strands -/

/-- Does an operation come before another: by issuer, then release? -/
def opBefore (a b : Op) : Bool :=
  if a.src.core ≠ b.src.core then decide (a.src.core < b.src.core)
  else if a.src.strand ≠ b.src.strand then decide (a.src.strand < b.src.strand)
  else decide (a.num ≤ b.num)

/-- Inserts into a sorted list. -/
def placeBy {α : Type} (le : α → α → Bool) (x : α) : List α → List α
  | [] => [x]
  | y :: t => if le x y then x :: y :: t else y :: placeBy le x t

/-- Sorts a list. -/
def orderBy {α : Type} (le : α → α → Bool) (l : List α) : List α := l.foldr (placeBy le) []

/-- The group of Table 8.3 that places an operation of a strand. -/
def opGroup : Rel → Nat
  | .posted _ _ _ _ _ _ => 3
  | .remote _ _ _ _ _ _ => 4
  | .add _ _ | .set _ _ => 5
  | .draw _ _ => 6
  | _ => 8

/-- An operation at a quantum end, one held at a spill ring included; one that must wait stays for a later end (R239, R285).
Log 23 (DEDUCED). -/
def opAtEnd (s : State) (num : Nat) : State :=
  match findOp s num with
  | none => s
  | some o =>
    if o.spilled ∨ behindHeld s o ∨ (isGated o.rel ∧ gateShut s o.src o.num) then s
    else match o.rel with
      | .launch _ _ => (submitChild s o).getD s
      | _ => (deliver s o).getD s

/-- Places the operations of one group of Table 8.3. -/
def endOps (s : State) (q k : Nat) : State :=
  let l := orderBy opBefore (s.eng.ops.filter fun o => o.grp == q && !o.unit && opGroup o.rel == k)
  l.foldl (fun s o => opAtEnd s o.num) s

/-! ## Group 7: engines, arrivals -/

/-- What is due of an engine at this end: identifier, number, whether it is a copy (R237). -/
def engineDue (s : State) (q : Nat) : List (Nat × Nat × Bool) :=
  orderBy (fun a b => decide (a.1 ≤ b.1))
    (((s.eng.copies.filter fun x => x.grp == q && x.st == .running).map fun x => (x.ident.toNat, x.num, true))
     ++ (s.eng.colls.filter fun x => x.qgrp == q && (x.running || x.failed)).map fun x => (x.ident.toNat, x.num, false))

/-- The blocks of a copy, rising. -/
def endCopy (s : State) (num : Nat) : State :=
  match findCopy s num with
  | none => s
  | some x => (copyBlocks x).foldl (fun s b => (copyBlock s num b).getD s) s

/-- A collective goes on to its end: its destination, block by block (R237, R316). -/
def endColl : Nat → State → Nat → State
  | 0, s, _ => s
  | n + 1, s, num =>
    match completeColl s num with
    | some s => if (findColl s num).isSome then endColl n s num else s
    | none => s

/-- Blocks of a collective's destination, at most. -/
def collBlocks (s : State) (x : Coll) : Nat := destElems x (s.group x.grp).full.length * collSize x / 512 + 2

/-- The notices of a die whose contexts this group's ends serve. -/
def endNotices (s : State) (q d : Nat) : State :=
  ((s.die d).notices.filter fun n => noticeGroup s n.ctx == some q).foldl (fun s n => (placeNotice s d n).getD s) s

/-- Group 7: engine blocks and completions by identifier, then arrivals in order with the views, then access notices. -/
def endEngines (s : State) (q : Nat) : State :=
  let s := (engineDue s q).foldl (fun s e =>
    if e.2.2 then endCopy s e.2.1
    else match findColl s e.2.1 with
      | some x => endColl (collBlocks s x) s e.2.1
      | none => s) s
  let s := drainFree (drainInputs s fun s i => endTakes s q i)
  let s := applyLagging s q
  (upto 0 8).foldl (fun s d => endNotices s q d) s

/-! ## Group 8: starts, waits -/

/-- Copies and collectives of the group that are to start, in (issuer, release) order. -/
def engineStarts (s : State) (q : Nat) : List (Sid × Nat × Bool) :=
  let le := fun (a b : Sid × Nat × Bool) =>
    if a.1.core ≠ b.1.core then decide (a.1.core < b.1.core)
    else if a.1.strand ≠ b.1.strand then decide (a.1.strand < b.1.strand) else decide (a.2.1 ≤ b.2.1)
  orderBy le
    (((s.eng.copies.filter fun x => x.grp == q && x.st != .running).map fun x => (x.src, x.num, true))
     ++ (s.eng.colls.filter fun x => x.qgrp == q && !x.running).map fun x => (x.src, x.num, false))

/-- The waits of the group's strands that their counters satisfy end (R195). -/
def endWaits (s : State) (q : Nat) : State :=
  let due := s.cores.flatMap fun p => (p.2.arms.filter fun a =>
    decide (a.val ≤ (fget p.2.ctr 0 a.i).toNat) && groupOf s (strandOf s a.ctx a.who).lid == q).map fun a => (p.1, a)
  due.foldl (fun s e =>
    let co := s.core e.1
    wake (s.setCore e.1 { co with arms := co.arms.erase e.2 }) e.2.ctx e.2.who) s

/-- Group 8. An operation of a collective starts once each of its members has a slot, so collectives have a second turn.
Log 22 (DEDUCED). -/
def endStarts (s : State) (q : Nat) : State :=
  let l := engineStarts s q
  let s := l.foldl (fun s e => (if e.2.2 then startCopy s e.2.1 else startColl s e.2.1).getD s) s
  let s := (l.filter fun e => !e.2.2).foldl (fun s e => (startColl s e.2.1).getD s) s
  endWaits (endOps s q 8) q

/-! ## Watch reports (R358) -/

/-- The interrupt of R284 step 2 reaches a strand: a chunk whose commit request has not been sent is squashed with those after
it, unless a held region, a solo chunk or a bunch is among them. Log 36 (DEDUCED). -/
def cutShort (s : State) (c : Sid) : State :=
  let st := s.strand c
  match st.chunks.findIdx? fun ch => !ch.drained with
  | none => s
  | some k =>
    if (leads s c).isSome || (st.chunks.drop k).any (fun ch => ch.held || ch.solo) then s else squashFrom s c k 4 false

/-- A strand is asked to stop with a REASON, which wakes its core (R349); one that issues nothing stops at once.
Log 63 (DEDUCED). -/
def requestStop (reason : Nat) (s : State) (c : Sid) : State :=
  let st := s.strand c
  if st.run = .none ∨ st.stopped then s
  else
    let s := s.setCore c.core { s.core c.core with asleep := false }
    let s := cutShort s c
    let s := s.setStrand c { s.strand c with debugReq := some reason }
    if st.parked then restNow s c else restIfIdle s c

/-- The strand that the WPCTL of a report names. -/
def Report.strand (r : Report) : Sid := ⟨r.core, bits r.ctl 25 24⟩

/-- A report reaches its strand: the record, then by ACT a trap, a stop or nothing (R350, R358). -/
def takeReport (s : State) (r : Report) : State :=
  let c := r.strand
  let s := { s with dbg := { s.dbg with reports := s.dbg.reports.erase r } }
  let s := debugRecord s c 2 r.wp r.sub r.addr r.source
  if (s.strand c).run = .none then s
  else match bits r.ctl 27 26 with
    | 0 => s.setStrand c { s.strand c with pend := (s.strand c).pend ++ [⟨mkTrap 0x0C r.sub r.source, none⟩] }
    | 1 => requestStop 2 s c
    | _ => s

/-- The reports of the cores that the group's strands run on reach them, in order; one for a strand that does not exist keeps
its place (R357, R358). -/
def endReports (s : State) (q : Nat) : State :=
  (s.dbg.reports.filter fun r => (groupStrands s q).any fun c => c.core == r.core).foldl takeReport s

/-! ## After the table: nodes, instances, counts (R288) -/

/-- Settles every due node of the group. -/
def settleDue (s : State) (q : Nat) : State :=
  (groupLaunches s q).foldl (fun s lid =>
    match s.launch lid with
    | some x => (upto 0 x.nodes.length).foldl (fun s k => settleNode s lid k) s
    | none => s) s

/-- Settles due nodes until none is left: a skipped node's add can make another due. -/
def settleAll (q : Nat) : Nat → State → State
  | 0, s => s
  | n + 1, s => settleAll q n (settleDue s q)

/-- The nodes of a group's launches. -/
def nodeCount (s : State) (q : Nat) : Nat :=
  (groupLaunches s q).foldl (fun n lid => match s.launch lid with | some x => n + x.nodes.length | none => n) 0

/-- A solo slot without a holder goes to the lowest strand of the group that waits for it (R234).
Log 22 (DEDUCED). -/
def endSolo (s : State) (q : Nat) : State :=
  (groupStrands s q).foldl (fun s c =>
    let st := s.strand c
    match st.solo with
    | some a =>
      if st.soloHeld ∨ (s.solo.any fun p => p.1 == a && (s.strand p.2).soloHeld) then s
      else takeSolo { s with solo := (a, c) :: s.solo.filter fun p => p != (a, c) } c
    | none => s) s

/-- A strand's count is reset; it goes on from its boundary. -/
def resetCount (s : State) (c : Sid) : State :=
  let st := s.strand c
  restIfIdle (s.setStrand c { st with quantum := 0, issued := if st.issued = 2 then 1 else st.issued,
                                      run := if st.run = .boundary then .ready else st.run }) c

/-- Retires the launches of the group that are done, children first (R274, R278).
Log 22 (DEDUCED). -/
def endRetire (s : State) (q : Nat) : State :=
  (groupLaunches s q).reverse.foldl (fun s lid =>
    match s.launch lid with
    | some x => if canRetire s x then (retireLaunch s lid).getD s else s
    | none => s) s

/-- A child record that waits is accepted if it can be. Log 22 (DEDUCED). -/
def endChildren (s : State) (q : Nat) : State :=
  s.lu.children.foldl (fun s r =>
    match r.parent with
    | some p => if groupOf s p = q then (acceptChild s r).getD s else s
    | none => s) s

/-- The end of a quantum of group `q` (R239, R288). Log 22 (DEDUCED). -/
def endQuantum (s : State) (q : Nat) : State :=
  let s := endGrants s q
  let s := [3, 4, 5, 6].foldl (fun s k => endOps s q k) s
  let s := endStarts (endEngines s q) q
  let s := endChildren s q
  let s := settleAll q (nodeCount s q) s
  let s := endReports s q
  let s := (groupStrands s q).foldl resetCount s
  let s := (groupStrands s q).foldl (fun s c => (returnResult s c).getD s) s
  let s := endSolo s q
  let s := (groupLaunches s q).foldl placeAll s
  endRetire s q

/-- Has an engine operation that is due at this end of group `q` not finished in `t`, so that the end waits (R237, R288)? -/
def engineLeft (s t : State) (q : Nat) : Bool :=
  (s.eng.copies.any fun x => x.grp == q && x.st == .running && (findCopy t x.num).isSome)
  || s.eng.colls.any fun x => x.qgrp == q && x.running && (s.group x.grp).state != 3
    && (ffind (s.die (collDie x)).view (q * 4096 + x.grp)).isNone && (findColl t x.num).isSome

/-- R288: a quantum end waits until every engine operation due at it can finish there. Log 23 (DEDUCED). -/
def execQuantumEnd (group : Nat) (s : State) : Res :=
  event s (
    if quantumEnds s group then
      let t := endQuantum s group
      if engineLeft s t group then none else some t
    else none)

end Sys2Proof.Machine
end

