-- ==== Sys2Proof/Machine/Launch.lean ====
section
/-! DEFINITION. Device events of the launch unit and the schedulers (R266 to R281, R290, R375): polling and reading queues,
mode changes, waiting records, readiness, dispatch, retirement, the ends and restarts that the runtime asks for. -/

namespace Sys2Proof.Machine

/-! ## Queues (R267, R375) -/

/-- R375, R267: a queue that is not served yet, or whose descriptor has turned invalid, is read again every 10 µs and when
its submission counter has advanced. Log 50 (DEDUCED). -/
def execQueuePoll (q : Nat) (s : State) : Res :=
  let x := s.queue q
  let d := queueDesc s q
  event s (
    if q < 64 ∧ hubReady s ∧ (!x.served ∨ queueInvalid s d)
        ∧ (!x.read ∨ x.polled + 10000 ≤ s.time ∨ x.seen < subCount s d)
    then some (readQueue s q) else none)

/-- Reads and checks the next record of a queue. -/
def fetchRecord (s : State) (q : Nat) : Option State :=
  let d := queueDesc s q
  let va := nextRecord s q
  let r : Rec := { queue := some q, parent := none, ctx := d.ctxd, va := va, dwords := [], since := s.time, body := none }
  let s := setQueue s q { s.queue q with fetched := (s.queue q).fetched + 1 }
  match readDwords s d.ctxd va 32 with
  | none => refuseRecord s r 0x14
  | some l =>
    let r := { r with dwords := l }
    match checkRecord s r with
    | .error e => refuseRecord s r e
    | .ok x =>
      if modeDiffers s r then some (setWaiting s q (some { r with body := x }))
      else match x with
        | some x => tryAccept s q r x
        | none => some (setWaiting s q (some r))

/-- R267, R274: the next record of queue `q`; from 64 on, the record that operation `q - 64` of a D0 strand submits.
Log 35 (DEDUCED), 92 (DESIGN CHOICE). -/
def execRecordFetch (q : Nat) (s : State) : Res :=
  event s (
    if q < 64 then (if recordWaits s q && !queueOutranked s q (peekPrio s q) then fetchRecord s q else none)
    else match findOp s (q - 64) with
      | some o => if freeOp s o && canArrive s o then submitChild s o else none
      | none => none)

/-- R290: every earlier launch of the queue has retired; the context takes the record's mode, and the record goes on, in the
order of R267. -/
def execModeChange (q : Nat) (s : State) : Res :=
  event s (match (s.queue q).waitingRec with
    | none => none
    | some r =>
      if !modeDiffers s r || !recordReady s q r || queueOutranked s q r.prio then none
      else
        let s := setCtx s r.ctx { ctxCopy s r.ctx with det := r.det, steady := r.steady }
        match r.body with
        | none => (retireMode s r).map fun s => setWaiting s q none
        | some x => tryAccept s q r x)

/-- R272, R274, R281: the record that waits in queue `q` takes its cores once they are free; from 64 on, child record
`q - 64` of those that wait. Log 92 (DESIGN CHOICE). -/
def execFootprintReserve (q : Nat) (s : State) : Res :=
  event s (
    if q < 64 then
      match (s.queue q).waitingRec with
      | none => none
      | some r => match r.body with
        | some x => if modeDiffers s r || !recordReady s q r || queueOutranked s q r.prio then none else tryAccept s q r x
        | none => none
    else match s.lu.children[q - 64]? with
      | some r => if r.det = 0 then acceptChild s r else none
      | none => none)

/-! ## Readiness and dispatch (R277 to R280) -/

/-- R277: at D0; at D1 and D2 readiness is evaluated at quantum ends (R288). -/
def execNodeReady (lid node : Nat) (s : State) : Res :=
  event s (match s.launch lid with
    | some x => match x.nodes[node]? with
      | some n => if x.det = 0 ∧ n.st = .due then some (settleNode s lid node) else none
      | none => none
    | none => none)

/-- Is instance `i` of a node to start at a unit (R280), or in replay mode as the log has it (R361)? Log 110 (DESIGN CHOICE). -/
def goesTo (s : State) (x : Launch) (node : Nat) (n : Node) (i core strand : Nat) (cores : List Nat) : Bool :=
  let d := (x.lev n.level).domain
  if (s.dbg.replay.any fun p => p.lid == x.lid) then
    fitUnit s x d core && (if d = 0 then (s.strand ⟨core, strand⟩).run == .none && decide (strand < x.nstr) else strand == 0)
      && replayTurn s x.lid (.die (dieOf core)) { kind := 7, who := ⟨core, strand⟩, what := i, other := 0 }
  else
    chooseUnit s x n i == some core && startsOn s x d core == some strand && !outranked s (keyOf s x node n i) cores

/-- R280: at D0 the first entry of the pool that fits takes the place that the rules give it; a twin with a core for its
second copy (R291). -/
def execInstanceDispatch (lid node i core strand : Nat) (s : State) : Res :=
  event s (do
    let x ← s.launch lid
    let n ← x.nodes[node]?
    let d := (x.lev n.level).domain
    if x.det ≠ 0 ∨ s.lu.throttled ∨ !(openInstances x n).contains i then none
    else if (x.lev n.level).twin then
      let t ← twinCore s x d core strand
      if goesTo s x node n i core strand (upto core (unitCores d) ++ upto t (unitCores d))
      then some (startInstance s lid node i core strand (some t)) else none
    else if goesTo s x node n i core strand (upto core (unitCores d))
    then some (startInstance s lid node i core strand none) else none)

/-- R278: at D0; a D1 or D2 launch retires at a quantum end. -/
def execLaunchRetire (lid : Nat) (s : State) : Res :=
  event s (match s.launch lid with
    | some x => if x.det = 0 ∧ canRetire s x then retireLaunch s lid else none
    | none => none)

/-! ## Ends and restarts by the runtime (R217, R278) -/

/-- Is a launch among the descendants of another (R274)? -/
def descends (s : State) (lid : Nat) : Nat → Nat → Bool
  | 0, k => k == lid
  | n + 1, k => k == lid || (match s.launch k with
    | some x => match x.parent with | some p => descends s lid n p | none => false
    | none => false)

/-- A strand vanishes with its chunks. Log 49 (DESIGN CHOICE). -/
def removeStrand (s : State) (c : Sid) : State :=
  let s := squashFrom s c 0 5 false
  let s := dropSolo (loseWait s c) c
  let s := dissolveBunch s c
  let s := s.setStrand c { Strand.reset with sqcnt := 0 }
  noteSteady s (clusterOf c.core)

/-- A launch is ended: its strands, husks, operations not yet placed, copies and collectives leave; STATE and RETCTR as at
its retirement. Log 49 (DESIGN CHOICE). -/
def killLaunch (s : State) (lid : Nat) : State :=
  match s.launch lid with
  | none => s
  | some x =>
    let mine := (allStrands s).filter fun c => (s.strand c).run != .none && (s.strand c).lid == lid
    let s := mine.foldl removeStrand s
    let s := x.husks.foldl (fun s h => s.setCore h.core { s.core h.core with husked := (s.core h.core).husked.erase lid }) s
    let s := updLaunch s lid fun x => { x with husks := [], running := [] }
    (retireLaunch s lid).getD (freeLaunch s x)

/-- R278: the runtime ends a live launch, with the child launches that it waits for.
Log 49 (DESIGN CHOICE). -/
def execLaunchTerminate (lid : Nat) (s : State) : Res :=
  event s (
    if (s.launch lid).isNone then none
    else
      let all := (s.lu.launches.map Prod.fst).filter fun k => descends s lid s.lu.launches.length k
      let s := { s with
        lu := { s.lu with children := s.lu.children.filter fun r => match r.parent with | some p => !all.contains p | none => true },
        eng := { s.eng with ops := s.eng.ops.filter fun o => match o.rel with | .launch _ p => !all.contains p | _ => true } }
      let s := all.reverse.foldl killLaunch s
      some (drainFree s))

/-- R217: the runtime restarts a strand that `halt` or an unhandled trap has stopped, at its pc. -/
def execHaltedStrandRestart (c : Sid) (s : State) : Res :=
  event s (match (s.strand c).run with
    | .halted _ =>
      let st := s.strand c
      let s := s.setStrand c { st with run := .ready }
      some (updLaunch s st.lid fun x => { x with halted := x.halted.filter fun d => d != c })
    | _ => none)

end Sys2Proof.Machine
end

