-- ==== Sys2Proof/Machine/Husk.lean ====
section
/-! DEFINITION. Pre-emption and resumption (R283 to R286, R306, Table 10.9): who pre-empts whom, stopping, the husk slot,
reloading, replay of the spill ring. -/

namespace Sys2Proof.Machine

/-! ## Who pre-empts whom (R283) -/

/-- The launch that claims a core. -/
def claimant (s : State) (l : Nat) : Option Launch := (s.core l).claim.bind s.launch

/-- The cores of the bunch that a core is in; a core in none by itself. -/
def bunchCores (s : State) (l : Nat) : List Nat := match (s.core l).bunch with | some b => memberCores l b | none => [l]

/-- Some cores with all of their bunches and, where a D1 or D2 launch claims one, all of that launch's, `n` times over. -/
def linkedCores (s : State) : Nat → List Nat → List Nat
  | 0, l => l
  | n + 1, l => linkedCores s n ((l.flatMap (bunchCores s)).flatMap fun k => match claimant s k with
      | some z => if z.det ≠ 0 then k :: z.cores else [k]
      | none => [k]).dedup

/-- The cores that leave with an occupancy: of a D1 or D2 launch all of them, with those of the launches that it shares a bunch
with; of a D0 bunch its members (R283, R294, R306). Log 38 (DESIGN CHOICE). -/
def leaveTogether (s : State) (y : Launch) (l : Nat) : List Nat :=
  if y.det ≠ 0 then linkedCores s s.lu.launches.length y.cores else bunchCores s l

/-- Would the core fit the launch once its running occupancy, of a PRIO at least 2 below `eff`, has left? A core of a running
unit that has no strand left gives up its core section alone. Log 117 (DESIGN CHOICE). -/
def freedBy (s : State) (ctx eff l : Nat) : Option Launch :=
  let co := s.core l
  match co.claim with
  | none => none
  | some lid =>
    match s.launch lid with
    | none => none
    | some y =>
      if !claimIdle s l lid && (leaveTogether s y l).all (fun k => (claimant s k).all fun z => decide (z.prio + 2 ≤ eff))
          && y.anchor != l && y.ctx != ctx && co.hold.isNone
          && !(s.die (dieOf l)).lost && !unavail s l && !huskedHere s ctx l then some y else none

/-- A core as a victim: PRIO and LAUNCHID of the launch that claims it, and its number. A D0 bunch may hold members of
several launches of the context (R294, R306). -/
def asVictim (s : State) (l : Nat) : Option (Nat × Nat × Nat) := (claimant s l).map fun y => (y.prio, y.lid, l)

/-- The victims on some cores: every core of them fits or is freed; none where one is neither. -/
def victimsOf (s : State) (ctx eff : Nat) (fits : Nat → Bool) (cores : List Nat) : Option (List (Nat × Nat × Nat)) :=
  (cores.mapM fun l => if fits l then some [] else
    (freedBy s ctx eff l).map fun y => (leaveTogether s y l).filterMap (asVictim s)).map fun ls => ls.flatten.dedup

/-- Is victim `a` chosen before `b`? -/
def victimBefore (a b : Nat × Nat × Nat) : Bool :=
  if a.1 ≠ b.1 then decide (a.1 < b.1)
  else if a.2.1 ≠ b.2.1 then decide (b.2.1 < a.2.1) else decide (b.2.2 ≤ a.2.2)

/-- Are the victims `a` taken before the victims `b`: fewer, or the same number of an earlier choice? -/
def victimsBefore (a b : List (Nat × Nat × Nat)) : Bool :=
  if a.length ≠ b.length then decide (a.length < b.length)
  else match ((orderBy victimBefore a).zip (orderBy victimBefore b)).find? fun p => p.1 != p.2 with
    | some p => victimBefore p.1 p.2
    | none => true

/-- The best of some lists of victims. -/
def bestVictims (ls : List (List (Nat × Nat × Nat))) : List (Nat × Nat × Nat) :=
  ls.foldl (fun b l => if b.isEmpty || (victimsBefore l b && l != b) then l else b) []

/-- Units of a domain that a core of some record lies in, within a range. -/
def knownUnits (s : State) (d : Nat) (r : Nat × Nat) : List Nat :=
  let u := unitCores d
  ((s.cores.map fun p => p.1 / u * u).dedup).filter fun b => decide (r.1 ≤ b) && decide (b + u ≤ r.1 + r.2)

/-- Has an entry of a launch waited longer than PDELAY of its queue? Log 39 (DEDUCED). -/
def waitedLong (s : State) (q : Option Nat) (since : Nat) : Bool :=
  decide (since + (match q with | some q => (queueDesc s q).pdelay | none => 100) * 1000 < s.time)

/-- The victims of an instance in the pool: none where a unit is free for it; a twin that has a unit for its first copy may
lack a core for the second (R291). Log 39 (DEDUCED). -/
def instVictims (s : State) (x : Launch) (k : Nat) (n : Node) (i : Nat) : List (Nat × Nat × Nat) :=
  let d := (x.lev n.level).domain
  let key := keyOf s x k n i
  if !waitedLong s (queueOf s x.lid) n.since then []
  else match chooseUnit s x n i with
    | none => bestVictims ((knownUnits s d (siblingRange x n i)).filterMap fun l =>
        victimsOf s x.ctx key.prio (fitCore s x d) (upto l (unitCores d)))
    | some l =>
      if !(x.lev n.level).twin || ((startsOn s x d l).bind fun k => twinCore s x d l k).isSome then []
      else bestVictims (((s.cores.map Prod.fst).filter (twinApart s l)).filterMap fun t =>
        victimsOf s x.ctx key.prio (fitCore s x d) [t])

/-- The cores that a husked occupancy resumes on: its own, or with its bunch all members. -/
def huskCores (h : Husk) : List Nat := match h.kept with | some b => memberCores h.core b | none => [h.core]

/-- Is the logical core free for a husked occupancy of a launch? -/
def resumable (s : State) (x : Launch) (l : Nat) : Bool :=
  let co := s.core l
  co.hold.isNone && !(s.die (dieOf l)).lost && !unavail s l
  && (match co.claim with
      | none => true
      | some lid => lid == x.lid || (claimIdle s l lid && ctxOf s lid != x.ctx))

/-- The victims of a husked occupancy that waits. -/
def huskVictims (s : State) (x : Launch) (h : Husk) : List (Nat × Nat × Nat) :=
  let key := huskKey s x h
  if !waitedLong s (queueOf s x.lid) h.since then []
  else (victimsOf s x.ctx key.prio (resumable s x) (huskCores h)).getD []

/-- The victims of a D1 or D2 record that waits for its footprint (R281). Log 39 (DEDUCED). -/
def recVictims (s : State) (r : Rec) : List (Nat × Nat × Nat) :=
  match r.body with
  | none => []
  | some x =>
    let q := match r.queue, r.parent with | some q, _ => some q | none, some p => queueOf s p | none, none => none
    if x.det = 0 || !waitedLong s q r.since || modeDiffers s r then []
    else (victimsOf s x.ctx (effPrio x.prio r.since s.time) (coreFree s x.ctx) (footprint x)).getD []

/-- Does some entry of launch `lid`, or for 0 some waiting record, take the occupancy as a victim? -/
def preempts (s : State) (lid victim core : Nat) : Bool :=
  let hit := fun (l : List (Nat × Nat × Nat)) => l.any fun v => v.2.1 == victim && v.2.2 == core
  if lid = 0 then
    (s.lu.queues.any fun q => match q.2.waitingRec with | some r => hit (recVictims s r) | none => false)
    || s.lu.children.any fun r => hit (recVictims s r)
  else
    match s.launch lid with
    | none => false
    | some x =>
      !s.lu.throttled &&
      ((x.det == 0 && x.nodes.zipIdx.any fun e => (openInstances x e.1).any fun i => hit (instVictims s x e.2 e.1 i))
       || x.husks.any fun h => hit (huskVictims s x h))

/-! ## Stopping (R284 step 2) -/

/-- The logical cores of a unit. -/
def unitCoresOf (u : RepairUnit) : List Nat :=
  match u with
  | .core d c k => [d * 3200 + c * 16 + k]
  | .cluster d c => upto (d * 3200 + c * 16) 16
  | .slice _ _ => []

/-- Is the core about to move to another site (R344)? -/
def moving (s : State) (l : Nat) : Bool := s.boot.moves.any fun m => (unitCoresOf m.unit).contains l

/-- The existing strands of a launch on a core. -/
def strandsOn (s : State) (lid l : Nat) : List Sid :=
  ((s.core l).strands.filter fun p => p.2.run != .none && p.2.lid == lid).map fun p => ⟨l, p.1⟩

/-- The interrupt reaches a strand. Log 36 (DEDUCED), 38 (DESIGN CHOICE). -/
def askToLeave (s : State) (c : Sid) : State :=
  let s := cutShort s c
  s.setStrand c { s.strand c with preReq := true }

/-- Does the strand stand at a boundary where it can be husked? A trap that it can take there comes first (R332); a parked
strand keeps one that it has still to take. -/
def atRest (s : State) (c : Sid) : Bool :=
  let st := s.strand c
  st.opened.isNone && st.waiting.isEmpty && ((st.sync.isNone && !trapFirst st) || st.parked) && !st.soloHeld && !st.stopped
  && (st.run != .lost)

/-! ## The husk slot (Table 10.9) -/

/-- Bytes of scratchpad that a core section saves. -/
def savedBytes (co : Core) : Nat := (co.inUse + 4095) / 4096 * 4096

/-- The core section, from 0x4000. -/
def coreSection (co : Core) : List Byte :=
  (upto 0 64).flatMap (fun i => leBytes 8 (fget co.ctr 0 i).toNat)
  ++ leBytes 8 (co.spkib * 0x10000 + co.nacc * 0x100 + co.nstr) ++ leBytes 8 (savedBytes co)
  ++ List.replicate 0xDF0 0 ++ (upto 0 16).flatMap (fun a => Mem.bytes co.pool (accKey a 0) 1024)
  ++ Mem.bytes co.pool 0 (savedBytes co)

/-- The half-lines of the core section that take poison, by offset from the slot ÷ 32 (R338). -/
def coreTaint (co : Core) : List Nat :=
  (co.ctrBad.filter fun p => p.2).map (fun p => 0x200 + p.1 / 4)
  ++ (co.poolBad.filter fun p => p.2 && (decide (0x8000 ≤ p.1) || decide (4 * p.1 < savedBytes co))).map fun p =>
    if p.1 < 0x8000 then 0x480 + p.1 / 8 else 0x280 + (p.1 - 0x8000) / 8

/-- The writes of a husk: offset and bytes, and half-lines to poison. -/
def huskWrites (s : State) (x : Launch) (l : Nat) : List (Nat × List Byte) × List Nat :=
  let cs := strandsOn s x.lid l
  let recs := cs.map fun c => (c.strand * 0x1000, recordBytes s c (s.strand c).arch.pc)
  let taint := cs.flatMap fun c => (recordTaint (s.strand c).arch).map fun h => c.strand * 0x80 + h
  if x.anchor = l then (recs, taint)
  else (recs ++ [(0x4000, coreSection (s.core l))], taint ++ coreTaint (s.core l))

/-- The first `n` 64-byte pieces of some bytes at an offset. -/
def linePieces : Nat → Nat → List Byte → List (Nat × List Byte)
  | 0, _, _ => []
  | n + 1, off, l => (off, l.take 64) :: linePieces n (off + 64) (l.drop 64)

/-- The 64-byte pieces of some writes. -/
def lineWrites (w : List (Nat × List Byte)) : List (Nat × List Byte) :=
  w.flatMap fun p => linePieces ((p.2.length + 63) / 64) p.1 p.2

/-- Is every line of a husk writable? Log 40 (DEDUCED). -/
def huskWritable (s : State) (ctx : Nat) (base : Word) (w : List (Nat × List Byte)) : Bool :=
  w.all fun p => match unitSpot s 8 ctx (base + BitVec.ofNat 64 p.1) .write false with | .ok _ => true | .error _ => false

/-- Writes a husk; none: a line waits for a solo chunk or a write-blocked page. -/
def writeHusk (s : State) (ctx : Nat) (base : Word) (w : List (Nat × List Byte)) (taint : List Nat) : Option State := do
  let s ← w.foldlM (fun s p =>
    match unitSpot s 8 ctx (base + BitVec.ofNat 64 p.1) .write false with
    | .ok q => if bitOf q.leaf 6 then none else placeWrite s q.leaf (atKeys q.sig p.2)
    | .error _ => none) s
  some (taint.foldl (fun s h =>
    match unitSpot s 8 ctx (base + BitVec.ofNat 64 (32 * h)) .write false with
    | .ok q => { s with poison := (copyOffsets (bitOf q.leaf 55)).foldl (fun p off => fset p ((q.sig + off) / 32) true) s.poison }
    | .error _ => s) s)

/-! ## Leaving (R284 steps 3 to 5, R306) -/

/-- The waits armed on the counters of a core move to the spill ring, in the order in which they were armed. -/
def spillArms (s : State) (l grp : Nat) : State :=
  let arms := (s.core l).arms
  let s := s.setCore l { s.core l with arms := [] }
  arms.foldl (fun s a =>
    let pc := match (strandOf s a.ctx a.who).kw with | some k => k.pc | none => 0
    let num := s.eng.nextOp
    let s := pushOp s a.who a.ctx (strandOf s a.ctx a.who).epoch grp false (.arm (handleAt l a.i) (BitVec.ofNat 64 a.val) pc)
    match findOp s num with | some o => spillOp s o l | none => s) s

/-- The occupancy of a launch on a core is husked; none: its writes wait. -/
def huskCore (s : State) (x : Launch) (l : Nat) : Option State := do
  let w := huskWrites s x l
  let s ← writeHusk s x.ctx (huskAddr s x.ctx l) (lineWrites w.1) w.2
  let cs := strandsOn s x.lid l
  let lead := cs.find? fun c => (leads s c).isSome
  let kept := lead.bind fun c => leads s c
  let strands := cs.foldl (fun (m : FMap Strand) c =>
    fset m c.strand { s.strand c with preReq := false, parked := false, parkReq := false, stepping := false, issued := 1,
                                      soloAfter := none }) []
  let grp := if x.det = 0 then 0 else groupOf s x.lid
  let s := cs.foldl dropSolo s
  let s := if x.anchor = l then dropWatches s l else endClaim s l
  let s := s.setCore l { s.core l with husked := (s.core l).husked ++ [x.lid], strands := [], bunch := none }
  let s := updLaunch s x.lid fun x => { x with husks := x.husks ++ [⟨l, s.time, strands, kept, false⟩] }
  some (noteSteady (spillArms s l grp) (clusterOf l))

/-- The waits of husked strands on the counters of other cores are given up; their husks record them (R192). -/
def dropWaits (s : State) (ctx : Nat) : State :=
  let gone := fun (c : Sid) => (huskOf s ctx c).isSome
  { s with
    cores := s.cores.map fun p => (p.1, { p.2 with arms := p.2.arms.filter fun a => !(a.ctx == ctx && gone a.who) }),
    eng := { s.eng with ops := s.eng.ops.filter fun o => !(o.ctx == ctx && !o.unit && !o.spilled && !o.held
      && (match o.rel with | .arm _ _ _ => true | _ => false) && gone o.src) } }

/-- The husk writes of a core that leaves can all be made. -/
def leaveWritable (s : State) (l : Nat) : Bool :=
  match claimant s l with
  | some x => huskWritable s x.ctx (huskAddr s x.ctx l) (lineWrites (huskWrites s x l).1)
  | none => true

/-- The strands that leave with some cores. -/
def leavers (s : State) (cores : List Nat) : List Sid :=
  cores.flatMap fun l => match claimant s l with | some y => strandsOn s y.lid l | none => []

/-- Every core of a leaving group is husked, each for the launch that claims it; where a husk cannot be written, none leaves,
and LASTERR says so. Log 38 (DESIGN CHOICE), 40 (DEDUCED). -/
def huskAll (s : State) (x : Launch) (cores : List Nat) : Option State :=
  if cores.all (leaveWritable s) then
    (cores.foldlM (fun s l => match claimant s l with | some y => huskCore s y l | none => some s) s).map fun s => dropWaits s x.ctx
  else
    some (setLastErr ((leavers s cores).foldl (fun s c => s.setStrand c { s.strand c with preReq := false }) s) x.lid 0x14)

/-- Have all strands of some cores that launch `z` claims come to the end of a quantum (R283)? -/
def atQuantumEnd (s : State) (z : Launch) (cores : List Nat) : Bool :=
  (cores.flatMap fun l => if (s.core l).claim = some z.lid then strandsOn s z.lid l else []).all fun c =>
    atRest s c && (s.strand c).quantum == 0

/-- The launches that claim some cores. -/
def claimants (s : State) (cores : List Nat) : List Launch := (cores.filterMap (claimant s)).dedup

/-- R283, R284: at D0 the interrupt first, and the husk once every strand of the occupancy rests; at D1 and D2 the whole
launch, right after a quantum end, before which the interrupt reaches a chunk that waits at a write-blocked page (R260); of
several launches with one bunch the first to reach its end waits for the others. Log 38 (DESIGN CHOICE). -/
def execPreempt (lid victim core : Nat) (s : State) : Res :=
  event s (match s.launch victim with
    | none => none
    | some y =>
      let cores := leaveTogether s y core
      let cs := leavers s cores
      let asked := fun (c : Sid) => (s.strand c).preReq
      let go := preempts s lid victim core
      if cores.any (moving s) then none
      else if y.det ≠ 0 then
        let zs := claimants s cores
        if !go && !cs.any asked then none
        else if zs.all fun z => atQuantumEnd s z cores then huskAll s y cores
        else
          let stuck := cs.filter fun c => (s.strand c).blocked.isSome
          let early := (zs.filter fun z => zs.length != 1 && atQuantumEnd s z cores).flatMap fun z =>
            cores.flatMap (strandsOn s z.lid)
          match (stuck ++ early).filter fun c => !asked c with
          | [] => none
          | l => some (l.foldl askToLeave s)
      else if cs.isEmpty then (if go then huskAll s y cores else none)
      else if cs.all asked then (if cs.all (atRest s) then huskAll s y cores else none)
      else if go then some (cs.foldl askToLeave s)
      else none)

/-! ## Resuming (R286, R306) -/

/-- Reads bytes of a husk with the poison of each; none for a fault. A line whose tag fails, and under a key slot one that is
uncorrectable anywhere, reads as poisoned (R263). Log 42 (DEDUCED). -/
def readHusk (s : State) (ctx : Nat) (va : Word) (n : Nat) : Option (List Byte × List Bool) :=
  (pieces va n).foldlM (fun (l : List Byte × List Bool) p =>
    match unitSpot s 8 ctx p.1 .read false with
    | .ok q =>
      let slot := bits q.leaf 15 8
      let keys := upto q.key p.2
      let bad := slot != 0 && (badLine s slot keys).isSome
      some (l.1 ++ keys.map (fun k => committedByte s slot k), l.2 ++ keys.map fun k => bad || poisonedAt s k)
    | .error _ => none) (([] : List Byte), ([] : List Bool))

/-- Is any of `n` bytes at `off` poisoned? Log 42 (DEDUCED). -/
def badAt (l : List Bool) (off n : Nat) : Bool := (l.drop off |>.take n).any fun b => b

/-- A strand from its record and what the hub kept. Log 42 (DEDUCED). -/
def reviveStrand (kept : Strand) (l : List Byte) (bad : List Bool) : Strand :=
  let a := recordLoad kept.arch l false
  let status := recordWord l 0x950
  let marks := ((upto 1 31).filter fun i => badAt bad (8 * i) 8)
    ++ ((upto 0 32).filter fun i => badAt bad (0x100 + 64 * i) 64).map fun i => 32 + i
  { kept with
    arch := { a with pc := recordWord l 0 &&& 0xFFFFFFFFFFFFFFFC, priv := bitOf status 0, step := bitOf status 6,
                     bad := marks.foldl (fun m i => fset m i true) a.bad },
    chunkSeq := (recordWord l 0x958).toNat,
    idx := (upto 0 8).foldl (fun m i => fset m i (recordWord l (0xB38 + 8 * i))) kept.idx }

/-- The strands of a husk, reloaded. -/
def reviveAll (s : State) (x : Launch) (h : Husk) : Option (FMap Strand) :=
  h.strands.mapM fun p =>
    (readHusk s x.ctx (huskAddr s x.ctx h.core + BitVec.ofNat 64 (p.1 * 0x1000)) 4096).map fun q =>
      (p.1, reviveStrand p.2 q.1 q.2)

/-- A core with its core section reloaded. Log 42 (DEDUCED). -/
def reviveCore (co : Core) (x : Launch) (l : List Byte) (bad : List Bool) : Core :=
  let saved := Nat.min ((recordWord l 0x208).toNat) 0x17400
  let words := fun (off n base : Nat) => ((upto 0 n).filter fun w => badAt bad (off + 4 * w) 4).map fun w => base + w
  { co with
    nstr := x.nstr, nacc := x.nacc, inUse := saved,
    ctr := (upto 0 64).foldl (fun m i => if recordWord l (8 * i) = 0 then m else fset m i (recordWord l (8 * i))) [],
    ctrBad := ((upto 0 64).filter fun i => badAt bad (8 * i) 8).foldl (fun m i => fset m i true) [],
    pool := (upto 0 x.nacc).foldl (fun m a => Mem.store m (accKey a 0) ((l.drop (0x1000 + 1024 * a)).take 1024))
      (Mem.store [] 0 ((l.drop 0x5000).take saved)),
    poolBad := (words 0x1000 (x.nacc * 256) 0x8000 ++ words 0x5000 (saved / 4) 0).foldl (fun m w => fset m w true) [] }

/-- Operations for a core, spilled or held, are applied at its port: those of the ring first, each moving SPILLTAKE.
Log 20 (DEDUCED), 21 (DEDUCED). -/
def replaySpill (s : State) (ctx l : Nat) : Option State := do
  let mine := s.eng.ops.filter fun o => o.ctx == ctx && targetOf o.rel == some l
  let s ← (mine.filter fun o => o.spilled).foldlM (fun s o =>
    let x := ctxCopy s ctx
    atPort (dropOp (setCtx s ctx { x with take := x.take + 1 }) o.num) o l) s
  (mine.filter fun o => o.held && !o.spilled).foldlM (fun s o => atPort (dropOp s o.num) o l) s

/-- Does a write of the hub into the husk of core `l` still wait (R192, R260)? -/
def huskDue (s : State) (ctx l : Nat) : Bool :=
  let base := huskAddr s ctx l
  s.eng.pokes.any fun p => p.1 == ctx && decide ((p.2.1 - base).toNat < 0x24000)

/-- The waits of resumed strands are armed again, those whose entries a spill ring or a port holds with those (R192). -/
def rearm (s : State) (x : Launch) (l : Nat) : State :=
  let grp := if x.det = 0 then 0 else groupOf s x.lid
  (strandsOn s x.lid l).foldl (fun s c =>
    let st := s.strand c
    let there := s.eng.ops.any fun o => o.src == c && o.ctx == x.ctx && !o.unit
      && (match o.rel with | .arm _ _ _ => true | _ => false)
    let second := match st.twin with | some (_, false) => true | _ => false
    match st.run, st.kw with
    | .kwait, some k => if there || second then s else pushOp s c x.ctx st.epoch grp false (.arm k.handle k.val k.pc)
    | _, _ => s) s

/-- The core section of a husk; the anchor has none. -/
def sectionOf (s : State) (x : Launch) (l : Nat) : Option (List Byte × List Bool) :=
  let base := huskAddr s x.ctx l
  if x.anchor = l then some ([], [])
  else do
    let p ← readHusk s x.ctx (base + 0x4000) 0x5000
    let q ← readHusk s x.ctx (base + 0x9000) (Nat.min (recordWord p.1 0x208).toNat 0x17400)
    some (p.1 ++ q.1, p.2 ++ q.2)

/-- One occupancy reloads and takes its core; none: a read faults, a write into its husk or an operation waits.
Log 41 (DESIGN CHOICE), 43 (DEDUCED). -/
def reviveOn (s : State) (x : Launch) (h : Husk) : Option State := do
  let s := drainPokes s
  if huskDue s x.ctx h.core then none
  else
    let strands ← reviveAll s x h
    let n ← sectionOf s x h.core
    let base := huskAddr s x.ctx h.core
    let s := h.strands.foldl (fun s p => flagRead s 8 x.ctx (base + BitVec.ofNat 64 (p.1 * 0x1000)) 4096) s
    let s := flagRead s 8 x.ctx (base + 0x4000) n.1.length
    let s := if x.anchor = h.core then s else endClaim s h.core
    let co := if x.anchor = h.core then s.core h.core else reviveCore (s.core h.core) x n.1 n.2
    let s := s.setCore h.core { co with
      strands := strands, claim := some x.lid, husked := co.husked.erase x.lid, asleep := false, latch := co.latch }
    let s := updLaunch s x.lid fun x => { x with
      husks := x.husks.filter fun k => k.core != h.core,
      cores := if x.cores.contains h.core then x.cores else x.cores ++ [h.core] }
    let s := takeWatches s h.core x.ctx
    let s := { s with solo := s.solo ++ strands.filterMap fun p => p.2.solo.map fun a => (a, ⟨h.core, p.1⟩) }
    let s ← replaySpill (rearm s x h.core) x.ctx h.core
    some (noteSteady s (clusterOf h.core))

/-- The husked occupancies of a context, with their launches. -/
def husksOf (s : State) (ctx : Nat) : List (Launch × Husk) :=
  s.lu.launches.flatMap fun p => if p.2.ctx = ctx then p.2.husks.map fun h => (p.2, h) else []

/-- The husks that resume with one: its own, or of a bunch those of its members, of whichever launch of the context. A
member's does not resume alone (R306). -/
def resumeSet (s : State) (x : Launch) (h : Husk) : List (Launch × Husk) :=
  let all := husksOf s x.ctx
  if all.any fun k => k.2.core != h.core && k.2.kept.isSome && (huskCores k.2).contains h.core then []
  else all.filter fun k => (huskCores h).contains k.2.core

/-- The earliest key of the occupancies that resume together. -/
def resumeKey (s : State) (x : Launch) (h : Husk) (l : List (Launch × Husk)) : Key :=
  l.foldl (fun a k => if (huskKey s k.1 k.2).before a then huskKey s k.1 k.2 else a) (huskKey s x h)

/-- R286: a husked occupancy resumes on its logical core once the core is free and no entry of the pool comes before it.
Log 41 (DESIGN CHOICE). -/
def execHuskResume (lid core : Nat) (s : State) : Res :=
  event s (do
    let x ← s.launch lid
    let h ← x.husks.find? fun h => h.core == core
    let l := resumeSet s x h
    if s.lu.throttled ∨ l.isEmpty then none
    else if !(l.all fun k => resumable s k.1 k.2.core) || outranked s (resumeKey s x h l) (l.map fun k => k.2.core) then none
    else
      let s ← l.foldlM (fun s k => reviveOn s k.1 k.2) s
      some (match h.kept with | some b => bindBunch s h.core b | none => s))

end Sys2Proof.Machine
end

