-- ==== Sys2Proof/Machine/Repair.lean ====
section
/-! DEFINITION. Spares and the repair map (R341 to R344, Table 13.4), the patrol (R262), and the third run of a twin chunk
(R292). -/

namespace Sys2Proof.Machine

/-! ## The repair map (R342) -/

/-- Is the unit one of the hardware? -/
def unitOk (u : RepairUnit) : Bool :=
  match u with
  | .core d c k => decide (d < 8) && decide (c < 200) && decide (k < 16)
  | .cluster d c => decide (d < 8) && decide (c < 200)
  | .slice d k => decide (d < 8) && decide (k < 32)

/-- The die of a unit. -/
def unitDie (u : RepairUnit) : Nat := match u with | .core d _ _ => d | .cluster d _ => d | .slice d _ => d

/-- The fields of a repair entry that name the unit and its new place (Table 13.4). -/
def entryBase (u : RepairUnit) (y x site : Nat) : Nat :=
  (match u with
   | .core d c k => 1 * 2 ^ 61 + d * 2 ^ 58 + c * 2 ^ 50 + k * 2 ^ 46
   | .cluster d c => 2 * 2 ^ 61 + d * 2 ^ 58 + c * 2 ^ 50
   | .slice d k => 3 * 2 ^ 61 + d * 2 ^ 58 + k * 2 ^ 50)
  + y * 2 ^ 42 + x * 2 ^ 38 + site * 2 ^ 32

/-- An entry for a unit that moves to a place, with the corrected errors of the site that it leaves. -/
def entryFor (s : State) (u : RepairUnit) (y x site reason : Nat) (gone : Bool) : Word :=
  let p := siteCode s u
  BitVec.ofNat 64 (entryBase u y x site + reason * 2 ^ 28 + Nat.min 4095 (fget (s.die p.1).ce 0 p.2) * 2 ^ 16
    + if gone then 2 ^ 15 else 0)

/-- The index of a die's next entry: after its last one, else the first empty one.
Log 45 (DESIGN CHOICE). -/
def freeEntry (s : State) (d : Nat) : Option Nat :=
  let used := (s.boot.repair ++ s.boot.repairStore).filter fun p => p.1 / 512 == d && bits p.2 63 61 != 0
  let next := used.foldl (fun n p => Nat.max n (p.1 % 512 + 1)) 0
  if next < 512 then some next else (upto 0 512).find? fun k => !(used.any fun p => p.1 % 512 == k)

/-- Adds an entry to the map and the store; a full map takes none. -/
def addEntry (s : State) (d : Nat) (e : Word) : State :=
  match freeEntry s d with
  | some k => { s with boot := { s.boot with
      repair := fset s.boot.repair (d * 512 + k) e, repairStore := fset s.boot.repairStore (d * 512 + k) e } }
  | none => s

/-! ## Spares (R342, R344) -/

/-- Has an entry given out the core site? -/
def siteUsed (s : State) (d y x site : Nat) : Bool :=
  s.boot.repair.any fun p => bits p.2 63 61 == 1 && bits p.2 60 58 == d && bits p.2 45 42 == y && bits p.2 41 38 == x
    && bits p.2 37 32 == site

/-- The clusters of a die whose spare core site is free, by rising site. -/
def spareClusters (s : State) (d : Nat) : List (Nat × Nat) :=
  orderBy (fun a b => decide (a.1 * 16 + a.2 ≤ b.1 * 16 + b.2))
    (((upto 0 200).map (clusterSite s d)).filter fun p => !siteUsed s d p.1 p.2 16)

/-- Mesh hops between two cluster sites of a die. -/
def siteHops (a b : Nat × Nat) : Nat := (a.1 - b.1) + (b.1 - a.1) + ((a.2 - b.2) + (b.2 - a.2))

/-- The site of a list nearest to another; the lowest on a tie. Log 45 (DESIGN CHOICE). -/
def nearestSite (p : Nat × Nat) (l : List (Nat × Nat)) : Option (Nat × Nat) :=
  l.foldl (fun (b : Option (Nat × Nat)) q => match b with
    | some r => if siteHops p q < siteHops p r then some q else b
    | none => some q) none

/-- The row and column of a logical core. -/
def corePlace (s : State) (l : Nat) : Nat × Nat := ((coreSite s l).1, (coreSite s l).2.1)

/-- Where a unit moves: row, column, site. A core takes its own cluster's spare, else the nearest one of its die.
Log 45 (DESIGN CHOICE). -/
def spareFor (s : State) (u : RepairUnit) : Option (Nat × Nat × Nat) :=
  match u with
  | .core d c k => (nearestSite (corePlace s (d * 3200 + c * 16 + k)) (spareClusters s d)).map fun p => (p.1, p.2, 16)
  | .cluster d _ =>
    ((upto 8 8).find? fun x => !(s.boot.repair.any fun p => bits p.2 63 61 == 2 && bits p.2 60 58 == d && bits p.2 45 42 == 12
      && bits p.2 41 38 == x)).map fun x => (12, x, 0)
  | .slice d _ =>
    ((upto 32 2).find? fun k => !(s.boot.repair.any fun p => bits p.2 63 61 == 3 && bits p.2 60 58 == d && bits p.2 37 32 == k)).map
      fun k => (0, 0, k)

/-! ## Live retirement (R344, R307) -/

/-- The strands that must rest before a core moves: its own, and the leader of its bunch. -/
def movingStrands (s : State) (l : Nat) : List Sid :=
  let mine := ((s.core l).strands.filter fun p => p.2.run != .none).map fun p => (⟨l, p.1⟩ : Sid)
  match (s.core l).bunch with
  | some b => if mine.contains b.leader then mine else mine ++ [b.leader]
  | none => mine

/-- Does a home slice hold pending data of an ended chunk? -/
def slicePending (s : State) (d k : Nat) : Bool :=
  (allStrands s).any fun c => (s.strand c).waiting.any fun ch => ch.lines.any fun e => (copyOffsets e.2.repl).any fun off =>
    decide (e.1 * 64 + off < hostBase) && (e.1 * 64 + off) / dieStep == d && sliceOf (e.1 * 64 + off) == k

/-- May the move be made now? -/
def readyToMove (s : State) (u : RepairUnit) : Bool :=
  match u with
  | .slice d k => !slicePending s d k
  | u => (unitCoresOf u).all fun l => (movingStrands s l).all fun c =>
      (s.strand c).opened.isNone && (s.strand c).waiting.isEmpty

/-- Can the husks of a core that moves be written and read? A bunch migrates without a husk (R307). -/
def movable (s : State) (l : Nat) : Bool :=
  (s.core l).bunch.isSome || (leaveWritable s l && match claimant s l with
    | some x => (sectionOf s x l).isSome && (strandsOn s x.lid l).all fun c =>
        (readHusk s x.ctx (huskAddr s x.ctx l + BitVec.ofNat 64 (c.strand * 0x1000)) 4096).isSome
    | none => true)

/-- The husks of a claimed core are written (R284 step 3); none: the writes wait. -/
def saveCore (s : State) (l : Nat) : Option State :=
  match claimant s l with
  | none => some s
  | some x =>
    let w := huskWrites s x l
    if (s.core l).bunch.isSome then some s else writeHusk s x.ctx (huskAddr s x.ctx l) (lineWrites w.1) w.2

/-- The husks are reloaded on the site that now carries the core (R286 step 1); nothing else of its state changes.
Log 44 (DEDUCED). -/
def reloadCore (s : State) (l : Nat) : Option State :=
  match claimant s l with
  | none => some s
  | some x =>
    if (s.core l).bunch.isSome then some s
    else do
      let mine ← (strandsOn s x.lid l).mapM fun c =>
        (readHusk s x.ctx (huskAddr s x.ctx l + BitVec.ofNat 64 (c.strand * 0x1000)) 4096).map fun q =>
          (c, reviveStrand (s.strand c) q.1 q.2)
      let n ← sectionOf s x l
      let s := if x.anchor = l then s else s.setCore l (reviveCore (s.core l) x n.1 n.2)
      some (mine.foldl (fun s p => s.setStrand p.1 p.2) s)

/-- Is strand state of the unit lost (MCHK, SUB 5)? -/
def stateLost (s : State) (u : RepairUnit) : Bool := (unitCoresOf u).any fun l => (s.core l).stateLoss

/-- The unit has a new place, or none: its strands go on, and the accounts and the lost state stay with the old site
(R344, R362). -/
def movedCores (s : State) (u : RepairUnit) : State :=
  let s := (unitCoresOf u).foldl (fun s l => s.setCore l { s.core l with acct := [], stateLoss := false }) s
  ((unitCoresOf u).flatMap (movingStrands s)).foldl (fun s c => s.setStrand c { s.strand c with preReq := false }) s

/-- Row, column and site of a unit as an entry names them. -/
def placeNow (s : State) (u : RepairUnit) : Nat × Nat × Nat :=
  match u with
  | .core d c k => coreSite s (d * 3200 + c * 16 + k)
  | .cluster d c => ((clusterSite s d c).1, (clusterSite s d c).2, 0)
  | .slice d k => (0, 0, (siteCode s (.slice d k)).2 - 8192)

/-- The retirement under way of a unit. -/
def moveOf (s : State) (u : RepairUnit) : Option Move := s.boot.moves.find? fun m => m.unit == u

/-- The state in which no retirement of the unit is under way. -/
def endMove (s : State) (u : RepairUnit) : State :=
  { s with boot := { s.boot with moves := s.boot.moves.filter fun m => m.unit != u } }

/-- The retirement of a unit gets under way: it is noted, and its strands are asked to rest (R344 step 1). -/
def beginMove (s : State) (u : RepairUnit) (reason : Nat) (place : Option (Nat × Nat × Nat)) : State :=
  let s := if (moveOf s u).isSome then s else { s with boot := { s.boot with moves := s.boot.moves ++ [⟨u, reason, place⟩] } }
  ((unitCoresOf u).flatMap (movingStrands s)).foldl askToLeave s

/-- The strands of a unit are no longer asked to rest. -/
def unask (s : State) (u : RepairUnit) : State :=
  ((unitCoresOf u).flatMap (movingStrands s)).foldl (fun s c => s.setStrand c { s.strand c with preReq := false }) s

/-- Where a unit moves: where a third run has chosen, while that is free, else to the spare of R342. -/
def placeFor (s : State) (u : RepairUnit) : Option (Nat × Nat × Nat) :=
  match (moveOf s u).bind Move.place with
  | some p => if siteUsed s (unitDie u) p.1 p.2.1 p.2.2 then spareFor s u else some p
  | none => spareFor s u

/-- A unit is retired for a reason; with no spare it turns UNAVAIL at the next cold start, or at once where state is
lost. The first step asks its strands to rest; where a husk cannot be written it does not move (R284).
Log 44 (DEDUCED), 47 (DEDUCED). -/
def retireUnit (s : State) (u : RepairUnit) (reason : Nat) : Option State :=
  let reason := match moveOf s u with | some m => m.reason | none => reason
  if !unitOk u then none
  else
    match placeFor s u with
    | none =>
      let p := placeNow s u
      let e := entryFor s u p.1 p.2.1 p.2.2 reason true
      if stateLost s u then (if (unitCoresOf u).all (unavail s) then none else some (movedCores (addEntry s (unitDie u) e) u))
      else if s.boot.doomed.contains (unitDie u, e) then none
      else some { s with boot := { s.boot with doomed := s.boot.doomed ++ [(unitDie u, e)] } }
    | some p =>
      if readyToMove s u then
        (if !(unitCoresOf u).all (movable s) then some (endMove (unask s u) u)
        else do
          let e := entryFor s u p.1 p.2.1 p.2.2 reason false
          let s ← (unitCoresOf u).foldlM saveCore s
          let s ← (unitCoresOf u).foldlM reloadCore (addEntry s (unitDie u) e)
          some (endMove (movedCores s u) u))
      else some (beginMove s u reason none)

/-- R344: on a management request, or for lost strand state; and the end of a retirement under way. -/
def execLiveRetirement (u : RepairUnit) (s : State) : Res :=
  event s (retireUnit s u (if stateLost s u then 3 else 4))

/-- CETHRESH (Table 17.3). -/
def ceThresh (s : State) : Nat := let n := bits (fget s.boot.conf 0 2) 47 32; if n = 0 then 32 else n

/-- R343: the corrected errors of a unit's site have reached CETHRESH within the window; a retirement that this has begun goes
on after it. -/
def execCethreshReached (u : RepairUnit) (s : State) : Res :=
  let s := rollWindow s
  let p := siteCode s u
  let due := (moveOf s u).any fun m => m.reason == 2
  event s (if due || decide (ceThresh s ≤ fget (s.die p.1).ce 0 p.2) then retireUnit s u 2 else none)

/-- R343: a new window begins for every site. -/
def execCorrectedErrorWindow (s : State) : Res := .next (rollWindow s)

/-- R262: a home slice reads and corrects a line; what it cannot correct is poisoned. -/
def execPatrolScrub (pa : Nat) (r : ScrubResult) (s : State) : Res :=
  event s (
    if !localOk pa then none
    else match r with
      | .clean => some s
      | .corrected => some (countCorrected s (.slice (pa / dieStep) (sliceOf pa)))
      | .uncorrectable => some { s with poison := fset s.poison (pa / 32) true })

/-! ## The third run of a twin chunk (R292) -/

/-- Is a cluster site of die `d` at least 2 hops from a copy's cluster? -/
def farFrom (s : State) (d : Nat) (p : Nat × Nat) (c : Sid) : Bool :=
  dieOf c.core != d || decide (2 ≤ siteHops p (corePlace s c.core))

/-- The spare site for the third run, with its die: the nearest to the first copy, on the first copy's die before another.
Log 48 (DESIGN CHOICE). -/
def twinSpare (s : State) (a b : Sid) : Option (Nat × Nat × Nat) :=
  let d0 := dieOf a.core
  (d0 :: (upto 0 8).filter (fun d => d != d0 && !(s.die d).lost)).findSome? fun d =>
    let l := (spareClusters s d).filter fun p => farFrom s d p a && farFrom s d p b
    (if d = d0 then nearestSite (corePlace s a.core) l else l.head?).map fun p => (d, p.1, p.2)

/-- TWINFAIL on both copies, at the chunk's first instruction. -/
def twinFail (s : State) (a b : Sid) (sub : Nat) : State :=
  [a, b].foldl (fun s c =>
    let s := squashFrom s c 0 7 false
    s.setStrand c { s.strand c with sync := some (mkTrap 0x15 sub 0), mismatch := 0 }) s

/-- The unit of a core. -/
def coreUnit (l : Nat) : RepairUnit := .core (dieOf l) (l % 3200 / 16) (l % 16)

/-- The dissenter's site is to be retired: its logical core, whose strands rest first (R344), moves to the spare at which the
chunk has run. An entry names one die only (Table 13.4): where that spare is on another die, the core moves to a spare of its
own. Log 48 (DESIGN CHOICE). -/
def retireDissenter (s : State) (o : Sid) (p : Nat × Nat × Nat) : State :=
  let u := coreUnit o.core
  let d := dieOf o.core
  match (if p.1 = d then some (p.2.1, p.2.2, 16) else spareFor s u) with
  | some q => beginMove s u 1 (some q)
  | none =>
    let q := coreSite s o.core
    { s with boot := { s.boot with doomed := s.boot.doomed ++ [(d, entryFor s u q.1 q.2.1 q.2.2 1 true)] } }

/-- The chunk that the first copy `a` has run a third time commits; the second copy `b` takes its state, and the site of the
dissenter `o` is retired (R292). Log 48 (DESIGN CHOICE). -/
def twinSettle (s : State) (a b o : Sid) (ch : Chunk) (p : Nat × Nat × Nat) : State :=
  let win := s.strand a
  let last := decide (win.waiting.length = 1) && win.opened.isNone
  let rest := if last then (win.run, win.await, win.kw, win.sync) else (.ready, none, none, none)
  let grans := (ch.undo.map fun e => e.1).dedup.map fun g => (g, granuleAfter s a g)
  let s := grans.foldl (fun s g => pokePool s b.core (g.1 * 16) g.2) s
  let lo := s.strand b
  let s := s.setStrand b { lo with arch := endArch win, run := rest.1, await := rest.2.1, kw := rest.2.2.1, sync := rest.2.2.2,
                                   chunkSeq := (lo.chunkSeq + 1) % 2 ^ 64, sqcnt := 0, mismatch := 0,
                                   quantum := ch.quantum + ch.retired }
  let s := s.setStrand a { s.strand a with third := none }
  let s := grantNow s a (if detOf s win.lid = 0 then 0 else groupOf s win.lid) ch
  afterGrant (afterGrant (retireDissenter s o p) a) b

/-- The third run of the pair's chunk begins, from the common start state of both copies (R292). -/
def beginThird (s : State) (a b : Sid) (x y : Chunk) (p : Nat × Nat × Nat) : State :=
  let t := [a, b].foldl (fun s c => squashFrom s c 0 7 false) s
  t.setStrand a { t.strand a with third := some ⟨crc64 (writeSet s a x), crc64 (writeSet s b y), p⟩ }

/-- The third run has ended its chunk; the hash of its request settles which copy agrees (R292); none: the request is not
made, or must wait. -/
def endThird (s : State) (a b : Sid) (t : ThirdRun) (hash : BitVec 64) : Option State :=
  match (s.strand a).waiting with
  | [] => none
  | ch :: _ =>
    if !ch.drained || crc64 (writeSet s a ch) != hash then none
    else if t.first ≠ hash ∧ t.second ≠ hash then some (twinFail s a b 1)
    else if removalBlocks s a || grantBlocked s a ch || orderFull s || !grantTurn s a ch then none
    else if homeLost s ch then some (squashFrom s a 0 5 false)
    else match partPoison s ch with
      | some ptr => some (partTrap (squashFrom s a 0 5 false) a ch.start.pc ptr)
      | none => some (twinSettle s a b (if t.first = hash then b else a) ch t.place)

/-- R292: after a second mismatch the chunk runs on a third core: the first event starts that run, from the copies' common
start state, as the first copy's strand runs it while the second waits; the next is its commit request, with the write-set
hash. Log 48 (DESIGN CHOICE). -/
def execTwinThirdRun (c : Sid) (hash : BitVec 64) (s : State) : Res :=
  event s (do
    let (a, b) ← twinPair s c
    match (s.strand a).third with
    | some t => endThird s a b t hash
    | none =>
      let (x, y) ← twinHeads s a b
      if twinsAgree s a b x y || (s.strand a).mismatch == 0 then none
      else match twinSpare s a b with
        | none => some (twinFail s a b 0)
        | some p => some (beginThird s a b x y p))

end Sys2Proof.Machine
end

