-- ==== Sys2Proof/Machine/Views.lean ====
section
/-! DEFINITION. The view unit (R312, R317 to R319, R323, R324, R366): heartbeats and suspicion, proposing, holding and committing
views, rejoin, and the failure of a compute die. -/

namespace Sys2Proof.Machine

/-! ## Heartbeats and suspicion (R317, R366) -/

/-- R317: a working link carries a heartbeat flit in each direction every 2 µs. -/
def execHeartbeatSend (port : Nat) (s : State) : Res :=
  event s (if hubReady s && (s.port port).up then sendOn s port (Config.farEnd port) .idle none else none)

/-- R317, R327: no heartbeat comes from a module to which no port leads. -/
def execHeartbeat (mod : Nat) (s : State) : Res :=
  event s (if hubReady s && (routeTo s mod).isSome then some { s with net := { s.net with beats := fset s.net.beats mod s.time } } else none)

/-- R317: four intervals of 2 µs without a heartbeat. -/
def execHeartbeatTimeout (mod : Nat) (s : State) : Res :=
  event s (
    if hubReady s && mod != modNum s && decide (fget s.net.beats 0 mod + 8000 ≤ s.time) then some (suspectModule s mod) else none)

/-- R317, R366. Log 51 (DEDUCED). -/
def execDieHeartbeatMiss (die : Nat) (s : State) : Res :=
  event s (if hubReady s then some (markSuspect s (memberOf s die) true) else none)

/-- A strand of a lost die: its chunks and their pending data go; its instance never completes (R324).
Log 52 (DEDUCED). -/
def loseStrand (s : State) (c : Sid) : State :=
  let s := dropSolo (loseWait (squashFrom s c 0 5 false) c) c
  s.setStrand c { s.strand c with run := if (s.strand c).run = .none then .none else .lost, opened := none, waiting := [],
                                  sync := none, solo := none, soloHeld := false, third := none }

/-- A compute die fails (R324): its strands and engines stop for good; its replicas go with it (R250).
Log 52 (DEDUCED). -/
def loseDie (s : State) (d : Nat) : State :=
  let s := ((allStrands s).filter fun c => dieOf c.core == d).foldl loseStrand s
  let s := { s with eng := { s.eng with
    copies := s.eng.copies.filter fun x => dieOf x.src.core != d,
    colls := s.eng.colls.filter fun x => collDie x != d,
    partials := s.eng.partials.filter fun p => p.1 != d,
    flying := s.eng.flying.filter fun p => p.1 != d } }
  s.setDie d { s.die d with lost := true, access := [], full := [], notices := [], walk := [], view := [] }

/-- R324, R317. Log 51 (DEDUCED). -/
def execDieFatalError (die : Nat) (s : State) : Res :=
  event s (
    if hubReady s && !(s.die die).lost then
      let s := loseDie s die
      some (drainFree (markSuspect s (memberOf s die) true))
    else none)

/-- R366: a member that no entry lists is ignored. -/
def execSuspect (m : Nat) (s : State) : Res := event s (if hubReady s then some (markSuspect s m false) else none)

/-! ## The view state machine (Table 12.3) -/

/-- The proposal is acknowledged and held. -/
def holdProposal (s : State) (grp : Nat) (p : Proposal) : State :=
  let s := s.setGroup grp { s.group grp with state := 2, prop := some p, acks := [], pendN := p.num, deadline := s.time + 100000 }
  sendView s [p.leader / 8] grp (.ack p.num (modNum s))

/-- The member that made the proposal sent or held. -/
def proposerNow (g : Group) : Nat := match g.prop with | some p => p.leader | none => 1024

/-- A proposal arrives (Table 12.3): in the stable state one with a number above VIEWN is held; in the other two one with a
higher number, or an equal one of a lower proposer. -/
def takePropose (s : State) (grp : Nat) (p : Proposal) : Option State :=
  let g := s.group grp
  if !hubReady s || !g.valid then none
  else if g.state = 0 then (if g.viewN < p.num then some (holdProposal s grp p) else none)
  else if g.state = 1 ∨ g.state = 2 then
    (if g.pendN < p.num ∨ (g.pendN = p.num ∧ p.leader < proposerNow g) then some (holdProposal s grp p) else none)
  else none

/-- R317. -/
def execPropose (grp : Nat) (p : Proposal) (s : State) : Res := event s (takePropose s grp p)

/-- An acknowledgement arrives: the last one commits the view (Table 12.3). -/
def takeAck (s : State) (grp num mod : Nat) : Option State :=
  let g := s.group grp
  if !hubReady s || !g.valid || g.state != 1 || g.pendN != num || g.acks.contains mod then none
  else match g.prop with
    | none => none
    | some p =>
      let acks := mod :: g.acks
      if (modulesOf p.full).all fun m => acks.contains m then
        some (applyView (sendView s (modulesOf (p.full ++ p.joining)) grp (.commit p)) grp p)
      else some (s.setGroup grp { g with acks := acks })

/-- R317. -/
def execAck (grp num mod : Nat) (s : State) : Res := event s (takeAck s grp num mod)

/-- A COMMIT for PENDN applies the view (Table 12.3). -/
def takeCommit (s : State) (grp : Nat) (p : Proposal) : Option State :=
  let g := s.group grp
  if hubReady s && g.valid && g.state == 2 && g.pendN == p.num then some (applyView s grp p) else none

/-- R317. -/
def execViewCommit (grp : Nat) (p : Proposal) (s : State) : Res := event s (takeCommit s grp p)

/-- R317, R318: the members whose hubs did not acknowledge leave; the next number. -/
def execProposalTimeout (grp : Nat) (s : State) : Res :=
  let g := s.group grp
  event s (
    if !hubReady s || !g.valid || g.state != 1 || decide (s.time < g.deadline) then none
    else match g.prop with
      | none => none
      | some p =>
        let there := fun (m : Nat) => g.acks.contains (m / 8) || isLocal s m
        some (sendProposal s grp (g.pendN + 1) (p.full.filter there) (p.joining.filter there) false))

/-- R317: the proposer's module turns suspect; where this hub is now the proposer it proposes, else it goes on holding.
Log 53 (DEDUCED). -/
def execHoldTimeout (grp : Nat) (s : State) : Res :=
  let g := s.group grp
  event s (
    if !hubReady s || !g.valid || g.state != 2 || decide (s.time < g.deadline) then none
    else
      let s := suspectModule s (proposerNow g / 8)
      let g := s.group grp
      some (if isProposer s g then sendProposal s grp (g.pendN + 1) (nextLists g).1 (nextLists g).2 false
        else s.setGroup grp { g with deadline := s.time + 100000 }))

/-- R317, R318: management forces a stalled group. Log 53 (DEDUCED). -/
def execForce (grp : Nat) (s : State) : Res :=
  let g := s.group grp
  event s (
    if hubReady s && g.valid && g.state == 3 then
      some (sendProposal s grp (g.viewN + 1) (nextLists g).1 (nextLists g).2 true)
    else none)

/-! ## Groups and rejoin (R312, R323) -/

/-- A hub asks for a returning die. -/
def takeJoinReq (s : State) (grp m : Nat) : Option State :=
  let g := s.group grp
  if hubReady s && g.valid && !(g.full ++ g.joining ++ g.joinReq).contains m then
    some (tryPropose (s.setGroup grp { g with joinReq := m :: g.joinReq }) grp)
  else none

/-- R323. -/
def execJoinreq (grp m : Nat) (s : State) : Res := event s (takeJoinReq s grp m)

/-- R323. -/
def execJoinack (grp m : Nat) (s : State) : Res := event s (if hubReady s then some (takeJoinAck s grp m) else none)

/-- A message of another module's view unit arrives, one that its state ignores too (R317, R323, R366). -/
def takeView (s : State) (grp : Nat) (m : ViewMsg) : State :=
  match m with
  | .propose p => (takePropose s grp p).getD s
  | .ack num mod => (takeAck s grp num mod).getD s
  | .commit p => (takeCommit s grp p).getD s
  | .suspect k => markSuspect s k false
  | .joinReq k => (takeJoinReq s grp k).getD s
  | .joinAck k => takeJoinAck s grp k

/-- R312: management writes VALID, QUORUM and the lists, the other fields being the view unit's; view 1 follows by R317.
R323: JOINREQ for the dies that management brings back, members of the module outside both lists; a view has left those out,
so no suspicion of them is left (R366). Log 54 (DESIGN CHOICE). -/
def execGroupEntryCreate (grp : Nat) (quorum : Bool) (full : List Nat) (rest : NotFull) (s : State) : Res :=
  event s (
    if !hubReady s || decide (1024 < full.length + rest.joining.length) then none
    else
      let s := s.setGroup grp { s.group grp with
        valid := true, quorum := quorum, full := sortMembers full, joining := sortMembers rest.joining,
        suspects := (s.group grp).suspects.filter fun m => (full ++ rest.joining).contains m }
      let ask := rest.back.filter fun m => isLocal s m && !(s.die (m % 8)).lost && !(full ++ rest.joining).contains m
      let s := ask.foldl (fun s m => sendView s (modulesOf full) grp (.joinReq m)) s
      some (tryPropose s grp))

end Sys2Proof.Machine
end

