-- ==== Sys2Proof/Machine/Links.lean ====
section
/-! DEFINITION. Ports (R325 to R327), the host attachment (R328, R329), and what the translation units and home slices do on
their own (R252, R256, R259, R260). -/

namespace Sys2Proof.Machine

/-! ## Flits (R326, R327) -/

/-- SEQ of a flit. -/
def Flit.seq (f : Flit) : Nat := bits f.hdr 31 16
/-- ACKSEQ of a flit. -/
def Flit.ack (f : Flit) : Nat := bits f.hdr 47 32
/-- DMOD of a flit. -/
def Flit.dmod (f : Flit) : Nat := bits f.hdr 61 55

/-- Does the CRC over header and payload hold, with the rest of the header zero?
Log 15 (DESIGN CHOICE). -/
def Flit.good (f : Flit) : Bool :=
  f.payload.length == 240 && f.crc == crc64 (leBytes 8 f.hdr.toNat ++ f.payload)

/-- The replay buffer without the flits up to the one numbered `q`, if it holds that one. -/
def ackBuffer (l : List Sent) (q : Nat) : List Sent :=
  if l.any fun b => Flit.seq b.flit == q then (l.dropWhile fun b => Flit.seq b.flit != q).drop 1 else l

/-- The source and sequence number of a cross-module operation. -/
def msgKey : LinkMsg → Option (Nat × Nat)
  | .idle | .part _ _ | .view _ _ | .data _ _ => none
  | .block src q _ _ _ => some (src, q)
  | .ctrAdd src q _ _ _ _ => some (src, q)
  | .posted src q _ _ _ _ _ => some (src, q)
  | .read src q _ => some (src, q)

/-- The input that a cross-module operation is. -/
def msgInput : LinkMsg → Option Input
  | .idle | .part _ _ | .view _ _ | .read _ _ _ | .data _ _ => none
  | .block src q ident pa bytes => some (.block src q ident pa bytes)
  | .ctrAdd src q ctx h n after => some (.after src q ctx (BitVec.ofNat 64 h) n after)
  | .posted src q who pa fn t v => some (.posted src q who pa fn t v)

/-- The line that a peer read returns; none where it is poisoned or not there (R251, R252). -/
def peerLine (s : State) (pa : Nat) : Option (List Byte) :=
  if !localOk pa || (s.die (pa / dieStep)).lost || anyPoison s pa 64 then none
  else some ((upto pa 64).map fun k => committedByte s 0 k)

/-- What a message that is no memory operation does as it arrives (R251, R317, R320): a peer read is answered; what one of
this module's reads returned was free all along. Log 109 (DESIGN CHOICE). -/
def arriveOther (s : State) (m : LinkMsg) : State :=
  match m with
  | .part dst p => if isLocal s dst then (receivePartial s (dst % 8) p).getD s else s
  | .view grp v => takeView s grp v
  | .read src tag pa => sendOrHold s src (.data tag (peerLine s (pa / 64 * 64)))
  | _ => s

/-- A message arrives from another module: an operation is applied exactly once; none: it cannot be placed yet. -/
def arriveMsg (s : State) (m : LinkMsg) : Option State :=
  let known := match msgKey m with | some k => wasApplied s k.1 k.2 | none => false
  if known then some s
  else
    let s := match msgKey m with | some k => { s with net := { s.net with applied := k :: s.net.applied } } | none => s
    match msgInput m with
    | some i => takeInput s i
    | none => some (arriveOther s m)

/-- R326, R327: a flit with a bad CRC or out of order is discarded; a good one acknowledges, and what it carries arrives.
Log 16 (DESIGN CHOICE). -/
def execFlitReceive (port : Nat) (f : Flit) (s : State) : Res :=
  let p := s.port port
  event s (
    if !hubReady s || !p.up || !Flit.good f || Flit.seq f != (p.rxSeq + 1) % 2 ^ 16 then none
    else
      let buffer := ackBuffer p.buffer (Flit.ack f)
      let s := s.setPort port { p with rxSeq := Flit.seq f, buffer := buffer,
                                       fails := if buffer.length = p.buffer.length then p.fails else 0 }
      if Flit.dmod f != modNum s then some s else (arriveMsg s f.msg).map sendHeld)

/-- R327: the far end reports its last good SEQ; the sender resends from the next flit on. -/
def execLinkReplay (port lastGood : Nat) (s : State) : Res :=
  let p := s.port port
  event s (
    if hubReady s && p.up && !p.buffer.isEmpty then
      let buffer := ackBuffer p.buffer lastGood
      some (sendHeld (s.setPort port { p with buffer := buffer, fails := if buffer.length = p.buffer.length then p.fails + 1 else 1 }))
    else none)

/-- A block of a copy that has left for a module is abandoned: it no longer counts there (R210, R327). -/
def dropBlock (mod q : Nat) (x : Copy) : Copy :=
  if x.sent.contains (mod, q) then
    { x with sent := x.sent.erase (mod, q), owed := fset x.owed mod (fget x.owed 0 mod - 1) }
  else x

/-- A flit of a port that went down moves to another port of its route, whatever room its buffer has; where no port is up
its operation is abandoned, a copy's with bit 3 of its error word, while partials and view messages wait (R327, R210); none:
the report in the error word waits. Log 55 (DEDUCED). -/
def moveFlit (s : State) (b : Sent) : Option State :=
  let mod := Flit.dmod b.flit
  match routeTo s mod with
  | some n =>
    let p := s.port n
    some (s.setPort n { p with txSeq := (p.txSeq + 1) % 2 ^ 16, buffer := p.buffer ++ [{ b with flit := mkFlit s p mod b.flit.msg }] })
  | none =>
    match b.flit.msg with
    | .part _ _ | .view _ _ => some (sendOrHold s mod b.flit.msg)
    | msg =>
      let s := match msg with
        | .block _ q _ _ _ => { s with eng := { s.eng with copies := s.eng.copies.map (dropBlock mod q) } }
        | _ => s
      match b.err, b.src with
      | some (ctx, va), some (c, epoch) =>
        let x : Copy := { num := 0, ident := 0, src := c, ctx := ctx, set := [(0x109, va)], st := .running, done := [],
                          epoch := epoch, grp := 0, snap := none, sent := [], owed := [] }
        (errorOr s x 8).map Prod.fst
      | _, _ => some s

/-- R327: after 16 failed resends of one flit. A heartbeat does not move. Log 55 (DEDUCED). -/
def execPortDown (port : Nat) (s : State) : Res :=
  let p := s.port port
  event s (
    if s.boot.powered && p.up && decide (16 ≤ p.fails) then
      (p.buffer.filter fun b => b.flit.msg != .idle).foldlM moveFlit (s.setPort port { p with up := false, buffer := [], fails := 0 })
    else none)

/-- R327: nothing that was abandoned is resent; what has waited is sent. -/
def execPortUp (port : Nat) (s : State) : Res :=
  event s (if hubReady s && !(s.port port).up then some (sendHeld (s.setPort port Port.reset)) else none)

/-! ## The host's reads (R328, R329) -/

/-- The words of a bit mask of members. -/
def memberMask (l : List Nat) : List Byte :=
  (upto 0 16).flatMap fun w => leBytes 8 ((upto 0 64).foldl (fun n b => if l.contains (64 * w + b) then n + 2 ^ b else n) 0)

/-- The 512 bytes of a group entry (Table 12.1). -/
def groupBytes (g : Group) : List Byte :=
  leBytes 8 ((if g.valid then 2 ^ 63 else 0) + (if g.quorum then 2 ^ 62 else 0) + g.state * 2 ^ 59 + g.viewN % 2 ^ 32)
  ++ leBytes 8 (g.leader * 2 ^ 32 + g.full.length) ++ leBytes 8 g.nextSeq ++ leBytes 8 (g.pendN % 2 ^ 32)
  ++ List.replicate 0x60 0 ++ memberMask g.full ++ memberMask g.joining ++ List.replicate 0x80 0

/-- The windows of Table 12.7. -/
inductive HostWindow where
  | memory (pa : Nat)
  | counter (l i : Nat)
  | group (g off : Nat)
  | mailbox (off : Nat)
  | unlisted
deriving DecidableEq, Repr

/-- The window of an offset. -/
def windowOf (off : Nat) : HostWindow :=
  if off < 0x10000000000 then .memory off
  else if off < 0x10000000000 + 25600 * 0x200 then .counter ((off - 0x10000000000) / 0x200) ((off - 0x10000000000) % 0x200)
  else if 0x18000000000 ≤ off ∧ off < 0x18000000000 + 4096 * 0x200 then
    .group ((off - 0x18000000000) / 0x200) ((off - 0x18000000000) % 0x200)
  else if 0x1C000000000 ≤ off ∧ off < 0x1C000001000 then .mailbox (off - 0x1C000000000)
  else .unlisted

/-- Is there memory at an address, on a die that is not lost? -/
def memoryThere (s : State) (pa : Nat) : Bool := localOk pa && !(s.die (pa / dieStep)).lost

/-- A byte of the mailbox: BOOTSTAT is its first dword. -/
def mailByte (s : State) (off : Nat) : Byte :=
  if off < 8 then nth (leBytes 8 s.boot.bootstat.toNat) 0 off else fget s.boot.mailbox 0 off

/-- What an HRD finds: none where it returns all ones with the error flag. Log 56 (DEDUCED). -/
def hostRead (s : State) (off size : Nat) : Option (List Byte) :=
  match windowOf off with
  | .memory pa =>
    if !memoryThere s pa || anyPoison s pa size then none else some ((upto pa size).map fun k => committedByte s 0 k)
  | .counter l k =>
    if size ≠ 8 || k % 8 ≠ 0 || (s.die (dieOf l)).lost || fget (s.core l).ctrBad false (k / 8) then none
    else some (leBytes 8 (fget (s.core l).ctr 0 (k / 8)).toNat)
  | .group g k => some (((groupBytes (s.group g)).drop k).take size)
  | .mailbox k => some ((upto k size).map (mailByte s))
  | .unlisted => none

/-- The HRDR of an HRD. -/
def answerRead (s : State) (r : Option (List Byte)) (size : Nat) : State :=
  { s with net := { s.net with hrdr := some (match r with | some l => (l, false) | none => (List.replicate size 255, true)) } }

/-- Is the offset in the mailbox? -/
def inMailbox (off : Nat) : Bool := match windowOf off with | .mailbox _ => true | _ => false

/-- R328, R329, R370: while a start runs, and after one that stopped, the mailbox alone is served.
Log 56 (DEDUCED), 58 (DEDUCED). -/
def execHrd (off size : Nat) (s : State) : Res :=
  event s (
    if !s.boot.powered then none
    else if !hubReady s && !inMailbox off then some (answerRead s none size)
    else
      let r := hostRead s off size
      some (answerRead (if r.isNone then hostError s else s) r size))

/-! ## The host's writes and adds (R328, R329) -/

/-- The 64 bytes of a line. -/
def lineBytes (d : BitVec 512) : List Byte := (upto 0 64).map fun i => (d >>> (8 * i)).truncate 8

/-- The mailbox with the selected bytes of a line written; BOOTSTAT keeps its bytes.
Log 57 (DEDUCED). -/
def mailWrite (s : State) (off : Nat) (data : List Byte) (mask : BitVec 64) : State :=
  { s with boot := { s.boot with mailbox := (maskedBytes off data mask).foldl (fun m p =>
      if p.1 < 8 then m else fset m p.1 p.2) s.boot.mailbox } }

/-- R328, R329: one write event for the line. Log 57 (DEDUCED), 58 (DEDUCED). -/
def execHwr (t : HostTarget) (data : BitVec 512) (mask : BitVec 64) (s : State) : Res :=
  event s (
    if !s.boot.powered then none
    else match t with
      | .hostMem pa =>
        if !hubReady s then some s
        else if pa % 64 ≠ 0 ∨ 2 ^ 52 ≤ pa then some (hostError s)
        else takeInput s (.write (hostBase + pa) (lineBytes data) mask)
      | .window off =>
        match windowOf off with
        | .mailbox k => if k % 64 = 0 then some (mailWrite s k (lineBytes data) mask) else some (hostError s)
        | .memory pa =>
          if !hubReady s then some s
          else if pa % 64 ≠ 0 || !memoryThere s pa then some (hostError s)
          else takeInput s (.write pa (lineBytes data) mask)
        | _ => some (if hubReady s then hostError s else s))

/-- R328. Log 58 (DEDUCED). -/
def execHcadd (handle : Nat) (amount : BitVec 32) (s : State) : Res :=
  event s (
    if !s.boot.powered then none
    else if !hubReady s then some s
    else takeInput s (.add (BitVec.ofNat 64 handle) amount.toNat))

/-! ## Translation units and notices (R252, R256, R259, R260) -/

/-- R252: a peer-tier read of the strand's next instruction has not completed within 20 µs; the instruction that consumes
it takes MCHK, SUB 3. Log 59 (DEDUCED). -/
def execPeerReadTimeout (c : Sid) (s : State) : Res :=
  event s (if (s.strand c).run = .ready then some (s.setStrand c { s.strand c with peerLate := true }) else none)

/-- R256: a walker translates a page of the context on a core; the translation fills the TLBs. A fault is the access's. -/
def execPageWalk (core : Nat) (va : Word) (s : State) : Res :=
  event s (match (s.core core).claim with
    | none => none
    | some lid => match translate s core (ctxOf s lid) va with | .ok (_, s) => some s | .error _ => none)

/-- R259: at once for a context without a D1 or D2 launch; else at a quantum end. -/
def execNotificationRecord (die : Nat) (s : State) : Res :=
  event s (((s.die die).notices.filter fun n => (noticeGroup s n.ctx).isNone).findSome? fun n => placeNotice s die n)

/-- R260: a store that waits at a write-blocked page, whose translation `tlbinv` has removed, walks again.
Log 99 (DEDUCED). -/
def execWriteBlockResume (c : Sid) (s : State) : Res :=
  event s (match (s.strand c).blocked with
    | some (_, true) => some (s.setStrand c { s.strand c with blocked := none, issued := 1 })
    | _ => none)

end Sys2Proof.Machine
end

