-- ==== Sys2Proof/Machine/Power.lean ====
section
/-! DEFINITION. Clocks, power and idle depths (R345 to R349, R372). -/

namespace Sys2Proof.Machine

/-! ## Clock modes (R345, R346) -/

/-- R345: a stretched cycle counts as one and changes nothing. -/
def execDroopStretch (_cluster : Nat) (s : State) : Res := .next s

/-- R346: an elastic cluster that holds a steady occupancy begins its change. -/
def execClockModeChange (cluster : Nat) (s : State) : Res :=
  let cl := s.cluster cluster
  event s (
    if s.boot.powered && !cl.steady && cl.changing.isNone && steadyHere s cluster then
      some (s.setCluster cluster { cl with changing := some (s.time + 2000, true) })
    else none)

/-- R346: 2 µs later its cores go on. -/
def execClockModeChangeEnd (cluster : Nat) (s : State) : Res :=
  let cl := s.cluster cluster
  event s (match cl.changing with
    | some (t, m) =>
      if t ≤ s.time then some (noteSteady (s.setCluster cluster { cl with steady := m, changing := none, idleSince := none }) cluster)
      else none
    | none => none)

/-- R346: a cluster whose last steady occupancy has left changes back, and is elastic 2 µs after that. -/
def execElasticReturn (cluster : Nat) (s : State) : Res :=
  let cl := s.cluster cluster
  event s (match cl.idleSince with
    | some t =>
      if cl.steady && cl.changing.isNone && !steadyHere s cluster then
        some (s.setCluster cluster { cl with changing := some (t + 2000, false), idleSince := none })
      else none
    | none => none)

/-! ## Power (R347, R372) -/

/-- PLIMIT (Table 17.3). Log 64 (DEDUCED). -/
def plimit (s : State) : Nat := Nat.min 3000 (Nat.max 1000 (bits (fget s.boot.conf 0 3) 11 0))

/-- The dies whose elastic clock can still be lowered. Log 64 (DEDUCED). -/
def loweredNext (s : State) : List Nat := (upto 0 8).filter fun d => !(s.die d).lost && decide (800 < (s.die d).mhz)

/-- R372: above PLIMIT the hottest die's elastic clock goes down by 50 MHz, or, where it is at 0.8 GHz, the lowest die's that
is not; below PLIMIT − 100 W dispatch resumes. Log 64 (DEDUCED). -/
def execPowerSample (watts hottest : Nat) (s : State) : Res :=
  event s (
    if !s.boot.powered then none
    else if watts ≤ plimit s then
        some { s with boot := { s.boot with overSince := none },
                      lu := { s.lu with throttled := s.lu.throttled && !decide (watts < plimit s - 100) } }
      else
        let l := loweredNext s
        match if l.contains hottest then some hottest else l.head? with
        | some d => some (s.setDie d { s.die d with mhz := (s.die d).mhz - 50 })
        | none => some { s with boot := { s.boot with overSince := some (s.boot.overSince.getD s.time) } })

/-- R372: 1 ms over PLIMIT with every elastic die at 0.8 GHz. -/
def execDispatchThrottle (s : State) : Res :=
  event s (match s.boot.overSince with
    | some t => if t + 1000000 ≤ s.time then some { s with lu := { s.lu with throttled := true } } else none
    | none => none)

/-- What a start or a loss of power abandons (R368): every context, with its strands, engines and operations; views, inputs
and messages; the debug unit. Cycle counts, accounts and what management holds stay.
Log 66 (DESIGN CHOICE). -/
def abandon (s : State) : State :=
  let clusters : FMap Cluster := s.clusters.map fun p => (p.1, { Cluster.reset with cycle := p.2.cycle })
  let cores : FMap Core := s.cores.map fun p => (p.1, { Core.reset with acct := p.2.acct })
  let dies : FMap Die := s.dies.map fun p => (p.1, { Die.reset with lost := p.2.lost, ce := p.2.ce })
  { s with
    cores := cores, clusters := clusters, dies := dies,
    solo := [], lu := State.reset.lu, eng := State.reset.eng, net := State.reset.net, dbg := State.reset.dbg,
    boot := { s.boot with overSince := none, start := none } }

/-- Power goes: no context survives, HBM and key slots are lost, and the next start is cold (R368, R372). -/
def powerOff (s : State) : State :=
  let s := abandon s
  { s with
    mem := s.mem.filter fun c => decide (hostBase ≤ c.1),
    poison := s.poison.filter (fun p => decide (hostBase ≤ p.1 * 32)), tags := [],
    boot := { s.boot with powered := false, nextCold := true, keys := [], flagged := [] } }

/-- R372: a junction above 105 °C. -/
def execJunctionTrip (_die : Nat) (s : State) : Res := event s (if s.boot.powered then some (powerOff s) else none)

/-- R368. -/
def execPowerLoss (s : State) : Res := event s (if s.boot.powered then some (powerOff s) else none)

/-! ## Idle depths (R348, R349) -/

/-- Has a strand something to do that its core must be awake for? -/
def canRun (st : Strand) : Bool :=
  !st.stopped && !st.parked && (match st.run with
    | .ready => true
    | .kwait => takeable st
    | .result => match st.await with | some w => w.got.isSome | none => st.waiting.isEmpty
    | _ => false)

/-- Does a strand wait for a counter or a result, its chunks granted, with nothing to do meanwhile (R189, R348)? -/
def idles (st : Strand) : Bool :=
  (st.run == .kwait || st.run == .result) && !st.stopped && !st.parked && !canRun st && st.opened.isNone && st.waiting.isEmpty

/-- The existing strands of a core. -/
def Core.existing (co : Core) : List Strand := (co.strands.filter fun p => p.2.run != .none).map Prod.snd

/-- The smallest IDLEDEPTH of the existing strands of a core (R33). -/
def idleDepth (co : Core) : Nat := (co.existing.map fun st => (st.arch.cr' 0x070).toNat).foldl Nat.min 3

/-- R348: every existing strand of the core waits; it enters the depth that R33 gives. -/
def execIdleDepthEntry (core : Nat) (s : State) : Res :=
  let co := s.core core
  event s (
    if s.boot.powered && !co.asleep && !co.existing.isEmpty && co.existing.all idles then
      some (s.setCore core { co with asleep := true, depth := idleDepth co })
    else none)

/-- R349. -/
def execCoreWake (core : Nat) (s : State) : Res :=
  let co := s.core core
  event s (
    if s.boot.powered && co.asleep && co.strands.any (fun p => canRun p.2) then some (s.setCore core { co with asleep := false })
    else none)

end Sys2Proof.Machine
end

