-- ==== Sys2Proof/Machine/Debug.lean ====
section
/-! DEFINITION. The debug unit (chapter 14): stops and resumption, records, watch delivery, state writes, watchpoints, trace
arming and triggers, replay, dumps, register writes. -/

namespace Sys2Proof.Machine

/-! ## Stops (R352) -/

/-- The strands of a core. -/
def coreSids (s : State) (l : Nat) : List Sid := (s.core l).strands.map fun p => ⟨l, p.1⟩

/-- The strands of a core are asked to stop. -/
def stopCore (s : State) (l : Nat) : State :=
  let s := s.setCore l { s.core l with qopen := false }
  (coreSids s l).foldl (requestStop 0) (noteStop s l)

/-- DBGCORE.HALT = 1. -/
def haltCore (s : State) (l : Nat) : State := stopCore (s.setCore l { s.core l with dbgHalt := true }) l

/-- The operations that a stopped core's port queued, then those that went to a spill ring meanwhile, are applied in order
(R353); one that cannot be applied now stays in flight. -/
def drainPort (s : State) (l : Nat) : State :=
  let queued := (s.core l).portQ
  let s := s.setCore l { s.core l with portQ := [] }
  let go := fun (s : State) (num : Nat) => match findOp s num with
    | some o => ((atPort (dropOp s num) o l).getD s)
    | none => s
  let s := queued.foldl go s
  let spilled := (s.eng.ops.filter fun o => o.spilled && targetOf o.rel == some l
    && fateOf s o.ctx l (isDirect o.rel) == .apply).map fun o => (o.num, o.ctx)
  spilled.foldl (fun s p =>
    let x := ctxCopy s p.2
    let s := setCtx s p.2 { x with take := x.take + 1 }
    let s := { s with eng := { s.eng with ops := s.eng.ops.map fun o => if o.num = p.1 then { o with spilled := false } else o } }
    go s p.1) s

/-- Does the debugger's write change the words of a pending `kwait` or result (Table 10.9, from 0xB18)? -/
def writesWait (m : FMap Word) : Bool := [0xB18, 0xB20, 0xB28, 0xB30].any fun k => (ffind m k).isSome

/-- Has the debugger written register `n` whole, so that its poison goes (R338): g 1 to 31, v from 32? -/
def wroteWhole (m : FMap Word) (n : Nat) : Bool :=
  if n < 32 then (ffind m (8 * n)).isSome
  else (upto 0 8).all fun k => (ffind m (0x100 + 64 * (n - 32) + 8 * k)).isSome

/-- The wait and the awaited result that a strand's record, as written, says it has; the words from 0xB18 have flags, handle,
value and register. -/
def waitWritten (st : Strand) (l : List Byte) : Strand :=
  let flags := recordWord l 0xB18
  let kw : Option KWait := if bitOf flags 1 then
      some { handle := recordWord l 0xB20, val := recordWord l 0xB28, pc := (st.kw.map fun k => k.pc).getD st.arch.pc } else none
  let rd := (recordWord l 0xB30).toNat % 32
  let await : Option Await := if bitOf flags 0 then
      some (match st.await with | some w => { w with rd := rd } | none => { rd := rd, got := none }) else none
  let run : RunState := if kw.isSome then .kwait else if await.isSome then .result else .ready
  match st.run with
  | .ready | .kwait | .result => { st with kw := kw, await := await, run := run }
  | _ => st

/-- A strand with what the debugger has written into its record (R354, Table 10.9): every field but LAUNCHID and NODEID, which
are the launch unit's, and of STATUS PRIV and STEP. Log 62 (DEDUCED). -/
def takeWritten (s : State) (c : Sid) : Strand :=
  let st := s.strand c
  let m := st.written
  if m.isEmpty then st
  else
    let l := m.foldl (fun l p => l.take p.1 ++ leBytes 8 p.2.toNat ++ l.drop (p.1 + 8)) (recordBytes s c st.arch.pc)
    let status := recordWord l 0x950
    let a := recordLoad st.arch l false
    let st := { st with
      written := [],
      arch := { a with pc := recordWord l 0 &&& 0xFFFFFFFFFFFFFFFC, priv := bitOf status 0, step := bitOf status 6,
                       bad := st.arch.bad.filter fun p => !wroteWhole m p.1 },
      chunkSeq := (recordWord l 0x958).toNat,
      idx := (upto 0 8).foldl (fun x i => if (ffind m (0xB38 + 8 * i)).isSome then fset x i (recordWord l (0xB38 + 8 * i)) else x) st.idx }
    if writesWait m then waitWritten st l else st

/-- A strand's pending wait is replaced: the armed one is lost, the new one is armed. -/
def changeWait (s : State) (c : Sid) (new : Option KWait) : State :=
  if (s.strand c).kw = new then s
  else
    let s := loseWait s c
    match new with
    | some k => pushOp s c (s.ctx c) (s.strand c).epoch (if detOf s (s.strand c).lid = 0 then 0 else groupOf s (s.strand c).lid)
        false (.arm k.handle k.val k.pc)
    | none => s

/-- A stopped strand goes on with what has been written into its record (R354). -/
def resumeStrand (s : State) (c : Sid) : State :=
  let st := takeWritten s c
  (changeWait s c st.kw).setStrand c
    { st with stopped := false, debugReq := if st.debugReq = some 0 then none else st.debugReq }

/-- The stopped strands of a core go on (R354), and its port's operations are applied.
Log 63 (DEDUCED). -/
def resumeCore (s : State) (l : Nat) : State :=
  let s := (coreSids s l).foldl resumeStrand s
  drainPort (s.setCore l { s.core l with dbgHalt := false, qopen := false, quiesceSince := none }) l

/-- R352. -/
def execDebugHalt (core : Nat) (s : State) : Res := event s (if hubReady s then some (haltCore s core) else none)

/-- R354. -/
def execDebugResume (core : Nat) (s : State) : Res := event s (if hubReady s then some (resumeCore s core) else none)

/-- The cores that a DBGSTOP command names: those of a launch, or of every launch. -/
def stopTargets (s : State) (lid : Nat) : List Nat :=
  (s.lu.launches.filter fun p => lid == 0 || p.1 == lid).flatMap fun p => p.2.cores

/-- DBGSTOP.LID written. -/
def setStopLid (s : State) (lid : Nat) : State := { s with dbg := { s.dbg with stopLid := lid % 2 ^ 32 } }

/-- A write of DBGSTOP: LID, and by CMD a stop, a resumption or nothing (Table 14.2). -/
def writeDbgstop (s : State) (lid cmd : Nat) : State :=
  let s := setStopLid s lid
  if cmd = 1 then (stopTargets s lid).foldl stopCore s
  else if cmd = 2 then (stopTargets s lid).foldl resumeCore s else s

/-- R352. -/
def execDbgstopStop (lid : Nat) (s : State) : Res := event s (if hubReady s then some (writeDbgstop s lid 1) else none)

/-- R354. -/
def execDbgstopResume (lid : Nat) (s : State) : Res := event s (if hubReady s then some (writeDbgstop s lid 2) else none)

/-- R352: a quiesced halt completes 1 ms after it was asked for. -/
def execQuiesceTimeout (core : Nat) (s : State) : Res :=
  let co := s.core core
  event s (match co.quiesceSince with
    | some t =>
      if co.quiesce && !co.qopen && !coreJoined s core && decide (t + 1000000 ≤ s.time)
          && (co.strands.filter fun p => p.2.run != .none).all (fun p => p.2.stopped) then
        some (s.setCore core { co with qopen := true })
      else none
    | none => none)

/-- Replay mode begins or ends (R361). Log 110 (DESIGN CHOICE). -/
def setReplay (s : State) (r : Option (Nat × List (List Word))) : State :=
  { s with dbg := { s.dbg with replay := r.map fun p => { lid := p.1, log := p.2, since := s.time } } }

/-- Does the log of a replayed run still name an event (R361)? -/
def logNames (p : Replay) (e : Logged) : Bool := p.log.any e.named

/-- Does the log still place instance `i` of a node somewhere? -/
def logPlaces (p : Replay) (i : Nat) : Bool :=
  p.log.any fun r => bits (nth r (0 : Word) 0) 63 58 == 7 && (nth r (0 : Word) 1).toNat == i

/-- An operation that its port or home applies, as the order log names it; none where it takes no part in the log. -/
def opLogged (s : State) (o : Op) : Option Logged :=
  match o.rel with
  | .posted _ _ _ _ leaf _ => if leafTier leaf = 2 then none else some { kind := 2, who := o.src, what := 0, other := o.src.core }
  | .add h _ | .set h _ | .arm h _ _ | .draw h _ =>
    (targetOf o.rel).bind fun l => if fateOf s o.ctx l (isDirect o.rel) == .apply then some (portEvent o l h.toNat) else none
  | .remote _ w ea _ _ _ => match placeOf ea with
    | .remote l off => if fateOf s o.ctx l false == .apply && decide (off + w ≤ (s.core l).spBytes)
        then some (portEvent o l off) else none
    | _ => none
  | _ => none

/-- Has an event of the replayed launch arrived that the log does not name: a commit request, an operation, a block of a
transfer, an instance to place (R361)? -/
def strayEvent (s : State) (p : Replay) : Bool :=
  ((allStrands s).any fun c =>
    let st := s.strand c
    st.lid == p.lid && st.run != .none && (match st.waiting with | ch :: _ => ch.drained | [] => false)
      && !logNames p { kind := 0, who := c, what := 0, other := 0 })
  || (s.eng.ops.any fun o => (strandOf s o.ctx o.src).lid == p.lid && (opLogged s o).any fun e => !logNames p e)
  || (s.eng.copies.any fun x => x.st == .running && (strandOf s x.ctx x.src).lid == p.lid
      && (copyBlocks x).any (fun b => !x.done.contains b)
      && !(p.log.any fun r => bits (nth r (0 : Word) 0) 63 58 == 5 && (nth r (0 : Word) 1) == x.ident))
  || (match s.launch p.lid with
      | some x => x.nodes.any fun n => (openInstances x n).any fun i => !logPlaces p i
      | none => false)

/-- R361: an event has arrived that the log does not name, or a logged one has not come in 10 ms: every strand of the launch
stops. Log 110 (DESIGN CHOICE). -/
def execReplayDivergence (lid : Nat) (s : State) : Res :=
  event s (match s.dbg.replay with
    | some p =>
      if p.lid = lid ∧ (s.launch lid).isSome ∧ ((!p.log.isEmpty ∧ p.since + 10000000 ≤ s.time) ∨ strayEvent s p) then
        some (((allStrands s).filter fun c => (s.strand c).lid == lid).foldl (requestStop 4) s)
      else none
    | none => none)

/-! ## Records (R350, R351) -/

/-- R350: one dword of the oldest record; 0 when there is none. -/
def execDbgrecRead (s : State) : Res :=
  match s.dbg.records with
  | [] => .next { s with dbg := { s.dbg with lastRead := 0 } }
  | r :: rest =>
    let d := { s.dbg with lastRead := nth r 0 s.dbg.recPos }
    .next { s with dbg := if s.dbg.recPos = 5 then { d with records := rest, recPos := 0 } else { d with recPos := s.dbg.recPos + 1 } }

/-- DBGSTAT. -/
def dbgstatWord (s : State) : Word :=
  BitVec.ofNat 64 (Nat.min (2 ^ 32 - 1) s.dbg.rlost * 2 ^ 32 + s.dbg.records.length)

/-- R350: RLOST is cleared by the read. -/
def execDbgstatRead (s : State) : Res := .next { s with dbg := { s.dbg with lastRead := dbgstatWord s, rlost := 0 } }

/-! ## Watch reports (R358) -/

/-- R358: the oldest report of the core reaches the strand that its WPCTL names; at D1 and D2 the quantum end brings it. -/
def execWatchDelivery (c : Sid) (s : State) : Res :=
  event s (match s.dbg.reports.find? fun r => r.core == c.core with
    | none => none
    | some r =>
      if r.strand ≠ c ∨ ((s.strand c).run ≠ .none ∧ detOf s (s.strand c).lid ≠ 0) then none else some (takeReport s r))

/-! ## State of a stopped strand (R354, Table 10.9) -/

/-- R354: a dword of a stopped strand's record; it takes effect when the strand resumes. -/
def execDebugStateWrite (c : Sid) (off : Nat) (v : Word) (s : State) : Res :=
  let st := s.strand c
  event s (
    if st.stopped ∧ off % 8 = 0 ∧ off < 0x1000 then some (s.setStrand c { st with written := fset st.written off v }) else none)

/-! ## Watchpoints (R355) -/

/-- R355: a write of WPCTL. -/
def execWatchpointArm (core n : Nat) (v : Word) (s : State) : Res :=
  let co := s.core core
  let w : Watch := { (fget co.watches Watch.reset n) with ctl := v &&& 0xFF0F00FF, place := none, pending := false }
  let w := if !bitOf v 31 then w
    else match co.claim with
      | some lid => armWatch s core (ctxOf s lid) w
      | none => { w with pending := true }
  event s (if n < 4 then some (s.setCore core { co with watches := fset co.watches n w }) else none)

/-! ## Trace (R359 to R361) -/

/-- TRCTL written. With EN it arms the trace, which starts or stops at once where TRSTART or TRSTOP says so or its TIME has
come; both at once leave one record, a trigger marker (R360). An order log has no triggers, and what has waited for room
comes first in its ring (R361). -/
def writeTrctl (s : State) (v : Word) : State :=
  let d := { s.dbg with trctl := v &&& 0xFFFFFFFF0000000F, tracing := false, traceCut := false, traceBegan := none,
                        traceEnded := none, trwait := [] }
  if !bitOf v 0 then { s with dbg := d }
  else
    let s' := { s with dbg := { d with trnext := 0, trlost := 0, traceOver := false } }
    if bitOf v 3 then s.dbg.trwait.foldl traceWrite s'
    else
      let now := bits d.trstart 63 62 == 1
      let ended := bits d.trstop 63 62 == 1 || traceDue d.trstop s.time
      if now && ended then
        let s' := traceMarker s'
        { s' with dbg := { s'.dbg with tracing := false, traceOver := true } }
      else if bits d.trstop 63 62 == 1 then
        let due := traceDue d.trstart s.time
        let s' := if due then traceMarker s' else s'
        { s' with dbg := { s'.dbg with tracing := false, traceOver := true,
                                       traceEnded := if due then none else some s.time } }
      else traceTime { s' with dbg := { s'.dbg with tracing := now } }

/-- R360: a write of TRCTL with EN = 1 arms the trace. -/
def execTraceArm (v : Word) (s : State) : Res := event s (if bitOf v 0 then some (writeTrctl s v) else none)

/-- R360: a condition on TIME becomes true; those on events act with their events. -/
def execTraceTrigger (stop : Bool) (s : State) : Res :=
  event s (if traceDue (if stop then s.dbg.trstop else s.dbg.trstart) s.time then some (traceTime s) else none)

/-! ## Dumps (R363) -/

/-- Writes bytes of physical memory for the debug unit; none where a byte has no place or is poisoned. -/
def dumpWrite (s : State) (a : Nat) (data : List Byte) : Option State :=
  if !plainMemory s a data.length || (upto a data.length).any (poisonedAt s) then none else some (hubPoke s a data)

/-- The body of a dump of a core, in the layout of Table 10.9. -/
def coreDump (s : State) (l : Nat) : List Byte :=
  (upto 0 4).flatMap (fun k =>
    if (s.strand ⟨l, k⟩).run = .none then List.replicate 4096 0 else recordBytes s ⟨l, k⟩ (s.strand ⟨l, k⟩).arch.pc)
  ++ coreSection (s.core l)

/-- DBGCORE of a core. -/
def dbgcoreWord (s : State) (l : Nat) : Word :=
  let co := s.core l
  BitVec.ofNat 64 ((if co.qopen then 16 else 0) + (if coreStopped s l then 8 else 0) + (if co.quiesce then 4 else 0)
    + (if co.dbgHalt then 2 else 0) + if co.armBrk then 1 else 0)

/-- The core and strand that DBGSEL names. -/
def selected (s : State) : Sid := ⟨bits s.dbg.sel 14 0, bits s.dbg.sel 17 16⟩

/-- The debug registers in the order of Table 14.1, a dword each; DBGREC reads as 0 here, and a dump is no read of DBGSTAT or
DBGREC: it shows RLOST and leaves it. Log 61 (DESIGN CHOICE). -/
def debugRegs (s : State) : List Byte :=
  let c := selected s
  let co := s.core c.core
  let w := fun (n : Nat) => fget co.watches Watch.reset n
  let l : List Nat := [s.dbg.sel.toNat, (dbgcoreWord s c.core).toNat, s.dbg.stopLid * 2 ^ 32, (dbgstatWord s).toNat, 0]
    ++ (upto 0 4).map (fun n => (w n).base.toNat) ++ (upto 0 4).map (fun n => (w n).ctl.toNat)
    ++ (upto 0 8).map (fun k => fget co.acct 0 (c.strand * 8 + k))
    ++ [s.dbg.trctl.toNat, s.dbg.trstart.toNat, s.dbg.trstop.toNat, s.dbg.trbase.toNat, s.dbg.trsize.toNat, s.dbg.trnext,
        s.dbg.trlost, s.dbg.dumpctl.toNat, s.dbg.dumpbuf.toNat, s.dbg.dumplen.toNat, s.dbg.dumpstat.toNat]
  l.flatMap (leBytes 8)

/-- What DUMPCTL selects. Log 61 (DESIGN CHOICE). -/
def dumpBody (s : State) : List Byte :=
  match bits s.dbg.dumpctl 1 0 with
  | 0 => coreDump s (selected s).core
  | 1 => s.mem.bytes s.dbg.trbase.toNat (s.dbg.trsize.toNat * 32)
  | 2 => debugRegs s
  | _ => []

/-- The header of a dump (Table 14.5). -/
def dumpHeader (s : State) (status size reached : Nat) : List Byte :=
  leBytes 8 status ++ leBytes 8 size ++ leBytes 8 reached ++ leBytes 8 s.dbg.dumpctl.toNat ++ leBytes 8 s.dbg.sel.toNat
  ++ leBytes 8 s.time ++ List.replicate 0xD0 0

/-- Writes the body line by line; the offset reached, and whether all of it is written. -/
def dumpLines (a : Nat) : Nat → State → List Byte → Nat → State × Nat × Bool
  | 0, s, _, off => (s, off, true)
  | n + 1, s, l, off =>
    if l.isEmpty then (s, off, true)
    else
      let k := 64 - (a + off) % 64
      match dumpWrite s (a + off) (l.take k) with
      | some s => dumpLines a n s (l.drop k) (off + (l.take k).length)
      | none => (s, off, false)

/-- R363: a write of DUMPCTL. Log 61 (DESIGN CHOICE). -/
def execDumpRequest (v : Word) (s : State) : Res :=
  event s (
    if !s.boot.powered then none
    else
      let s := { s with dbg := { s.dbg with dumpctl := v } }
      if bits v 1 0 = 3 then some s
      else
        let a := s.dbg.dumpbuf.toNat
        let body := dumpBody s
        let size := 256 + body.length
        match dumpWrite s a (dumpHeader s 3 size 0) with
        | none => some { s with dbg := { s.dbg with dumpstat := 2 } }
        | some t =>
          if s.dbg.dumplen.toNat < size then dumpWrite t a (dumpHeader s 1 size 0)
          else
            let r := dumpLines (a + 256) (body.length / 32 + 2) t body 0
            dumpWrite r.1 a (dumpHeader s (if r.2.2 then 0 else 2) size r.2.1))

/-! ## Register writes (R350) -/

/-- The state with the selected core changed, if DBGSEL names one. -/
def onSelected (s : State) (f : Core → Core) : State :=
  let l := (selected s).core
  if l < 25600 then s.setCore l (f (s.core l)) else s

/-- DBGCORE written: HALT stops or resumes the core. -/
def writeDbgcore (s : State) (v : Word) : State :=
  let l := (selected s).core
  if 25600 ≤ l then s
  else
    let was := (s.core l).dbgHalt
    let s := s.setCore l { s.core l with armBrk := bitOf v 0, quiesce := bitOf v 2 }
    if bitOf v 1 then (if was then s else haltCore s l) else resumeCore s l

/-- R350. Log 60 (DEDUCED). -/
def execRegisterWrite (r : DebugReg) (v : Word) (s : State) : Res :=
  let put := fun (f : Debug → Debug) => some { s with dbg := f s.dbg }
  event s (
    if !s.boot.powered then none
    else match r with
      | .dbgsel => put fun d => { d with sel := v &&& 0x37FFF }
      | .dbgcore => some (writeDbgcore s v)
      | .dbgstop => some (writeDbgstop s (bits v 63 32) (bits v 1 0))
      | .wpbase n =>
        if n < 4 then some (onSelected s fun co => { co with watches := fset co.watches n { (fget co.watches Watch.reset n) with base := v } })
        else none
      | .acct k =>
        if k < 8 then some (onSelected s fun co => { co with acct := co.acct.filter fun p => p.1 != (selected s).strand * 8 + k }) else none
      | .trctl => some (writeTrctl s v)
      | .trstart => put fun d => { d with trstart := v }
      | .trstop => put fun d => { d with trstop := v }
      | .trbase => put fun d => { d with trbase := v }
      | .trsize => put fun d => { d with trsize := v }
      | .dumpbuf => put fun d => { d with dumpbuf := v }
      | .dumplen => put fun d => { d with dumplen := v }
      | .route mod =>
        if mod < 128 then some { s with net := { s.net with routes := fset s.net.routes mod (bits v 15 0) } } else none)

end Sys2Proof.Machine
end

