-- ==== Sys2Proof/Machine/Start.lean ====
section
/-! DEFINITION. Starts (R367 to R371), the store, key slots, flash and test access (R263, R341, R373). -/

namespace Sys2Proof.Machine

/-! ## Configuration and firmware (R371, R373) -/

/-- The configuration record breaks R371. -/
def confBad (c : FMap Word) : Bool :=
  let d2 := fget c 0 2
  let repl := bits d2 31 16 * 0x20000000
  let stage := bits d2 15 0 * 0x4000000
  let q := (fget c 0 1).toNat
  decide (0xC00000000 < repl + stage) || q % 4096 != 0 || decide (dieBytes - repl - stage < q + 4096)

/-- The firmware slot that boots: the higher version of those that verify. -/
def bootChoice (f : FMap (Nat × Bool)) : Option Nat :=
  let ok := fun (k : Nat) => match ffind f k with | some (v, true) => some v | _ => none
  match ok 0, ok 1 with
  | some a, some b => some (if a < b then 1 else 0)
  | some _, none => some 0
  | none, some _ => some 1
  | none, none => none

/-! ## Failures (R369, R370) -/

/-- Does a failure end the stage of a start of a kind (0 cold, 1 warm, 2 keep-memory warm)? One of a port or a UCIe module of
the hub does not, nor one of a site in a full self-test. -/
def failsStage (kind stage : Nat) (f : StartFailure) : Bool :=
  f.stage == stage && (stage == 3 || (stage == 4 && kind != 0) || (stage == 5 && decide (f.unit < 8)) || (stage == 6 && kind != 2))

/-- BOOTSTAT (Table 17.2). -/
def bootWord (unit part tries kind result stage : Nat) : Word :=
  BitVec.ofNat 64 (unit % 256 * 2 ^ 40 + part % 256 * 2 ^ 32 + tries % 256 * 2 ^ 16 + kind % 16 * 2 ^ 12 + result % 16 * 2 ^ 8
    + stage % 256)

/-- The unit that a self-test failure of a cold start names: a core by number, a cluster from 4,096, a slice from 8,192.
Log 65 (DESIGN CHOICE). -/
def testedUnit (f : StartFailure) : RepairUnit :=
  if f.part < 3200 then .core f.unit (f.part / 16) (f.part % 16)
  else if f.part < 8192 then .cluster f.unit (f.part - 4096)
  else .slice f.unit (f.part - 8192)

/-- A site that fails the self-test is replaced, or its unit turns UNAVAIL (R343, R370). -/
def testFail (s : State) (f : StartFailure) : State :=
  let u := testedUnit f
  if !unitOk u then s
  else match spareFor s u with
    | some p => addEntry s (unitDie u) (entryFor s u p.1 p.2.1 p.2.2 0 false)
    | none => let p := placeNow s u; addEntry s (unitDie u) (entryFor s u p.1 p.2.1 p.2.2 0 true)

/-! ## The stages (Table 17.1) -/

/-- Stage 4 of a cold start: units marked UNAVAIL (R344) and sites that fail. Log 47 (DEDUCED). -/
def selfTest (s : State) (fails : List StartFailure) : State :=
  let s := s.boot.doomed.foldl (fun s e => addEntry s e.1 e.2) s
  let s := { s with boot := { s.boot with doomed := [], moves := [] } }
  (fails.filter fun f => f.stage == 4).foldl testFail s

/-- Stage 5: ports and UCIe modules that fail training stay down. Log 65 (DESIGN CHOICE). -/
def trainLinks (s : State) (fails : List StartFailure) : State :=
  let s := { s with net := { s.net with ports := [] } }
  let bad := fails.filter fun f => f.stage == 5 && f.unit == 8
  let s := (bad.filter fun f => decide (f.part < 16)).foldl (fun s f => s.setPort f.part { Port.reset with up := false }) s
  let down := ((bad.filter fun f => decide (16 ≤ f.part) && decide (f.part < 24)).map fun f => f.part).dedup.length
  { s with net := { s.net with uciModules := 8 - down } }

/-- Stage 6: HBM zero. The host's memory is not the module's. -/
def zeroHbm (s : State) : State :=
  { s with mem := s.mem.filter fun c => decide (hostBase ≤ c.1),
           poison := s.poison.filter (fun p => decide (hostBase ≤ p.1 * 32)), tags := [] }

/-- Stage 7. -/
def clearSlots (s : State) : State := { s with boot := { s.boot with keys := [], flagged := [] } }

/-- Stage 8: the configuration is applied and the cores initialised; a cold start sets CYCLE, TIME and the accounts to
zero. The launch unit then reads every queue descriptor (R375). Log 66 (DESIGN CHOICE). -/
def initialise (s : State) (kind : Nat) : State :=
  let s := { s with boot := { s.boot with conf := s.boot.store } }
  let s := if kind = 0 then { s with time := 0, cores := [], clusters := [], dies := [], boot := { s.boot with window := 0 } }
    else { s with dies := s.dies.map fun p => (p.1, { Die.reset with ce := p.2.ce }) }
  { s with net := { s.net with beats := if kind = 0 then [] else (upto 0 128).map fun m => (m, s.time) } }

/-- The start under way takes its next stage: BOOTSTAT shows it running (R369). UNIT and PART show none until a start has
stopped. Log 7 (DESIGN CHOICE). -/
def showStage (s : State) (r : StartRun) : State :=
  { s with boot := { s.boot with start := some r, bootstat := bootWord 0xFF 0xFF r.tries r.kind 0 r.stage } }

/-- The start fails at its stage: the next kind is tried, or the hub stops (R370). -/
def startFailed (s : State) (r : StartRun) (unit part : Nat) : State :=
  match r.retry with
  | [] => { s with boot := { s.boot with start := none, bootstat := bootWord unit part r.tries r.kind 2 r.stage } }
  | k :: ks => showStage s { kind := k, stage := 1, tries := r.tries + 1, retry := ks, fails := r.fails.drop 1 }

/-- The start goes on with its next stage. -/
def stageDone (s : State) (r : StartRun) : State := showStage s { r with stage := r.stage + 1 }

/-- Stage 5 of a start, whose die-side failures are none: it fails only where no UCIe module is left (R370). -/
def linkStage (s : State) (r : StartRun) (fails : List StartFailure) : State :=
  let s := trainLinks s (fails.filter fun f => f.stage == 5)
  if s.net.uciModules = 0 then startFailed s r 8 23 else stageDone s r

/-- Stage 8 of a start: ready, and the launch unit serves the queues (R367, R375). UNIT and PART show none.
Log 7 (DESIGN CHOICE). -/
def lastStage (s : State) (r : StartRun) : State :=
  if confBad s.boot.store then startFailed s r 0xFF 0xFF
  else
    let s := initialise s r.kind
    let s := { s with boot := { s.boot with start := none, bootstat := bootWord 0xFF 0xFF r.tries r.kind 1 8 } }
    (upto 0 64).foldl readQueue s

/-- A stage in which no listed failure ends the start (Table 17.1). -/
def goodStage (s : State) (r : StartRun) (fails : List StartFailure) : State :=
  match r.stage with
  | 2 => match bootChoice s.boot.flash with
    | none => startFailed s r 8 0xFF
    | some slot => stageDone { s with boot := { s.boot with bootSlot := slot, testLocked := true } } r
  | 3 => stageDone { s with boot := { s.boot with repair := s.boot.repairStore } } r
  | 4 => stageDone (if r.kind = 0 then selfTest s fails else s) r
  | 5 => linkStage s r fails
  | 6 => stageDone (if r.kind = 2 then s else zeroHbm s) r
  | 7 => stageDone (if r.kind = 2 then s else clearSlots s) r
  | 8 => lastStage s r
  | _ => stageDone s r

/-- The start under way runs its next stage, which may be one that this start's failures end (R367, R370). Memory that
zeroing has reached before poison stopped it is zero. Log 65 (DESIGN CHOICE). -/
def runStage (s : State) : State :=
  match s.boot.start with
  | none => s
  | some r =>
    let fails := r.fails.headD []
    match fails.find? (failsStage r.kind r.stage) with
    | some f => startFailed (if r.stage = 6 then zeroHbm s else s) r f.unit f.part
    | none => goodStage s r fails

/-- A start is requested: contexts are abandoned, and after a loss of power it is cold whatever was asked for (R368). Its
stages follow one by one, and those of the starts that a failure leads to. Log 65 (DESIGN CHOICE). -/
def requestStart (s : State) (kind : Nat) (fails : List (List StartFailure)) : State :=
  let kind := if s.boot.nextCold then 0 else kind
  let s := abandon s
  let s := { s with boot := { s.boot with powered := true, nextCold := false } }
  showStage s { kind := kind, stage := 1, tries := 1, retry := if kind = 0 then [0] else [0, 0], fails := fails }

/-- R367, R370. -/
def execColdStart (fails : List (List StartFailure)) (s : State) : Res := .next (requestStart s 0 fails)

/-- R368. -/
def execWarmStart (fails : List (List StartFailure)) (s : State) : Res := .next (requestStart s 1 fails)

/-- R368: committed HBM and key slots stay. -/
def execKeepMemoryWarmStart (fails : List (List StartFailure)) (s : State) : Res := .next (requestStart s 2 fails)

/-! ## Management (R263, R371, R373) -/

/-- R263. Log 67 (DESIGN CHOICE). -/
def execKeySlotLoad (slot key : Nat) (s : State) : Res :=
  event s (
    if s.boot.powered ∧ 1 ≤ slot ∧ slot ≤ 255 then some { s with boot := { s.boot with keys := fset s.boot.keys slot key } }
    else none)

/-- R263: the slot's key and its flag go. -/
def execKeySlotClear (slot : Nat) (s : State) : Res :=
  event s (
    if s.boot.powered then
      some { s with boot := { s.boot with keys := fdel s.boot.keys slot, flagged := fdel s.boot.flagged slot } }
    else none)

/-- The writable bits of a configuration dword (Table 17.3). -/
def confMask (k : Nat) : Word :=
  if k = 0 then 0x7F else if k = 1 then 0xFFFFFFFFFFFFFFFF else if k = 2 then 0x0000FFFFFFFFFFFF else if k = 3 then 0xFFF else 0

/-- R371, R342: the store changes at once; both act from the next start on. -/
def execStoreWrite (w : StoreRecord) (s : State) : Res :=
  event s (
    if !s.boot.powered then none
    else match w with
      | .config k v =>
        if k < 4 then some { s with boot := { s.boot with store := fset s.boot.store k (v &&& confMask k) } } else none
      | .repair d i v =>
        if d < 8 ∧ i < 512 then
          some { s with boot := { s.boot with repairStore := fset s.boot.repairStore (d * 512 + i) (v &&& 0xFFFFFFFFFFFF8000) } }
        else none)

/-- R373: the slots are cleared before test access opens; a token that does not verify does nothing. -/
def execUnlockToken (valid : Bool) (s : State) : Res :=
  event s (
    if s.boot.powered && valid then
      let s := clearSlots s
      some { s with boot := { s.boot with testLocked := false } }
    else none)

/-- R373: management writes only the slot that did not boot. -/
def execFlashSlotWrite (slot version : Nat) (verifies : Bool) (s : State) : Res :=
  event s (
    if s.boot.powered ∧ slot < 2 ∧ slot ≠ s.boot.bootSlot then
      some { s with boot := { s.boot with flash := fset s.boot.flash slot (version, verifies) } }
    else none)

end Sys2Proof.Machine
end

