-- ==== Sys2Proof/Machine/Vector.lean ====
section
/-! DEFINITION. The vector unit (chapter 05): one meaning per instruction over a few shared shapes. -/

namespace Sys2Proof.Machine

/-! ## Shapes over elements -/

/-- An operand read under R69, with the flag of a signalling NaN. -/
def quiet (x : XV) : XV × Flagged := (x, sigFlags x x)

/-- Binary arithmetic (R129): the floating-point and the integer operation of an instruction; `rounds` says that the
floating-point one rounds without a fmt. -/
def vArith (fop : Nat → XV → XV → XV × Flagged) (iop : Int → Int → Int) (rounds : Bool) (m : Mask) (t : VTy)
    (d a b : Reg) (s : State) : Res :=
  runBody s 4 fun s => do
    let e ← venv s
    let act ← activity s m.reg
    let x ← rv s a
    let y ← rv s b
    let w := elemW t
    let n := elemN t
    let xs := lanes w n x
    let ys := lanes w n y
    let f := stdOf t
    let l := activeLanes n act fun i =>
      if t.float then e.result f i (fop e.mode (f.decode e.ftz (nth xs 0 i)) (f.decode e.ftz (nth ys 0 i)))
      else intResult e.sat w (elemSigned t) (iop (elemInt w (elemSigned t) (nth xs 0 i)) (elemInt w (elemSigned t) (nth ys 0 i)))
    let s ← finishLanes s e (t.float && (rounds || e.view.isSome)) m d w n l
    done s

/-- Multiply-add (R130): `flip` subtracts the product. -/
def vMulAdd (flip : Bool) (m : Mask) (t : VTy) (d a b : Reg) (s : State) : Res :=
  runBody s 4 fun s => do
    let e ← venv s
    let act ← activity s m.reg
    let x ← rv s a
    let y ← rv s b
    let z ← rv s d
    let w := elemW t
    let n := elemN t
    let f := stdOf t
    let at' := fun (v : V512) i => f.decode e.ftz (nth (lanes w n v) 0 i)
    let l := activeLanes n act fun i =>
      let u := at' x i
      e.result f i (fmaX e.mode (if flip then u.flip else u) (at' y i) (at' z i))
    let s ← finishLanes s e true m d w n l
    done s

/-- Unary operations (R131). -/
def vUnary (fop : XV → XV × Flagged) (iop : Int → Int) (m : Mask) (t : VTy) (d a : Reg) (s : State) : Res :=
  runBody s 4 fun s => do
    let e ← venv s
    let act ← activity s m.reg
    let x ← rv s a
    let w := elemW t
    let n := elemN t
    let xs := lanes w n x
    let f := stdOf t
    let l := activeLanes n act fun i =>
      if t.float then e.result f i (fop (f.decode e.ftz (nth xs 0 i)))
      else intResult e.sat w (elemSigned t) (iop (elemInt w (elemSigned t) (nth xs 0 i)))
    let s ← finishLanes s e t.float m d w n l
    done s

/-- Elements computed from bit patterns, with the SF of a clamp: index to pattern. -/
def vBits (m : Mask) (t : VTy) (d : Reg) (len : Nat) (s : State) (f : State → Ex (Nat → Nat × Flagged)) : Res :=
  runBody s len fun s => do
    let e ← venv s
    let act ← activity s m.reg
    let g ← f s
    let s ← finishLanes s e false m d (elemW t) (elemN t) (activeLanes (elemN t) act g)
    done s

/-- A function of two patterns per element. -/
def vLogic (f : Nat → Nat → Nat) (m : Mask) (t : VTy) (d a b : Reg) (s : State) : Res :=
  vBits m t d 4 s fun s => do
    let x ← rv s a
    let y ← rv s b
    let xs := lanes (elemW t) (elemN t) x
    let ys := lanes (elemW t) (elemN t) y
    .ok fun i => (f (nth xs 0 i) (nth ys 0 i), noFlags)

/-! ## Arithmetic -/

/-- R129. -/
def execVadd (m : Mask) (t : VTy) (d a b : Reg) (s : State) : Res := vArith addX (· + ·) true m t d a b s

/-- R129. -/
def execVsub (m : Mask) (t : VTy) (d a b : Reg) (s : State) : Res :=
  vArith (fun md x y => addX md x y.flip) (· - ·) true m t d a b s

/-- R129. -/
def execVmul (m : Mask) (t : VTy) (d a b : Reg) (s : State) : Res := vArith (fun _ => mulX) (· * ·) true m t d a b s

/-- R129. -/
def execVmin (m : Mask) (t : VTy) (d a b : Reg) (s : State) : Res := vArith (fun _ => minX) min false m t d a b s

/-- R129. -/
def execVmax (m : Mask) (t : VTy) (d a b : Reg) (s : State) : Res := vArith (fun _ => maxX) max false m t d a b s

/-- R129; F types only. -/
def execVdiv (m : Mask) (t : VTy) (d a b : Reg) (s : State) : Res := vArith (fun _ => divX) (fun x _ => x) true m t d a b s

/-- R130. -/
def execVfma (m : Mask) (t : VTy) (d a b : Reg) (s : State) : Res := vMulAdd false m t d a b s

/-- R130. -/
def execVfms (m : Mask) (t : VTy) (d a b : Reg) (s : State) : Res := vMulAdd true m t d a b s

/-- R131. -/
def execVabs (m : Mask) (t : VTy) (d a : Reg) (s : State) : Res :=
  vUnary (fun x => quiet x.mag) (fun x => (x.natAbs : Int)) m t d a s

/-- R131. -/
def execVneg (m : Mask) (t : VTy) (d a : Reg) (s : State) : Res := vUnary (fun x => quiet x.flip) (fun x => -x) m t d a s

/-- R131; F types only. -/
def execVsqrt (m : Mask) (t : VTy) (d a : Reg) (s : State) : Res := vUnary sqrtX id m t d a s

/-- R131; F types only. -/
def execVrsq (m : Mask) (t : VTy) (d a : Reg) (s : State) : Res := vUnary rsqX id m t d a s

/-- R131; F types only. -/
def execVexp2 (m : Mask) (t : VTy) (d a : Reg) (s : State) : Res := vUnary exp2X id m t d a s

/-- R131; F types only. -/
def execVlog2 (m : Mask) (t : VTy) (d a : Reg) (s : State) : Res := vUnary log2R id m t d a s

/-- R131; F types only. -/
def execVrcp (m : Mask) (t : VTy) (d a : Reg) (s : State) : Res := vUnary (divX (.fin false 1 0)) id m t d a s

/-- R132. -/
def execVand (m : Mask) (t : VTy) (d a b : Reg) (s : State) : Res := vLogic (· &&& ·) m t d a b s

/-- R132. -/
def execVor (m : Mask) (t : VTy) (d a b : Reg) (s : State) : Res := vLogic (· ||| ·) m t d a b s

/-- R132. -/
def execVxor (m : Mask) (t : VTy) (d a b : Reg) (s : State) : Res := vLogic (· ^^^ ·) m t d a b s

/-- R132: va AND NOT vb. -/
def execVandn (m : Mask) (t : VTy) (d a b : Reg) (s : State) : Res := vLogic (fun x y => x ^^^ (x &&& y)) m t d a b s

/-- R133: the amount is the low log2 W bits; sat clamps x × 2^amount. -/
def execVshl (m : Mask) (t : VTy) (d a b : Reg) (s : State) : Res :=
  vBits m t d 4 s fun s => do
    let x ← rv s a
    let y ← rv s b
    let w := elemW t
    let xs := lanes w (elemN t) x
    let ys := lanes w (elemN t) y
    .ok fun i => intResult (pfxOf s).sat w (elemSigned t) (elemInt w (elemSigned t) (nth xs 0 i) * (2 ^ (nth ys 0 i % w) : Nat))

/-- R133. -/
def execVshr (m : Mask) (t : VTy) (d a b : Reg) (s : State) : Res := vLogic (fun x y => x >>> (y % elemW t)) m t d a b s

/-- R133: copies of the element's top bit, whatever the type. -/
def execVsra (m : Mask) (t : VTy) (d a b : Reg) (s : State) : Res :=
  vLogic (fun x y => ((BitVec.ofNat (elemW t) x).sshiftRight (y % elemW t)).toNat) m t d a b s

/-! ## Comparisons, selection and masks -/

/-- A floating-point comparison with its invalid flag (R134). -/
def compareX (c : VCond) (x y : XV) : Bool × Flagged :=
  let any := x.isNan || y.isNan
  match c with
  | .eq => (x.eqv y, sigFlags x y)
  | .ne => (!x.eqv y, sigFlags x y)
  | .lt => (x.lt y, if any then invalidFlag else noFlags)
  | .le => (!any && !y.lt x, if any then invalidFlag else noFlags)

/-- An integer comparison. -/
def compareI (c : VCond) (x y : Int) : Bool :=
  match c with | .eq => x == y | .ne => x != y | .lt => decide (x < y) | .le => decide (x ≤ y)

/-- R134: one mask bit per element, zero above them. -/
def execVcmp (c : VCond) (m : Mask) (t : VTy) (d a b : Reg) (s : State) : Res :=
  runBody s 4 fun s => do
    let e ← venv s
    let act ← activity s m.reg
    let x ← rv s a
    let y ← rv s b
    let w := elemW t
    let n := elemN t
    let xs := lanes w n x
    let ys := lanes w n y
    let f := stdOf t
    let l := activeLanes n act fun i =>
      let r := if t.float then compareX c (f.decode e.ftz (nth xs 0 i)) (f.decode e.ftz (nth ys 0 i))
               else (compareI c (elemInt w (elemSigned t) (nth xs 0 i)) (elemInt w (elemSigned t) (nth ys 0 i)), noFlags)
      (if r.1 then 1 else 0, r.2)
    let s ← finishLanes s { e with te := fcsrEnables s } false m d 1 n l
    done s

/-- R135. -/
def execVsel (vm : BitVec 3) (t : VTy) (d a b : Reg) (s : State) : Res :=
  runBody s 4 fun s => do
    let act ← activity s vm
    let x ← rv s a
    let y ← rv s b
    let xs := lanes (elemW t) (elemN t) x
    let ys := lanes (elemW t) (elemN t) y
    done (wv s d (ofLanes (elemW t) ((upto 0 (elemN t)).map fun i => if act i then nth xs 0 i else nth ys 0 i)))

/-- A mask operation on bits 63:0 (R136). -/
def maskOp (f : Word → Word → Word) (d a b : Reg) (s : State) : Res :=
  runBody s 4 fun s => do
    let x ← rv s a
    let y ← rv s b
    done (wv s d ((f (x.truncate 64) (y.truncate 64)).zeroExtend 512))

/-- R136. -/
def execMand (d a b : Reg) (s : State) : Res := maskOp (· &&& ·) d a b s

/-- R136. -/
def execMor (d a b : Reg) (s : State) : Res := maskOp (· ||| ·) d a b s

/-- R136. -/
def execMxor (d a b : Reg) (s : State) : Res := maskOp (· ^^^ ·) d a b s

/-- R136. -/
def execMnot (d a : Reg) (s : State) : Res := maskOp (fun x _ => ~~~x) d a a s

/-- R136. -/
def execMpop (d a : Reg) (s : State) : Res :=
  runBody s 4 fun s => do
    let x ← rv s a
    done (wg s d (BitVec.ofNat 64 ((upto 0 64).filter fun i => x.toNat.testBit i).length))

/-- R136: 64 when no bit is set. -/
def execMfirst (d a : Reg) (s : State) : Res :=
  runBody s 4 fun s => do
    let x ← rv s a
    done (wg s d (BitVec.ofNat 64 (((upto 0 64).find? fun i => x.toNat.testBit i).getD 64)))

/-! ## Conversion and packing -/

/-- One element converted from type `u` to type `t` (Table 3.7). Log 76 (DEDUCED). -/
def convert (e : VEnv) (t u : VTy) (i x : Nat) : Nat × Flagged :=
  let v := (stdOf u).decode e.ftz x
  let n := elemInt (elemW u) (elemSigned u) x
  let w := elemW t
  if u.float then
    if t.float then e.result (stdOf t) i (quiet v)
    else
      let lo : Int := if elemSigned t then -(2 ^ (w - 1) : Nat) else 0
      let hi : Int := if elemSigned t then (2 ^ (w - 1) : Nat) - 1 else (2 ^ w : Nat) - 1
      let r := toInt (e.rnd i) lo hi v
      (wrapTo w r.1, r.2)
  else if t.float then e.result (stdOf t) i (ofInt n, noFlags)
  else intResult e.sat w (elemSigned t) n

/-- The environment of an integer result: the prefix's rnd, ftz and te have no effect, FCSR's are in force (R47, R124).
Log 76 (DEDUCED). -/
def VEnv.forInt (e : VEnv) (s : State) : VEnv :=
  { e with mode := bits s.arch.fcsr 2 0, ftz := bitOf s.arch.fcsr 3, te := fcsrEnables s }

/-- R137. -/
def execVcvt (m : Mask) (t u : VTy) (d a : Reg) (s : State) : Res :=
  runBody s 4 fun s => do
    let e ← venv s
    let e := if t.float then e else e.forInt s
    let act ← activity s m.reg
    let x ← rv s a
    let n := Nat.min (elemN t) (elemN u)
    let xs := lanes (elemW u) n x
    let l := activeLanes n act fun i => convert e t u i (nth xs 0 i)
    let s ← finishLanes s e (t.float || u.float) m d (elemW t) n l
    done s

/-- The view that a conversion without a pointer names; ADDR if its descriptor is invalid (R81, R138). -/
def namedView (s : State) (k : BitVec 3) : Ex View :=
  let v := viewOf s.arch k.toNat
  if v.valid then .ok v else raise 5 0 (BitVec.ofNat 64 (k.toNat * 2 ^ 60))

/-- R138: codes of view k to type t, without scales. -/
def execVcvtFromView (m : Mask) (t : VTy) (k : BitVec 3) (d a : Reg) (s : State) : Res :=
  runBody s 4 fun s => do
    let e ← venv s
    let v ← namedView s k
    let act ← activity s m.reg
    let x ← rv s a
    let n := elemN t
    let xs := lanes v.width n x
    let l := activeLanes n act fun i => e.result (stdOf t) i (v.decode (nth xs 0 i), noFlags)
    let s ← finishLanes s e true m d (elemW t) n l
    done s

/-- R138: elements of type t to a stream of view-k codes, zero above it. -/
def execVcvtToView (m : Mask) (t : VTy) (k : BitVec 3) (d a : Reg) (s : State) : Res :=
  runBody s 4 fun s => do
    let e ← venv s
    let v ← namedView s k
    let act ← activity s m.reg
    let x ← rv s a
    let n := elemN t
    let xs := lanes (elemW t) n x
    let l := activeLanes n act fun i => v.encode (e.rnd i) false ((stdOf t).decode e.ftz (nth xs 0 i))
    let s ← finishLanes s e true m d v.width n l
    done s

/-- The double-width partner of a packed type (R139). -/
def partner : VTy → VTy
  | .bf16 | .f16 => .f32
  | .i16 => .i32
  | t => t

/-- An element of the partner of an integer type: 16 bits, signed for i8 and unsigned for n8; 32 bits for i16. -/
def wideInt (t : VTy) (x : Nat) : Int := elemInt (2 * elemW t) (elemSigned t) x

/-- R139: two registers narrowed into one. -/
def execVpack (m : Mask) (t : VTy) (d a b : Reg) (s : State) : Res :=
  runBody s 4 fun s => do
    let e ← venv s
    let act ← activity s m.reg
    let x ← rv s a
    let y ← rv s b
    let w := elemW t
    let n := elemN t
    let xs := lanes (2 * w) (n / 2) x ++ lanes (2 * w) (n / 2) y
    let l := activeLanes n act fun i =>
      if t.float then convert e t (partner t) i (nth xs 0 i) else intResult e.sat w (elemSigned t) (wideInt t (nth xs 0 i))
    let s ← finishLanes s e t.float m d w n l
    done s

/-- R139: one half widened exactly; the mask governs the wide elements. -/
def execVunpack (m : Mask) (t : VTy) (d a : Reg) (h : Bool) (s : State) : Res :=
  runBody s 4 fun s => do
    let e ← venv s
    let act ← activity s m.reg
    let x ← rv s a
    let w := elemW t
    let n := elemN t / 2
    let xs := (lanes w (elemN t) x).drop (if h then n else 0)
    let l := activeLanes n act fun i =>
      if t.float then f32.round (e.rnd i) ((stdOf t).decode e.ftz (nth xs 0 i)) (quiet ((stdOf t).decode e.ftz (nth xs 0 i))).2
      else (wrapTo (2 * w) (elemInt w (elemSigned t) (nth xs 0 i)), noFlags)
    let s ← finishLanes s e false m d (2 * w) n l
    done s

/-- Stochastic rounding of f32 elements onto a grid, written as f32 (R140): always under RS. -/
def vStochastic (onto : Rnd → XV → Nat × Flagged) (m : Mask) (d a : Reg) (s : State) : Ex Fx := do
  let e ← venv s
  let e := { e with mode := 6 }
  let act ← activity s m.reg
  let x ← rv s a
  let xs := lanes 32 16 x
  let l := activeLanes 16 act fun i => onto (e.rnd i) (f32.decode e.ftz (nth xs 0 i))
  let s ← finishLanes s e true m d 32 16 l
  done s

/-- R140: onto the grid of bf16 or f16, whose smallest normal decides underflow and flushing.
Log 102 (DESIGN CHOICE). -/
def execVsrnd (m : Mask) (t : VTy) (d a : Reg) (s : State) : Res :=
  runBody s 4 fun s => vStochastic (fun r x =>
    let c := (stdOf t).round r x (quiet x).2
    f32.round r ((stdOf t).decode false c.1) c.2) m d a s

/-- R140: onto the finite grid of view k. -/
def execVsrndView (m : Mask) (k : BitVec 3) (d a : Reg) (s : State) : Res :=
  runBody s 4 fun s => do
    let v ← namedView s k
    vStochastic (fun r x => finish f32 r (some v) x noFlags) m d a s

/-! ## Moving and creating elements -/

/-- R141. -/
def execVperm (m : Mask) (t : VTy) (d a b : Reg) (s : State) : Res :=
  vBits m t d 4 s fun s => do
    let x ← rv s a
    let y ← rv s b
    let xs := lanes (elemW t) (elemN t) x
    let ys := lanes (elemW t) (elemN t) y
    .ok fun i => (nth xs 0 (nth ys 0 i % elemN t), noFlags)

/-- R141. -/
def execVslide (m : Mask) (t : VTy) (d a b : Reg) (s : State) : Res :=
  vBits m t d 4 s fun s => do
    let x ← rv s a
    let y ← rg s b
    let xs := lanes (elemW t) (elemN t) x
    .ok fun i =>
      let j : Int := i + y.toInt
      (if 0 ≤ j ∧ j < elemN t then nth xs 0 j.toNat else 0, noFlags)

/-- R142. -/
def execVbcast (m : Mask) (t : VTy) (d a : Reg) (s : State) : Res :=
  vBits m t d 4 s fun s => do
    let x ← rg s a
    .ok fun _ => (x.toNat % 2 ^ elemW t, noFlags)

/-- R142. -/
def execVextr (t : VTy) (d a b : Reg) (s : State) : Res :=
  runBody s 4 fun s => do
    let x ← rv s a
    let y ← rg s b
    let v := nth (lanes (elemW t) (elemN t) x) 0 (y.toNat % elemN t)
    done (wg s d (if elemSigned t then ofI (elemInt (elemW t) true v) else BitVec.ofNat 64 v))

/-- R142: vd is a source. -/
def execVins (t : VTy) (d a b : Reg) (s : State) : Res :=
  runBody s 4 fun s => do
    let o ← rv s d
    let x ← rg s a
    let y ← rg s b
    done (wv s d (ofLanes (elemW t) (setNth (lanes (elemW t) (elemN t) o) (y.toNat % elemN t) (x.toNat % 2 ^ elemW t))))

/-- R143. -/
def execVidx (m : Mask) (t : VTy) (d a b : Reg) (s : State) : Res :=
  vBits m t d 4 s fun s => do
    let x ← rg s a
    let y ← rg s b
    .ok fun i => ((x.toNat + i * y.toNat) % 2 ^ elemW t, noFlags)

/-- R144. -/
def execVmov (m : Mask) (t : VTy) (d a : Reg) (s : State) : Res :=
  vBits m t d 4 s fun s => do
    let x ← rv s a
    let xs := lanes (elemW t) (elemN t) x
    .ok fun i => (nth xs 0 i, noFlags)

/-- R144: the 32-bit pattern repeated across the register. -/
def execVli (m : Mask) (t : VTy) (d : Reg) (imm : BitVec 32) (s : State) : Res :=
  vBits m t d 8 s fun _ => .ok fun i => (imm.toNat >>> (i * elemW t % 32) % 2 ^ elemW t, noFlags)

/-! ## Reductions and ranking -/

/-- The kinds of reduction. -/
inductive RedKind where
  | sum | max | min
deriving DecidableEq, Repr

/-- The identity with which a non-participating element enters (R90, R145). -/
def redIdentity (k : RedKind) (t : VTy) : Nat :=
  let w := elemW t
  match k with
  | .sum => if t.float then (stdOf t).signBit true else 0
  | .max => if t.float then (stdOf t).infCode true else if elemSigned t then 2 ^ (w - 1) else 0
  | .min => if t.float then (stdOf t).infCode false else if elemSigned t then 2 ^ (w - 1) - 1 else 2 ^ w - 1

/-- One node of the tree: how a node's result is written, node number and its two operands. Log 120 (DESIGN CHOICE). -/
def redNode (k : RedKind) (t : VTy) (e : VEnv) (res : Nat → XV × Flagged → Nat × Flagged) (node x y : Nat) :
    Nat × Flagged :=
  let f := stdOf t
  let w := elemW t
  if t.float then
    let u := f.decode e.ftz x
    let v := f.decode e.ftz y
    res node (match k with | .sum => addX e.mode u v | .max => maxX u v | .min => minX u v)
  else
    let u := elemInt w (elemSigned t) x
    let v := elemInt w (elemSigned t) y
    match k with
    | .sum => intResult e.sat w (elemSigned t) (u + v)
    | .max => (wrapTo w (max u v), noFlags)
    | .min => (wrapTo w (min u v), noFlags)

/-- The levels of the tree of R90: nodes done so far, the values of the current level, and the nodes' results. -/
def redLevels (k : RedKind) (t : VTy) (e : VEnv) (res : Nat → XV × Flagged → Nat × Flagged) :
    Nat → Nat → List Nat → List (Option (Nat × Flagged)) → List Nat × List (Option (Nat × Flagged))
  | 0, _, xs, out => (xs, out)
  | fuel + 1, node, xs, out =>
    let h := xs.length / 2
    let r := (upto 0 h).map fun i => redNode k t e res (node + i) (nth xs 0 i) (nth xs 0 (i + h))
    redLevels k t e res fuel (node + h) (r.map Prod.fst) (out ++ r.map some)

/-- A reduction (R145); the lowest trapping node is reported. Without a participant the result is the identity.
Log 120 (DESIGN CHOICE). -/
def vReduce (k : RedKind) (vm : BitVec 3) (t : VTy) (d a : Reg) (s : State) : Res :=
  runBody s 4 fun s => do
    let e ← venv s
    let act ← activity s vm
    let x ← rv s a
    let n := elemN t
    let xs := (lanes (elemW t) n x).zipIdx.map fun p => if act p.2 then p.1 else redIdentity k t
    if (upto 0 n).any act then
      let r := redLevels k t e (e.result (stdOf t)) (if n = 16 then 4 else 5) 0 xs []
      let s ← settle s e t.float r.2
      done (wv s d (ofLanes (elemW t) [r.1.headD 0]))
    else
      let s ← settle s e t.float []
      done (wv s d (ofLanes (elemW t) [redIdentity k t]))

/-- R145. -/
def execVredsum (vm : BitVec 3) (t : VTy) (d a : Reg) (s : State) : Res := vReduce .sum vm t d a s

/-- R145. -/
def execVredmax (vm : BitVec 3) (t : VTy) (d a : Reg) (s : State) : Res := vReduce .max vm t d a s

/-- R145. -/
def execVredmin (vm : BitVec 3) (t : VTy) (d a : Reg) (s : State) : Res := vReduce .min vm t d a s

/-- The value by which an element ranks (R91): a NaN above +∞. -/
def rankValue (ftz : Bool) (t : VTy) (x : Nat) : XV :=
  if t.float then (stdOf t).decode ftz x else ofInt (elemInt (elemW t) (elemSigned t) x)

/-- The tie key of a global index (R91). -/
def tieKey (seed : W32) (i : Nat) : Nat := (mix32 (seed ^^^ (BitVec.ofNat 32 i * 0x9E3779B1))).toNat

/-- Does element x of global index i rank before y of j: by value from the highest, ties by key? -/
def ranksBefore (seed : W32) (x y : XV) (i j : Nat) : Bool :=
  if x.isNan || y.isNan then (x.isNan && !y.isNan) || (x.isNan && y.isNan && decide (tieKey seed i < tieKey seed j))
  else y.lt x || (!x.lt y && decide (tieKey seed i < tieKey seed j))

/-- Inserts into a list sorted by `before`. -/
def insertBy {α : Type} (before : α → α → Bool) (x : α) : List α → List α
  | [] => [x]
  | y :: t => if before x y then x :: y :: t else y :: insertBy before x t

/-- A list sorted by `before`. -/
def sortBy {α : Type} (before : α → α → Bool) : List α → List α
  | [] => []
  | x :: t => insertBy before x (sortBy before t)

/-- The participating lanes from the highest rank (R146, R147). -/
def rankedLanes (s : State) (act : Nat → Bool) (t : VTy) (x : V512) (base : Nat) : List Nat :=
  let xs := lanes (elemW t) (elemN t) x
  let val := fun i => rankValue (flushOf s) t (nth xs 0 i)
  sortBy (fun i j => ranksBefore s.arch.seed (val i) (val j) (i + base) (j + base)) ((upto 0 (elemN t)).filter act)

/-- R146. -/
def execVargmax (vm : BitVec 3) (t : VTy) (d a b : Reg) (s : State) : Res :=
  runBody s 4 fun s => do
    let act ← activity s vm
    let x ← rv s a
    let y ← rg s b
    match rankedLanes s act t x (bits y 31 0) with
    | i :: _ => done (wg s d (BitVec.ofNat 64 ((i + bits y 31 0) % 2 ^ 32)))
    | [] => done (wg s d 0xFFFFFFFFFFFFFFFF)

/-- R147. -/
def execVtopk (vm : BitVec 3) (t : VTy) (d a b : Reg) (s : State) : Res :=
  runBody s 4 fun s => do
    let act ← activity s vm
    let x ← rv s a
    let y ← rg s b
    let r := (rankedLanes s act t x (bits y 31 0)).take (Nat.min 16 (bits y 39 32))
    let xs := lanes (elemW t) (elemN t) x
    let s := wv s d (ofLanes (elemW t) (r.map fun i => nth xs 0 i))
    let ix := (r.map fun i => (i + bits y 31 0) % 2 ^ 32) ++ List.replicate (16 - r.length) 0xFFFFFFFF
    done (wv s (d + 1) (ofLanes 32 ix))

/-- R148. -/
def execVbucket (vm : BitVec 3) (t : VTy) (d a : Reg) (s : State) : Res :=
  runBody s 4 fun s => do
    let act ← activity s vm
    let x ← rv s a
    let n := elemN t
    let xs := lanes (elemW t) n x
    let part := (upto 0 n).filter act
    let order := sortBy (fun i j => decide (nth xs 0 i < nth xs 0 j) || (nth xs 0 i == nth xs 0 j && decide (i < j))) part
    let s := wv s d (ofLanes (elemW t) (order ++ (upto 0 n).filter fun i => !act i))
    done (wv s (d + 1) (ofLanes (elemW t) ((upto 0 n).map fun c => (part.filter fun i => nth xs 0 i == c).length)))

/-! ## Scales and quantisation -/

/-- The start of `vscale` (R149): the view and its descriptor are checked always, the address only where a lane is
active (R152). Log 104 (DESIGN CHOICE). -/
def scaleStart (s : State) (ptr : Word) (active : List Nat) : Ex (View × Int) :=
  let v := viewOf s.arch (bits ptr 62 60)
  match active with
  | i :: _ => viewStart s ptr i
  | [] => if v.valid then .ok (v, 0) else raise 5 0 ptr

/-- R149. -/
def execVscale (m : Mask) (t : VTy) (d a b : Reg) (s : State) : Res :=
  runBody s 4 fun s => do
    let e ← venv s
    let act ← activity s m.reg
    let x ← rv s a
    let ptr ← rg s b
    let (v, n0) ← scaleStart s ptr ((upto 0 (elemN t)).filter act)
    let n := elemN t
    let f := stdOf t
    let xs := lanes (elemW t) n x
    let el := activeElems n act fun i => n0 + i
    checkAll el fun p => checkAll (v.scales p.2.toNat) fun k => do
      windowCheck s (withView ptr k) 1
      pageCheck s (withView ptr k) .read
    let (scs, t') ← el.foldlM (fun (q : List (Nat × Option XV) × Touched) p => do
      let (sc, t') ← readScale q.2 v ptr p.2.toNat
      .ok (q.1 ++ [(p.1, sc)], t')) ([], ((s, []) : Touched))
    let l := activeLanes n act fun i =>
      e.result f i (underScale ((pick scs i).getD none) (f.decode e.ftz (nth xs 0 i)))
    let s ← finishLanes t'.1 e true m d (elemW t) n l
    done s

/-- The codes, flags and scale bytes of a quantisation of `xs` in blocks (R92, R150, R181); without scales each
element is encoded alone. -/
def quantBlocks (v : View) (r : Nat → Rnd) (xs : List XV) : List (Nat × Flagged) × List Byte :=
  if v.block = 0 then (xs.zipIdx.map fun p => v.encode (r p.2) true p.1, [])
  else
    let q := (upto 0 (xs.length / v.block)).map fun j => v.quantise r (j * v.block) ((xs.drop (j * v.block)).take v.block)
    (q.flatMap Prod.snd, q.map Prod.fst)

/-- The write checks of a quantisation's element and of its scale byte. -/
def quantCheck (s : State) (v : View) (ptr : Word) (n : Nat) : Ex Unit := do
  let bs := v.bytesOf n
  checkAll (bs ++ v.scales n) fun a => windowCheck s (withView ptr a) 1
  checkAll bs fun a => do
    if v.inPart n a then pageCheck s (withView ptr a) .read else .ok ()
    pageCheck s (withView ptr a) .write
  checkAll (v.scales n) fun a => pageCheck s (withView ptr a) .write

/-- The bytes of codes for consecutive elements from `n0`, then of scale bytes, which overwrite what they cover (R150);
every byte to merge into is read. -/
def mergeQuant (t : Touched) (v : View) (ptr : Word) (n0 : Nat) (codes : List Nat) (scs : List Byte) :
    Ex (FMap Byte × Touched) := do
  let scaleAt := scs.zipIdx.map fun p => v.scaleAt (n0 + p.2 * v.block)
  let whole := fun b => v.whole (upto n0 codes.length) b || scaleAt.any fun a => a % 2 ^ 60 == b
  let (m, t) ← codes.zipIdx.foldlM (fun (q : FMap Byte × Touched) p => mergeElem q.2 q.1 v ptr whole (n0 + p.2) p.1) ([], t)
  keep t.1 (partCheckIn t.1 ptr whole [scaleAt])
  .ok ((scaleAt.zip scs).foldl (fun m p => collect m p.1 [p.2]) m, t)

/-- R150: vd is the data. What it merges into is read before the flags are settled. Log 78 (DESIGN CHOICE). -/
def execVquant (t : VTy) (d a : Reg) (s : State) : Res :=
  runBody s 4 fun s => do
    let e ← venv s
    let ptr ← rg s a
    let x ← rv s d
    if bits ptr 62 60 = 0 then raise 5 0 ptr else .ok ()
    let (v, n0) ← viewStart s ptr 0
    let n := elemN t
    if v.block ≠ 0 ∧ (n0.toNat % v.block ≠ 0 ∨ n % v.block ≠ 0) then raise 5 0 ptr else .ok ()
    checkAll (upto 0 n) fun i => quantCheck s v ptr (n0.toNat + i)
    let q := quantBlocks v e.rnd ((lanes (elemW t) n x).map ((stdOf t).decode e.ftz))
    let (m, t) ← mergeQuant (s, []) v ptr n0.toNat (q.1.map Prod.fst) q.2
    let s ← settle t.1 e true (q.1.map some)
    let t ← writeBytes (s, t.2) ptr m
    done t.1

/-! ## Memory access -/

/-- The checks of R152 for an access of `n` bytes at view 0; an element address whose view bits an offset has made nonzero
raises ADDR too. Log 106 (DESIGN CHOICE). -/
def flatCheck (s : State) (ea : Word) (n : Nat) (w : Want) : Ex Unit := do
  if bits ea 63 60 ≠ 0 then raise 5 0 ea else .ok ()
  windowCheck s ea n
  if ea.toNat % n ≠ 0 then raise 4 0 ea else .ok ()
  pageCheck s ea w

/-- The same for one element of `n` bytes, whose bytes are checked on their own. Log 106 (DESIGN CHOICE). -/
def elemCheck (s : State) (ea : Word) (n : Nat) (w : Want) : Ex Unit := do
  if bits ea 63 60 ≠ 0 then raise 5 0 ea else .ok ()
  checkAll (upto 0 n) fun i => windowCheck s (ea + BitVec.ofNat 64 i) 1
  if ea.toNat % n ≠ 0 then raise 4 0 ea else .ok ()
  pageCheck s ea w

/-- The effective address of formats VM (Table 2.8): ga + 64 × imm. -/
def vmAddress (s : State) (a : Reg) (imm : BitVec 6) : Ex Word := do
  let x ← rg s a
  .ok (x + sgnExt imm * 64)
where sgnExt (i : BitVec 6) : Word := i.signExtend 64

/-- R153. -/
def execVld (look : BitVec 4) (m : Mask) (d a : Reg) (imm : BitVec 6) (s : State) : Res :=
  runBody s 4 fun s => do
    let e ← venv s
    let ea ← vmAddress s a imm
    let act ← activity s m.reg
    let old ← oldOf s m d
    if bits ea 62 60 = 0 then
      let idx := (upto 0 64).filter act
      if idx.isEmpty then doneLate s (32 + d.toNat) (ofLanes 8 (merge m.zero (lanes 8 64 old) (List.replicate 64 none))) look
      else
        flatCheck s ea 64 .read
        let (out, t) ← idx.foldlM (fun (q : List (Nat × Nat) × Touched) i => do
          let (b, t) ← readSpan q.2 (ea + BitVec.ofNat 64 i) 1
          .ok (q.1 ++ [(i, leNat b)], t)) ([], ((s, []) : Touched))
        doneLate t.1 (32 + d.toNat) (ofLanes 8 (merge m.zero (lanes 8 64 old) ((upto 0 64).map (pick out)))) look
    else if ((upto 0 16).filter act).isEmpty then
      doneLate (advanceSeed s (e.mode == 6)) (32 + d.toNat) (ofLanes 32 (merge m.zero (lanes 32 16 old) (List.replicate 16 none))) look
    else
      let (v, n0) ← viewStart s ea (firstOf (activeElems 16 act fun i => i))
      let (out, s) ← loadView s (e.result f32) v ea (activeElems 16 act fun i => n0 + i)
      let l := (upto 0 16).map (pick out)
      let s ← settle s e true l
      doneLate s (32 + d.toNat) (ofLanes 32 (merge m.zero (lanes 32 16 old) (l.map fun x => x.map Prod.fst))) look

/-- R153: one datum broadcast. -/
def execVldb (look : BitVec 4) (d a : Reg) (imm : BitVec 6) (s : State) : Res :=
  runBody s 4 fun s => do
    let e ← venv s
    let ea ← vmAddress s a imm
    if bits ea 62 60 = 0 then
      flatCheck s ea 8 .read
      let (bs, s) ← loadAt s ea 8 true true
      doneLate s (32 + d.toNat) (ofLanes 64 (List.replicate 8 (leNat bs))) look
    else
      let (v, n0) ← viewStart s ea 0
      let (out, s) ← loadView s (e.result f32) v ea [(0, n0)]
      let s ← settle s e true (out.map fun x => some x.2)
      doneLate s (32 + d.toNat) (ofLanes 32 (List.replicate 16 ((out.map fun x => x.2.1).headD 0))) look

/-- R154. -/
def execVst (vm : BitVec 3) (d a : Reg) (imm : BitVec 6) (s : State) : Res :=
  runBody s 4 fun s => do
    let e ← venv s
    let ea ← vmAddress s a imm
    let act ← activity s vm
    let x ← rv s d
    if bits ea 62 60 = 0 then
      let idx := (upto 0 64).filter act
      if idx.isEmpty then done s
      else
        flatCheck s ea 64 .write
        let bs := lanes 8 64 x
        partCheck s ea (idx.map fun i => [bits ea 59 0 + i])
        let m := idx.foldl (fun m i => collect m (bits ea 59 0 + i) [BitVec.ofNat 8 (nth bs 0 i)]) ([] : FMap Byte)
        let t ← writeBytes (s, []) ea m
        done t.1
    else if ((upto 0 16).filter act).isEmpty then done (advanceSeed s (e.mode == 6))
    else
      let (v, n0) ← viewStart s ea (firstOf (activeElems 16 act fun i => i))
      let xs := lanes 32 16 x
      let s ← storeView s e.rnd 16 (fun s l => settle s e true l) v ea (activeElems 16 act fun i => n0 + i) fun i => f32.decode e.ftz (nth xs 0 i)
      done s

/-- A load of elements at stated places (R155, R156): `off i` is the offset of element i in elements. Through a view
the type must be F: else ADDR with the base pointer. Log 106 (DESIGN CHOICE). -/
def vLoadAt (m : Mask) (t : VTy) (d a : Reg) (s : State) (off : State → Ex (Nat → Int)) : Res :=
  runBody s 4 fun s => do
    let e ← venv s
    let ptr ← rg s a
    let o ← off s
    let act ← activity s m.reg
    let old ← oldOf s m d
    let w := elemW t
    let n := elemN t
    let el := activeElems n act o
    if bits ptr 62 60 = 0 then
      let addr := fun (i : Int) => ptr + ofI (i * (w / 8 : Nat))
      checkAll el fun p => elemCheck s (addr p.2) (w / 8) .read
      let (out, t') ← el.foldlM (fun (q : List (Nat × Nat) × Touched) p => do
        let (b, t') ← readSpan q.2 (addr p.2) (w / 8)
        .ok (q.1 ++ [(p.1, leNat b)], t')) ([], ((s, []) : Touched))
      done (wv t'.1 d (ofLanes w (merge m.zero (lanes w n old) ((upto 0 n).map (pick out)))))
    else if el.isEmpty then
      done (wv (advanceSeed s (t.float && e.mode == 6)) d (ofLanes w (merge m.zero (lanes w n old) (List.replicate n none))))
    else if !t.float then raise 5 0 ptr
    else
      let (v, n0) ← viewStart s ptr (firstOf el)
      let (out, s) ← loadView s (e.result (stdOf t)) v ptr (el.map fun p => (p.1, wrapNum (n0 + p.2)))
      let l := (upto 0 n).map (pick out)
      let s ← settle s e true l
      done (wv s d (ofLanes w (merge m.zero (lanes w n old) (l.map fun x => x.map Prod.fst))))

/-- A store of elements at stated places, in rising order of elements (R155, R156). -/
def vStoreAt (m : Mask) (t : VTy) (d a : Reg) (s : State) (off : State → Ex (Nat → Int)) : Res :=
  runBody s 4 fun s => do
    let e ← venv s
    let ptr ← rg s a
    let o ← off s
    let act ← activity s m.reg
    let x ← rv s d
    let w := elemW t
    let n := elemN t
    let xs := lanes w n x
    let el := activeElems n act o
    if bits ptr 62 60 = 0 then
      let addr := fun (i : Int) => ptr + ofI (i * (w / 8 : Nat))
      checkAll el fun p => elemCheck s (addr p.2) (w / 8) .write
      partCheck s 0 (el.map fun p => upto (bits (addr p.2) 59 0) (w / 8))
      let b := el.foldl (fun b p => collect b (bits (addr p.2) 59 0) (leBytes (w / 8) (nth xs 0 p.1))) ([] : FMap Byte)
      let t' ← writeBytes (s, []) 0 b
      done t'.1
    else if el.isEmpty then done (advanceSeed s (t.float && e.mode == 6))
    else if !t.float then raise 5 0 ptr
    else
      let (v, n0) ← viewStart s ptr (firstOf el)
      let s ← storeView s e.rnd n (fun s l => settle s e true l) v ptr (el.map fun p => (p.1, wrapNum (n0 + p.2))) fun i => (stdOf t).decode e.ftz (nth xs 0 i)
      done s

/-- The offsets of a strided access: i × gb. -/
def strided (b : Reg) (s : State) : Ex (Nat → Int) := do
  let y ← rg s b
  .ok fun i => (ofI (i * y.toInt)).toInt

/-- The offsets of a gather or scatter: the i32 lanes of vb. -/
def indexed (b : Reg) (s : State) : Ex (Nat → Int) := do
  let y ← rv s b
  .ok fun i => elemInt 32 true (nth (lanes 32 16 y) 0 i)

/-- R155. -/
def execVlds (m : Mask) (t : VTy) (d a b : Reg) (s : State) : Res := vLoadAt m t d a s (strided b)

/-- R155. -/
def execVsts (m : Mask) (t : VTy) (d a b : Reg) (s : State) : Res := vStoreAt m t d a s (strided b)

/-- R156. -/
def execVgather (m : Mask) (t : VTy) (d a b : Reg) (s : State) : Res := vLoadAt m t d a s (indexed b)

/-- R156. -/
def execVscatter (m : Mask) (t : VTy) (d a b : Reg) (s : State) : Res := vStoreAt m t d a s (indexed b)

end Sys2Proof.Machine
end

