-- ==== Sys2Proof/Machine/Tile.lean ====
section
/-! DEFINITION. The tile unit and its sequencer (chapter 06): accumulators in the pool, tile operands in memory, and
one meaning per instruction. -/

namespace Sys2Proof.Machine

/-! ## Shared rules (R159, R161 to R167) -/

/-- The trap of an accumulator at or above NACC (R160), before the one of a bunch (R167). -/
def tileCheck (s : State) (i : Instr) (accs : List (BitVec 4)) : Ex Unit := do
  if accs.all fun a => decide (a.toNat < (s.core s.cur.core).nacc) then .ok ()
  else raise 1 3 (((encode i).headD 0).zeroExtend 64)
  needAlone s 0

/-- RMASK and CMASK. -/
def rowOn (s : State) (i : Nat) : Bool := (s.arch.re 0x003).toNat.testBit i
def colOn (s : State) (j : Nat) : Bool := (s.arch.re 0x003).toNat.testBit (16 + j)

/-- The enabled columns. -/
def tileCols (s : State) : List Nat := (upto 0 16).filter (colOn s)

/-- The enabled rows; none when no element is enabled. -/
def tileRows (s : State) : List Nat := if (tileCols s).isEmpty then [] else (upto 0 16).filter (rowOn s)

/-- The enabled elements in (i, j) order. -/
def tileElems (s : State) : List (Nat × Nat) := (tileRows s).flatMap fun i => (tileCols s).map fun j => (i, j)

/-- The index of an element in traps: 16 × i + j (R74). -/
def tileIndex (p : Nat × Nat) : Nat := 16 * p.1 + p.2

/-- The rounding of element (i, j) in sequencer step `k` (R78, R165). -/
def VEnv.tile (e : VEnv) (s : State) (k : Nat) (p : Nat × Nat) : Rnd :=
  let lo := fun n => (s.arch.re n).truncate 32
  { mode := e.mode, ftz := e.ftz, sat := e.sat,
    r16 := if e.mode = 6 then
        tileRandom e.seed (lo 0x006) (lo 0x007) (BitVec.ofNat 32 ((s.arch.re 0x008).toNat / 16 + k)) p.1 p.2
      else 0 }

/-- Flags of tile elements, by index: the lowest enabled FPX by the priority within its element, or the flags set; SEED
stays (R74, R165). Log 78 (DESIGN CHOICE). -/
def settleTile (s : State) (te : BitVec 4) (l : List (Nat × (Nat × Flagged))) : Ex State :=
  match l.findSome? fun p => (enabledTrap te p.2.2).map fun sub => (sub, p.1) with
  | some (sub, i) => keep s (raise 8 sub (BitVec.ofNat 64 i))
  | none => .ok (stick s (l.foldl (fun f p => f.or p.2.2) noFlags))

/-- What TRAPVAL names for a poisoned word of an accumulator (R339). -/
def accTrapVal (acc : BitVec 4) : Word := BitVec.ofNat 64 (0x40 + acc.toNat)

/-- What an open lookahead window shows of element `e` of an accumulator, code and poison, if one covers it (R45, R172).
Log 81 (DEDUCED). -/
def accSeen (s : State) (acc : BitVec 4) (e : Nat) : Option (Nat × Bool) :=
  match s.chunk.accs.find? fun v => v.acc == acc.toNat with
  | some v => match v.seen.find? fun x => x.1 == e with
    | some x => some x.2
    | none => none
  | none => none

/-- Reads elements of an accumulator as codes (R164): those held before the write of a window that is open (R45). -/
def accRead (s : State) (acc : BitVec 4) (l : List (Nat × Nat)) : Ex (List ((Nat × Nat) × Nat) × State) :=
  l.foldlM (fun (q : List ((Nat × Nat) × Nat) × State) p => do
    let key := accKey acc.toNat (64 * p.1 + 4 * p.2)
    match accSeen q.2 acc (tileIndex p) with
    | some (code, bad) =>
      let s ← touchPool q.2 (key / 16) false
      if bad then keep s (raise 0x12 0 (accTrapVal acc)) else .ok (q.1 ++ [(p, code)], s)
    | none =>
      let (b, s) ← loadPool q.2 (accTrapVal acc) key 4
      .ok (q.1 ++ [(p, leNat b)], s)) ([], s)

/-- Writes elements of an accumulator (R161, R164). -/
def accStore (s : State) (acc : BitVec 4) (l : List ((Nat × Nat) × Nat)) : Ex State :=
  l.foldlM (fun s p => storePool s (accTrapVal acc) (accKey acc.toNat (64 * p.1.1 + 4 * p.1.2)) (leBytes 4 p.2)) s

/-- Elements of an accumulator as they stand, each with its code and whether it is poisoned. -/
def accStands (s : State) (acc : Nat) (els : List Nat) : List (Nat × Nat × Bool) :=
  let co := s.core s.cur.core
  els.map fun e => (e, leNat (Mem.bytes co.pool (accKey acc (4 * e)) 4), fget co.poolBad false (accKey acc (4 * e) / 4))

/-- The windows of an accumulator after a write of the elements `l` with look value `look`, `old` being how they stood
before; `more` says that the instruction has steps left (R169, R172). A write without a window shows at once, and makes
older ones of its elements void (R45). -/
def AccView.note (v : AccView) (old : List (Nat × Nat × Bool)) (l : List (Nat × Nat)) (look : Nat) (more : Bool) : AccView :=
  let w : AccView := { v with seen := v.seen ++ old.filter fun x => !(v.seen.any fun y => y.1 == x.1) }
  match v.pend.getLast? with
  | some p =>
    if p.steps then
      { w with pend := v.pend.dropLast ++ [⟨p.els.filter (fun (e : Nat × Nat) => !(l.any fun x => x.1 == e.1)) ++ l, look, more⟩] }
    else if look = 0 then v.show l else { w with pend := v.pend ++ [⟨l, look, more⟩] }
  | none => if look = 0 then v.show l else { w with pend := [⟨l, look, more⟩] }

/-- Writes elements of an accumulator with a lookahead window (R45, R161, R164). -/
def accWrite (s : State) (acc : BitVec 4) (l : List ((Nat × Nat) × Nat)) (look : BitVec 4) (more : Bool := false) :
    Ex State := do
  if l.isEmpty || (look == 0 && s.chunk.accs.isEmpty) then accStore s acc l
  else
    let s ← l.foldlM (fun s p => touchPool s (accKey acc.toNat (64 * p.1.1 + 4 * p.1.2) / 16) true) s
    let old := accStands s acc.toNat (l.map fun p => tileIndex p.1)
    let t ← accStore s acc l
    let v := (t.chunk.accs.find? fun v => v.acc == acc.toNat).getD ⟨acc.toNat, [], []⟩
    let rest := t.chunk.accs.filter fun v => v.acc != acc.toNat
    .ok (t.setCh { t.chunk with accs := v.note old (l.map fun p => (tileIndex p.1, p.2)) look.toNat more :: rest })

/-- The code of an element in a list. -/
def codeAt (l : List ((Nat × Nat) × Nat)) (p : Nat × Nat) : Nat := ((l.find? fun q => q.1 == p).map Prod.snd).getD 0

/-- The address of element `e` of `b` bytes at view 0. Log 106 (DESIGN CHOICE). -/
def tileAddr (ptr : Word) (b : Nat) (e : Int) : Word := ptr + ofI (wrapNum e * b)

/-- A tile operand's view and first element, none at view 0, for an access whose first element used is the one `e` after the
pointer's (R162, R163 item 1). -/
def tileView (s : State) (ptr : Word) (b : Nat) (e : Int) : Ex (Option (View × Int)) :=
  if bits ptr 62 60 = 0 then
    (if bitOf ptr 63 then raise 5 0 (withView ptr (bits (tileAddr ptr b e) 59 0)) else .ok none)
  else do
    let p ← viewStart s ptr e
    .ok (some p)

/-- The checks of R163 for one element: the window of each of its bytes, the pointer's alignment, translation. An element
address that an offset takes past bit 59 raises ADDR. Log 106 (DESIGN CHOICE). -/
def tileElemCheck (s : State) (ptr : Word) (b : Nat) (v : Option (View × Int)) (w : Want) (e : Int) : Ex Unit :=
  match v with
  | some (v, n0) => viewCheck s v ptr (wrapNum (n0 + e)) (w == .write)
  | none => do
    let a := tileAddr ptr b e
    if bits a 63 60 ≠ 0 then raise 5 0 (withView ptr (bits a 59 0)) else .ok ()
    checkAll (upto (bits a 59 0) b) fun x => windowCheck s (withView ptr x) 1
    if ptr.toNat % b ≠ 0 then raise 4 0 a else .ok ()
    pageCheck s a w

/-- Reads one operand element: its value at view 0 in format `f`, or decoded (R162, R165). -/
def tileRead (t : Touched) (ptr : Word) (f : Std) (ftz : Bool) (v : Option (View × Int)) (e : Int) :
    Ex ((XV × Flagged) × Touched) :=
  match v with
  | some (v, n0) => readElem t v ptr (wrapNum (n0 + e)).toNat
  | none => do
    let (b, t) ← readSpan t (tileAddr ptr (f.w / 8) e) (f.w / 8)
    .ok ((f.decode ftz (leNat b), noFlags), t)

/-! ## Matrix multiply-accumulate (R168 to R173) -/

/-- The exact sum of an accumulator and a step's products (R89). Log 82 (DEDUCED). -/
def sumX (mode : Nat) (xs : List XV) : XV × Flagged :=
  let opposed := xs.contains (.inf false) && xs.contains (.inf true)
  if xs.any XV.isNan then (.nan false, if opposed || xs.any XV.isSig then invalidFlag else noFlags)
  else match xs with
    | [] => (.fin false 0 0, noFlags)
    | x :: t => t.foldl (fun a y => let r := addX mode a.1 y; (r.1, a.2.or r.2)) (x, noFlags)

/-- Operand elements by their coordinates. -/
abbrev Operand := List ((Nat × Nat) × (XV × Flagged))

/-- An operand's element. -/
def Operand.at (o : Operand) (p : Nat × Nat) : XV × Flagged :=
  ((o.find? fun q => q.1 == p).map Prod.snd).getD (.fin false 0 0, noFlags)

/-- Reads an operand of a step: coordinates with their element numbers. -/
def readOperand (t : Touched) (ptr : Word) (f : Std) (ftz : Bool) (l : List ((Nat × Nat) × Int)) : Ex (Operand × Touched) := do
  match l with
  | [] => .ok ([], t)
  | p :: _ => keep t.1 do
    let v ← tileView t.1 ptr (f.w / 8) p.2
    checkAll l fun p => tileElemCheck t.1 ptr (f.w / 8) v .read p.2
    l.foldlM (fun (q : Operand × Touched) p => do
      let (x, t) ← tileRead q.2 ptr f ftz v p.2
      .ok (q.1 ++ [(p.1, x)], t)) ([], t)

/-- Element (i, j) of a step (R89, R168): the products over the step's positions, added to the accumulator exactly and
rounded once; an invalid in decoding A's row or B's column belongs to it. Log 82 (DEDUCED). -/
def tileProduct (e : VEnv) (r : Rnd) (ks : List Nat) (a b : Operand) (acc : Nat) (p : Nat × Nat) : Nat × Flagged :=
  let ps := ks.map fun k => mulX (a.at (p.1, k)).1 (b.at (k, p.2)).1
  let decoded := a.any (fun q => q.1.1 == p.1 && q.2.2.nv) || b.any fun q => q.1.2 == p.2 && q.2.2.nv
  let x := sumX e.mode (f32.decode e.ftz acc :: ps.map Prod.fst)
  let fl := ps.foldl (fun f q => f.or q.2) (x.2.or { noFlags with nv := decoded })
  finish f32 r e.view x.1 fl

/-- Reads the accumulator for a step: as it stands between the steps of one instruction, else as a window shows it. -/
def accOwn (s : State) (acc : BitVec 4) (l : List (Nat × Nat)) : Ex (List ((Nat × Nat) × Nat) × State) :=
  let mine := s.chunk.accs.any fun v => v.acc == acc.toNat && (match v.pend.getLast? with | some p => p.steps | none => false)
  if mine then do
    let (x, t) ← accRead (s.setCh { s.chunk with accs := [] }) acc l
    .ok (x, t.setCh { t.chunk with accs := s.chunk.accs })
  else accRead s acc l

/-- The operand pointers: read once, at the instruction's first step of the chunk (R168). -/
def tilePointers (s : State) (a b : Reg) : Ex (Word × Word) :=
  match s.chunk.tile with
  | some p => .ok p
  | none => do
    let pa ← rg s a
    let pb ← rg s b
    .ok (pa, pb)

/-- One sequencer step of `tmma` or `tmmat` (R168, R169): it stays at its address while steps remain. Its window is over
what the accumulator held before its first step of the chunk (R172); its own later steps go on from their results. -/
def tileMultiply (flip : Bool) (i : Instr) (look acc : BitVec 4) (a b : Reg) (s : State) : Res :=
  runBody s 4 fun s => do
    tileCheck s i [acc]
    let e ← venv s
    let e := { e with mode := if (pfxOf s).rnd = 6 then 6 else 1 }
    let (pa, pb) ← tilePointers s a b
    let total := (bits (s.arch.re 0x000) 12 0 + 15) / 16
    let k := bits (s.arch.re 0x009) 9 0
    if total ≤ k then done ((s.setArch (s.arch.we 0x009 0)).setCh { s.chunk with tile := none })
    else
      let ks := upto (16 * k) (Nat.min (16 * k + 16) (bits (s.arch.re 0x000) 12 0) - 16 * k)
      let astr := (s.arch.re 0x001).toInt
      let bstr := (s.arch.re 0x002).toInt
      let f := if bitOf (s.arch.re 0x005) 0 then f16 else bf16
      let rows := tileRows s
      let cols := if rows.isEmpty then [] else tileCols s
      let ea : List ((Nat × Nat) × Int) :=
        rows.flatMap fun i => ks.map fun k => ((i, k), if flip then k * astr + i else i * astr + k)
      let eb : List ((Nat × Nat) × Int) := ks.flatMap fun k => cols.map fun j => ((k, j), k * bstr + j)
      let (oa, t) ← readOperand (s, []) pa f e.ftz ea
      let (ob, t) ← readOperand t pb f e.ftz eb
      let (old, s) ← accOwn t.1 acc (tileElems s)
      let out := old.map fun q => (q.1, tileProduct e (e.tile s k q.1) ks oa ob q.2 q.1)
      let s ← settleTile s e.te (out.map fun q => (tileIndex q.1, q.2))
      let next := if k + 1 = total then 0 else k + 1
      let s ← accWrite s acc (out.map fun q => (q.1, q.2.1)) look (next != 0)
      let s := s.setCh { s.chunk with tile := if next = 0 then none else some (pa, pb) }
      .ok { fx (s.setArch (s.arch.we 0x009 (BitVec.ofNat 64 next))) with again := next != 0 }

/-- R168. -/
def execTmma (look acc : BitVec 4) (a b : Reg) (s : State) : Res := tileMultiply false (.tmma look acc a b) look acc a b s

/-- R168, A transposed. -/
def execTmmat (look acc : BitVec 4) (a b : Reg) (s : State) : Res := tileMultiply true (.tmmat look acc a b) look acc a b s

/-! ## Accumulator moves and arithmetic (R178 to R184) -/

/-- R178. -/
def execTzero (look acc : BitVec 4) (s : State) : Res :=
  runBody s 4 fun s => do
    tileCheck s (.tzero look acc) [acc]
    let s ← accWrite s acc ((tileElems s).map fun p => (p, 0)) look
    done s

/-- The element number of (i, j) in the memory of `tld`, `tst` and `tquant`. -/
def memElem (s : State) (p : Nat × Nat) : Int := p.1 * (s.arch.re 0x004).toInt + p.2

/-- R179. -/
def execTld (look acc : BitVec 4) (a : Reg) (s : State) : Res :=
  runBody s 4 fun s => do
    tileCheck s (.tld look acc a) [acc]
    let e ← venv s
    let ptr ← rg s a
    let els := tileElems s
    if els.isEmpty then done s
    else
      match (← tileView s ptr 4 (memElem s (els.headD (0, 0)))) with
      | some (v, n0) =>
        let l := els.map fun p => (tileIndex p, wrapNum (n0 + memElem s p))
        let (out, s') ← loadView s (fun i x => f32.round (e.tile s 0 (i / 16, i % 16)) x.1 x.2) v ptr l
        let s ← settleTile s' e.te out
        let s ← accWrite s acc (out.map fun q => ((q.1 / 16, q.1 % 16), q.2.1)) look
        done s
      | none =>
        checkAll els fun p => tileElemCheck s ptr 4 none .read (memElem s p)
        let (out, t) ← els.foldlM (fun (q : List ((Nat × Nat) × Nat) × Touched) p => do
          let (b, t) ← readSpan q.2 (tileAddr ptr 4 (memElem s p)) 4
          .ok (q.1 ++ [(p, leNat b)], t)) ([], ((s, []) : Touched))
        let s ← accWrite t.1 acc out look
        done s

/-- An f32 code stored at view 0: with sat an infinity becomes the largest finite value (R180). -/
def satCode (sat : Bool) (c : Nat) : Nat × Flagged :=
  if sat && c % 2 ^ 31 == 0x7F800000 then (c - 1, { noFlags with sf := true, nx := true }) else (c, noFlags)

/-- R180. -/
def execTst (look acc : BitVec 4) (a : Reg) (s : State) : Res :=
  runBody s 4 fun s => do
    tileCheck s (.tst look acc a) [acc]
    let e ← venv s
    let ptr ← rg s a
    let els := tileElems s
    if els.isEmpty then done s
    else
      match (← tileView s ptr 4 (memElem s (els.headD (0, 0)))) with
      | some (v, n0) =>
        let l := els.map fun p => (tileIndex p, wrapNum (n0 + memElem s p))
        checkAll l fun p => viewCheck s v ptr p.2 true
        let (old, s1) ← accRead s acc els
        let s ← storeView s1 (fun i => e.tile s 0 (i / 16, i % 16)) 256
          (fun s l => settleTile s e.te (l.zipIdx.filterMap fun p => p.1.map fun x => (p.2, x))) v ptr l
          (fun i => f32.decode e.ftz (codeAt old (i / 16, i % 16)))
        done s
      | none =>
        checkAll els fun p => tileElemCheck s ptr 4 none .write (memElem s p)
        let (old, s1) ← accRead s acc els
        let out := old.map fun q => (q.1, satCode e.sat q.2)
        let s2 ← settleTile s1 e.te (out.map fun q => (tileIndex q.1, q.2))
        let m := out.foldl (fun m q => collect m (bits (tileAddr ptr 4 (memElem s q.1)) 59 0) (leBytes 4 q.2.1)) ([] : FMap Byte)
        let t ← writeBytes (s2, []) 0 m
        done t.1

/-- The blocks that `tquant` writes: each with all its elements enabled, or single elements without scales (R181). -/
def quantGroups (s : State) (block : Nat) : List (List (Nat × Nat)) :=
  let per := block / 16
  if block = 0 then (tileElems s).map fun p => [p]
  else ((upto 0 (16 / per)).map fun m => (upto (m * per) per).flatMap fun i => (upto 0 16).map fun j => (i, j)).filter
    fun g => g.all fun p => rowOn s p.1 && colOn s p.2

/-- The bytes of the blocks of `tquant`, in order, each with its elements' codes and then its scale byte (R181); every byte to
merge into is read. `num` gives an element's number. -/
def mergeTile (t : Touched) (v : View) (ptr : Word) (num : Nat × Nat → Int)
    (blocks : List (List (Nat × Nat) × List Nat × List Byte)) : Ex (FMap Byte × Touched) :=
  let els := blocks.flatMap fun q => q.1.map fun p => (num p).toNat
  let first := fun (q : List (Nat × Nat) × List Nat × List Byte) => (num (nth q.1 (0, 0) 0)).toNat
  let scaleAt := blocks.flatMap fun q => q.2.2.map fun _ => v.scaleAt (first q)
  let whole := fun b => v.whole els b || scaleAt.any fun a => a % 2 ^ 60 == b
  blocks.foldlM (fun (w : FMap Byte × Touched) q => do
    let (m, t) ← (q.1.zip q.2.1).foldlM (fun (w : FMap Byte × Touched) x =>
      mergeElem w.2 w.1 v ptr whole (num x.1).toNat x.2) w
    keep t.1 (partCheckIn t.1 ptr whole (q.2.2.map fun _ => [v.scaleAt (first q)]))
    .ok (q.2.2.foldl (fun m b => collect m (v.scaleAt (first q)) [b]) m, t)) ([], t)

/-- The blocks of a `tquant`, encoded: elements, codes with their flags, scale bytes (R92, R181). -/
def quantTile (s : State) (e : VEnv) (v : View) (old : List ((Nat × Nat) × Nat)) :
    List (List (Nat × Nat) × List (Nat × Flagged) × List Byte) :=
  (quantGroups s v.block).map fun g =>
    (g, quantBlocks v (fun k => e.tile s 0 (nth g (0, 0) k)) (g.map fun p => f32.decode e.ftz (codeAt old p)))

/-- Do R181's conditions on view, block and stride fail? `n0` is the number of the first element. -/
def quantRefused (s : State) (v : View) (n0 : Int) : Bool :=
  (v.block == 16 && !((upto 0 16).all fun i => wrapNum (n0 + memElem s (i, 0)) % 16 == 0))
  || (v.block == 32 && (s.arch.re 0x004 != 16 || n0 % 32 != 0))

/-- R181. Its conditions, which no element is part of, come before R163's checks of the elements that it uses.
Log 106 (DESIGN CHOICE), 78 (DESIGN CHOICE). -/
def execTquant (look acc : BitVec 4) (a : Reg) (s : State) : Res :=
  runBody s 4 fun s => do
    tileCheck s (.tquant look acc a) [acc]
    let e ← venv s
    let ptr ← rg s a
    let v := viewOf s.arch (bits ptr 62 60)
    let n0 := v.numberAt (bits ptr 59 0)
    if bits ptr 62 60 = 0 ∨ !v.valid ∨ quantRefused s v n0 then raise 5 0 ptr
    else
      let num := fun p => wrapNum (n0 + memElem s p)
      let used := (quantGroups s v.block).flatMap id
      match used with
      | [] => done s
      | p :: _ => do
        let _ ← viewStart s ptr (memElem s p)
        checkAll used fun p =>
          if num p < 0 then viewCheck s v ptr (num p) true else quantCheck s v ptr (num p).toNat
        let (old, s) ← accRead s acc used
        let blocks := quantTile s e v old
        let (m, t) ← mergeTile (s, []) v ptr num (blocks.map fun q => (q.1, q.2.1.map Prod.fst, q.2.2))
        let s ← settleTile t.1 e.te (blocks.flatMap fun q => (q.1.zip q.2.1).map fun x => (tileIndex x.1, x.2))
        let t ← writeBytes (s, t.2) ptr m
        done t.1

/-- R182, the sum or product of each enabled element with its second operand. -/
def tileArith (e : VEnv) (s : State) (look acc : BitVec 4) (op : XV → XV → XV × Flagged) (old other : List ((Nat × Nat) × Nat)) :
    Ex Fx := do
  let out := old.map fun q =>
    let x := op (f32.decode e.ftz q.2) (f32.decode e.ftz (codeAt other q.1))
    (q.1, finish f32 (e.tile s 0 q.1) e.view x.1 x.2)
  let s ← settleTile s e.te (out.map fun q => (tileIndex q.1, q.2))
  let s ← accWrite s acc (out.map fun q => (q.1, q.2.1)) look
  done s

/-- R182. -/
def execTadd (look acc src : BitVec 4) (s : State) : Res :=
  runBody s 4 fun s => do
    tileCheck s (.tadd look acc src) [acc, src]
    let e ← venv s
    let (x, s) ← accRead s acc (tileElems s)
    let (y, s) ← accRead s src (tileElems s)
    tileArith e s look acc (addX e.mode) x y

/-- R182: column j is scaled by lane j. -/
def execTscale (look acc : BitVec 4) (va : Reg) (s : State) : Res :=
  runBody s 4 fun s => do
    tileCheck s (.tscale look acc va) [acc]
    let e ← venv s
    let v ← rv s va
    let (x, s) ← accRead s acc (tileElems s)
    tileArith e s look acc mulX x (x.map fun q => (q.1, nth (lanes 32 16 v) 0 q.1.2))

/-- R183: one row, whatever the masks. -/
def execTrget (look acc : BitVec 4) (d a : Reg) (s : State) : Res :=
  runBody s 4 fun s => do
    tileCheck s (.trget look acc d a) [acc]
    let x ← rg s a
    let (row, s) ← accRead s acc ((upto 0 16).map fun j => (bits x 3 0, j))
    doneLate s (32 + d.toNat) (ofLanes 32 (row.map Prod.snd)) look

/-- R183. -/
def execTrput (look acc : BitVec 4) (a b : Reg) (s : State) : Res :=
  runBody s 4 fun s => do
    tileCheck s (.trput look acc a b) [acc]
    let x ← rg s a
    let v ← rv s b
    let s ← accWrite s acc (((tileElems s).filter fun p => p.1 == bits x 3 0).map fun p => (p, nth (lanes 32 16 v) 0 p.2)) look
    done s

/-- A reduction of each enabled row across its columns into lane i of vd (R184); a row is one element (R74). -/
def tileReduce (k : RedKind) (i : Instr) (look acc : BitVec 4) (d : Reg) (s : State) : Res :=
  runBody s 4 fun s => do
    tileCheck s i [acc]
    let e ← venv s
    let rows := (upto 0 16).filter (rowOn s)
    let old ← if rows.length = 16 then .ok (s.arch.rv d) else rv s d
    let (x, s) ← accRead s acc (tileElems s)
    let red := rows.map fun i =>
      let xs := (upto 0 16).map fun j => if colOn s j then codeAt x (i, j) else redIdentity k .f32
      (i, redLevels k .f32 e (fun node y => f32.round (e.tile s 0 (i, node)) y.1 y.2) 4 0 xs [])
    let s ← settleTile s e.te (red.map fun r => (r.1, (0, allFlags r.2.2)))
    let v := (lanes 32 16 old).zipIdx.map fun y => match pick red y.2 with | some r => r.1.headD 0 | none => y.1
    doneLate s (32 + d.toNat) (ofLanes 32 v) look

/-- R184. -/
def execTrmax (look acc : BitVec 4) (d : Reg) (s : State) : Res := tileReduce .max (.trmax look acc d) look acc d s

/-- R184. -/
def execTrsum (look acc : BitVec 4) (d : Reg) (s : State) : Res := tileReduce .sum (.trsum look acc d) look acc d s

/-- R185: a tg register takes the writable bits of ga. -/
def execTgeom (look : BitVec 4) (n : BitVec 10) (a : Reg) (s : State) : Res :=
  runBody s 4 fun s => do
    tileCheck s (.tgeom look n a) []
    let x ← rg s a
    done (s.setArch (s.arch.we n.toNat x))

/-! ## Pinning (R174 to R177) -/

/-- The line addresses of the region of R174, in its order. -/
def regionLines (s : State) (ptr : Word) : List Nat :=
  let f := s.arch.re 0x00A
  let str := (BitVec.ofNat 32 (bits f 63 32)).toInt
  let n := bits f 15 0
  if n = 0 then []
  else (upto 0 (bits f 27 16)).flatMap fun r =>
    let lo := (ofI ((bits ptr 59 0 : Nat) + r * str)).toNat
    (upto (lo / 64) ((lo + n - 1) / 64 - lo / 64 + 1)).map fun k => k * 64 % 2 ^ 64

/-- The spots of the region's lines: a line in the window region, without a translation, or that the strand may not
read is left out (R174). -/
def regionSpots (s : State) (ptr : Word) : List (Spot × Word) × State :=
  (regionLines s ptr).foldl (fun (q : List (Spot × Word) × State) a =>
    if 0x0C00000000000000 ≤ a then q
    else match resolveOwn q.2 (BitVec.ofNat 64 a) .read false with
      | .ok (p, s') => (q.1 ++ [(p, BitVec.ofNat 64 a)], s')
      | .error _ => q) ([], s)

/-- A list without repeats, each entry at its first place. -/
def firsts (l : List Nat) : List Nat := l.reverse.dedup.reverse

/-- R174, R175: pins the lines, or ends the chunk first; the fills go on after it. Log 13 (DESIGN CHOICE). -/
def execTfetch (look : BitVec 4) (a : Reg) (s : State) : Res :=
  runBody s 4 fun s => do
    tileCheck s (.tfetch look a) []
    let ptr ← rg s a
    let (spots, s) := regionSpots s ptr
    let held := s.chunk.pins
    let keys := firsts ((spots.map fun p => p.1.key / 64).filter fun k => (ffind held k).isNone)
    if held ≠ [] ∧ 256 < held.length + keys.length then .error (.cut 3)
    else
      let pins := (keys.take (256 - held.length)).foldl (fun m k => fset m k (if Config.wayLeft s.draws k then s.draws else 0)) held
      let s := spots.foldl (fun s p => countAccess s p.1 p.2) s
      let s := (keys.filter fun k => decide (peerBase ≤ k * 64)).foldl (fun s k => askPeer s (k * 64)) s
      let s := s.setCh { s.chunk with
        pins := pins, pages := spots.foldl (fun l p => l.insert (p.1.page (s.ctx s.cur) p.2)) s.chunk.pages }
      let n := s.eng.nextOp
      let fills := keys.zipIdx.map fun p => (n + p.2, p.1)
      done { s with eng := { s.eng with nextOp := n + keys.length, fills := s.eng.fills ++ fills } }

/-- R176: lines that the chunk has not pinned are left alone. -/
def execTunpin (look : BitVec 4) (a : Reg) (s : State) : Res :=
  runBody s 4 fun s => do
    tileCheck s (.tunpin look a) []
    let ptr ← rg s a
    let (spots, s) := regionSpots s ptr
    done (s.setCh { s.chunk with pins := spots.foldl (fun m p => fdel m (p.1.key / 64)) s.chunk.pins })

/-- R174: a fill completes; no program can see it. -/
def execTfetchFill (fill : Nat) (s : State) : Res :=
  .next { s with eng := { s.eng with fills := s.eng.fills.filter fun p => p.1 != fill } }

end Sys2Proof.Machine
end

