-- ==== Sys2Proof/Machine/Dispatch.lean ====
section
/-! DEFINITION. The dispatch: one arm per instruction. -/

namespace Sys2Proof.Machine

/-- Runs one instruction or device event. -/
def exec (i : Instr) (s : State) : Host.Outcome State Fault Refusal :=
  match i with
  | .add d a b => Sys2Proof.Machine.execAdd d a b s
  | .sub d a b => Sys2Proof.Machine.execSub d a b s
  | .band d a b => Sys2Proof.Machine.execBand d a b s
  | .bor d a b => Sys2Proof.Machine.execBor d a b s
  | .bxor d a b => Sys2Proof.Machine.execBxor d a b s
  | .bandn d a b => Sys2Proof.Machine.execBandn d a b s
  | .shl d a b => Sys2Proof.Machine.execShl d a b s
  | .shr d a b => Sys2Proof.Machine.execShr d a b s
  | .sra d a b => Sys2Proof.Machine.execSra d a b s
  | .rol d a b => Sys2Proof.Machine.execRol d a b s
  | .min d a b => Sys2Proof.Machine.execMin d a b s
  | .max d a b => Sys2Proof.Machine.execMax d a b s
  | .minn d a b => Sys2Proof.Machine.execMinn d a b s
  | .maxn d a b => Sys2Proof.Machine.execMaxn d a b s
  | .slt d a b => Sys2Proof.Machine.execSlt d a b s
  | .sltn d a b => Sys2Proof.Machine.execSltn d a b s
  | .seq d a b => Sys2Proof.Machine.execSeq d a b s
  | .sel d a b => Sys2Proof.Machine.execSel d a b s
  | .clz d a => Sys2Proof.Machine.execClz d a s
  | .ctz d a => Sys2Proof.Machine.execCtz d a s
  | .pop d a => Sys2Proof.Machine.execPop d a s
  | .bswap d a => Sys2Proof.Machine.execBswap d a s
  | .addW d a b => Sys2Proof.Machine.execAddW d a b s
  | .subW d a b => Sys2Proof.Machine.execSubW d a b s
  | .bandW d a b => Sys2Proof.Machine.execBandW d a b s
  | .borW d a b => Sys2Proof.Machine.execBorW d a b s
  | .bxorW d a b => Sys2Proof.Machine.execBxorW d a b s
  | .bandnW d a b => Sys2Proof.Machine.execBandnW d a b s
  | .shlW d a b => Sys2Proof.Machine.execShlW d a b s
  | .shrW d a b => Sys2Proof.Machine.execShrW d a b s
  | .sraW d a b => Sys2Proof.Machine.execSraW d a b s
  | .rolW d a b => Sys2Proof.Machine.execRolW d a b s
  | .minW d a b => Sys2Proof.Machine.execMinW d a b s
  | .maxW d a b => Sys2Proof.Machine.execMaxW d a b s
  | .minnW d a b => Sys2Proof.Machine.execMinnW d a b s
  | .maxnW d a b => Sys2Proof.Machine.execMaxnW d a b s
  | .sltW d a b => Sys2Proof.Machine.execSltW d a b s
  | .sltnW d a b => Sys2Proof.Machine.execSltnW d a b s
  | .seqW d a b => Sys2Proof.Machine.execSeqW d a b s
  | .selW d a b => Sys2Proof.Machine.execSelW d a b s
  | .clzW d a => Sys2Proof.Machine.execClzW d a s
  | .ctzW d a => Sys2Proof.Machine.execCtzW d a s
  | .popW d a => Sys2Proof.Machine.execPopW d a s
  | .bswapW d a => Sys2Proof.Machine.execBswapW d a s
  | .mul look d a b => Sys2Proof.Machine.execMul look d a b s
  | .mulh look d a b => Sys2Proof.Machine.execMulh look d a b s
  | .mulhn look d a b => Sys2Proof.Machine.execMulhn look d a b s
  | .div look d a b => Sys2Proof.Machine.execDiv look d a b s
  | .divn look d a b => Sys2Proof.Machine.execDivn look d a b s
  | .rem look d a b => Sys2Proof.Machine.execRem look d a b s
  | .remn look d a b => Sys2Proof.Machine.execRemn look d a b s
  | .mulW look d a b => Sys2Proof.Machine.execMulW look d a b s
  | .mulhW look d a b => Sys2Proof.Machine.execMulhW look d a b s
  | .mulhnW look d a b => Sys2Proof.Machine.execMulhnW look d a b s
  | .divW look d a b => Sys2Proof.Machine.execDivW look d a b s
  | .divnW look d a b => Sys2Proof.Machine.execDivnW look d a b s
  | .remW look d a b => Sys2Proof.Machine.execRemW look d a b s
  | .remnW look d a b => Sys2Proof.Machine.execRemnW look d a b s
  | .addImm d a imm => Sys2Proof.Machine.execAddImm d a imm s
  | .bandImm d a imm => Sys2Proof.Machine.execBandImm d a imm s
  | .borImm d a imm => Sys2Proof.Machine.execBorImm d a imm s
  | .bxorImm d a imm => Sys2Proof.Machine.execBxorImm d a imm s
  | .sltImm d a imm => Sys2Proof.Machine.execSltImm d a imm s
  | .sltnImm d a imm => Sys2Proof.Machine.execSltnImm d a imm s
  | .shlImm d a n => Sys2Proof.Machine.execShlImm d a n s
  | .shrImm d a n => Sys2Proof.Machine.execShrImm d a n s
  | .sraImm d a n => Sys2Proof.Machine.execSraImm d a n s
  | .rolImm d a n => Sys2Proof.Machine.execRolImm d a n s
  | .addWImm d a imm => Sys2Proof.Machine.execAddWImm d a imm s
  | .extI d a lenm pos => Sys2Proof.Machine.execExtI d a lenm pos s
  | .extN d a lenm pos => Sys2Proof.Machine.execExtN d a lenm pos s
  | .ins d a lenm pos => Sys2Proof.Machine.execIns d a lenm pos s
  | .lea d a b sh => Sys2Proof.Machine.execLea d a b sh s
  | .lpc d off => Sys2Proof.Machine.execLpc d off s
  | .ldI8 look d a imm => Sys2Proof.Machine.execLdI8 look d a imm s
  | .ldN8 look d a imm => Sys2Proof.Machine.execLdN8 look d a imm s
  | .ldI16 look d a imm => Sys2Proof.Machine.execLdI16 look d a imm s
  | .ldN16 look d a imm => Sys2Proof.Machine.execLdN16 look d a imm s
  | .ldI32 look d a imm => Sys2Proof.Machine.execLdI32 look d a imm s
  | .ldN32 look d a imm => Sys2Proof.Machine.execLdN32 look d a imm s
  | .ld64 look d a imm => Sys2Proof.Machine.execLd64 look d a imm s
  | .st8 d a imm => Sys2Proof.Machine.execSt8 d a imm s
  | .st16 d a imm => Sys2Proof.Machine.execSt16 d a imm s
  | .st32 d a imm => Sys2Proof.Machine.execSt32 d a imm s
  | .st64 d a imm => Sys2Proof.Machine.execSt64 d a imm s
  | .ldp look d a b off => Sys2Proof.Machine.execLdp look d a b off s
  | .stp d a b off => Sys2Proof.Machine.execStp d a b off s
  | .bCc c a b off => Sys2Proof.Machine.execBCc c a b off s
  | .dbnz a off => Sys2Proof.Machine.execDbnz a off s
  | .j off => Sys2Proof.Machine.execJ off s
  | .call off => Sys2Proof.Machine.execCall off s
  | .jr a => Sys2Proof.Machine.execJr a s
  | .callr a => Sys2Proof.Machine.execCallr a s
  | .li d imm => Sys2Proof.Machine.execLi d imm s
  | .lih d imm => Sys2Proof.Machine.execLih d imm s
  | .addl d a imm => Sys2Proof.Machine.execAddl d a imm s
  | .bCcLong c a b off => Sys2Proof.Machine.execBCcLong c a b off s
  | .jLong off => Sys2Proof.Machine.execJLong off s
  | .callLong off => Sys2Proof.Machine.execCallLong off s
  | .pfx p => Sys2Proof.Machine.execPfx p s
  | .vadd m t d a b => Sys2Proof.Machine.execVadd m t d a b s
  | .vsub m t d a b => Sys2Proof.Machine.execVsub m t d a b s
  | .vmul m t d a b => Sys2Proof.Machine.execVmul m t d a b s
  | .vmin m t d a b => Sys2Proof.Machine.execVmin m t d a b s
  | .vmax m t d a b => Sys2Proof.Machine.execVmax m t d a b s
  | .vfma m t d a b => Sys2Proof.Machine.execVfma m t d a b s
  | .vfms m t d a b => Sys2Proof.Machine.execVfms m t d a b s
  | .vdiv m t d a b => Sys2Proof.Machine.execVdiv m t d a b s
  | .vabs m t d a => Sys2Proof.Machine.execVabs m t d a s
  | .vneg m t d a => Sys2Proof.Machine.execVneg m t d a s
  | .vsqrt m t d a => Sys2Proof.Machine.execVsqrt m t d a s
  | .vrsq m t d a => Sys2Proof.Machine.execVrsq m t d a s
  | .vexp2 m t d a => Sys2Proof.Machine.execVexp2 m t d a s
  | .vlog2 m t d a => Sys2Proof.Machine.execVlog2 m t d a s
  | .vrcp m t d a => Sys2Proof.Machine.execVrcp m t d a s
  | .vand m t d a b => Sys2Proof.Machine.execVand m t d a b s
  | .vor m t d a b => Sys2Proof.Machine.execVor m t d a b s
  | .vxor m t d a b => Sys2Proof.Machine.execVxor m t d a b s
  | .vandn m t d a b => Sys2Proof.Machine.execVandn m t d a b s
  | .vshl m t d a b => Sys2Proof.Machine.execVshl m t d a b s
  | .vshr m t d a b => Sys2Proof.Machine.execVshr m t d a b s
  | .vsra m t d a b => Sys2Proof.Machine.execVsra m t d a b s
  | .vcmp c m t d a b => Sys2Proof.Machine.execVcmp c m t d a b s
  | .vsel vm t d a b => Sys2Proof.Machine.execVsel vm t d a b s
  | .mand d a b => Sys2Proof.Machine.execMand d a b s
  | .mor d a b => Sys2Proof.Machine.execMor d a b s
  | .mxor d a b => Sys2Proof.Machine.execMxor d a b s
  | .mnot d a => Sys2Proof.Machine.execMnot d a s
  | .mpop d a => Sys2Proof.Machine.execMpop d a s
  | .mfirst d a => Sys2Proof.Machine.execMfirst d a s
  | .vcvt m t src d a => Sys2Proof.Machine.execVcvt m t src d a s
  | .vcvtFromView m t k d a => Sys2Proof.Machine.execVcvtFromView m t k d a s
  | .vcvtToView m t k d a => Sys2Proof.Machine.execVcvtToView m t k d a s
  | .vpack m t d a b => Sys2Proof.Machine.execVpack m t d a b s
  | .vunpack m t d a h => Sys2Proof.Machine.execVunpack m t d a h s
  | .vperm m t d a b => Sys2Proof.Machine.execVperm m t d a b s
  | .vslide m t d a b => Sys2Proof.Machine.execVslide m t d a b s
  | .vbcast m t d a => Sys2Proof.Machine.execVbcast m t d a s
  | .vextr t d a b => Sys2Proof.Machine.execVextr t d a b s
  | .vins t d a b => Sys2Proof.Machine.execVins t d a b s
  | .vidx m t d a b => Sys2Proof.Machine.execVidx m t d a b s
  | .vredsum vm t d a => Sys2Proof.Machine.execVredsum vm t d a s
  | .vredmax vm t d a => Sys2Proof.Machine.execVredmax vm t d a s
  | .vredmin vm t d a => Sys2Proof.Machine.execVredmin vm t d a s
  | .vargmax vm t d a b => Sys2Proof.Machine.execVargmax vm t d a b s
  | .vtopk vm t d a b => Sys2Proof.Machine.execVtopk vm t d a b s
  | .vbucket vm t d a => Sys2Proof.Machine.execVbucket vm t d a s
  | .vquant t d a => Sys2Proof.Machine.execVquant t d a s
  | .vscale m t d a b => Sys2Proof.Machine.execVscale m t d a b s
  | .vsrnd m t d a => Sys2Proof.Machine.execVsrnd m t d a s
  | .vsrndView m k d a => Sys2Proof.Machine.execVsrndView m k d a s
  | .vmov m t d a => Sys2Proof.Machine.execVmov m t d a s
  | .vli m t d imm => Sys2Proof.Machine.execVli m t d imm s
  | .vld look m d a imm => Sys2Proof.Machine.execVld look m d a imm s
  | .vldb look d a imm => Sys2Proof.Machine.execVldb look d a imm s
  | .vst vm d a imm => Sys2Proof.Machine.execVst vm d a imm s
  | .vlds m t d a b => Sys2Proof.Machine.execVlds m t d a b s
  | .vsts m t d a b => Sys2Proof.Machine.execVsts m t d a b s
  | .vgather m t d a b => Sys2Proof.Machine.execVgather m t d a b s
  | .vscatter m t d a b => Sys2Proof.Machine.execVscatter m t d a b s
  | .tmma look acc a b => Sys2Proof.Machine.execTmma look acc a b s
  | .tmmat look acc a b => Sys2Proof.Machine.execTmmat look acc a b s
  | .tzero look acc => Sys2Proof.Machine.execTzero look acc s
  | .tld look acc a => Sys2Proof.Machine.execTld look acc a s
  | .tst look acc a => Sys2Proof.Machine.execTst look acc a s
  | .tfetch look a => Sys2Proof.Machine.execTfetch look a s
  | .tunpin look a => Sys2Proof.Machine.execTunpin look a s
  | .tgeom look n a => Sys2Proof.Machine.execTgeom look n a s
  | .tadd look acc src => Sys2Proof.Machine.execTadd look acc src s
  | .tscale look acc va => Sys2Proof.Machine.execTscale look acc va s
  | .trget look acc d a => Sys2Proof.Machine.execTrget look acc d a s
  | .trput look acc a b => Sys2Proof.Machine.execTrput look acc a b s
  | .trmax look acc d => Sys2Proof.Machine.execTrmax look acc d s
  | .trsum look acc d => Sys2Proof.Machine.execTrsum look acc d s
  | .tquant look acc a => Sys2Proof.Machine.execTquant look acc a s
  | .kadd a b => Sys2Proof.Machine.execKadd a b s
  | .kaddi a imm => Sys2Proof.Machine.execKaddi a imm s
  | .kwait a b => Sys2Proof.Machine.execKwait a b s
  | .kread look d a => Sys2Proof.Machine.execKread look d a s
  | .kdraw look d a => Sys2Proof.Machine.execKdraw look d a s
  | .kset a b => Sys2Proof.Machine.execKset a b s
  | .rld look w d a => Sys2Proof.Machine.execRld look w d a s
  | .rst w a b => Sys2Proof.Machine.execRst w a b s
  | .radd look w d a b => Sys2Proof.Machine.execRadd look w d a b s
  | .raddPosted w a b => Sys2Proof.Machine.execRaddPosted w a b s
  | .rcas look w d a b => Sys2Proof.Machine.execRcas look w d a b s
  | .rswp look w d a b => Sys2Proof.Machine.execRswp look w d a b s
  | .padd t a b => Sys2Proof.Machine.execPadd t a b s
  | .pmin t a b => Sys2Proof.Machine.execPmin t a b s
  | .pmax t a b => Sys2Proof.Machine.execPmax t a b s
  | .por t a b => Sys2Proof.Machine.execPor t a b s
  | .cut => Sys2Proof.Machine.execCut s
  | .hold => Sys2Proof.Machine.execHold s
  | .unhold => Sys2Proof.Machine.execUnhold s
  | .chk => Sys2Proof.Machine.execChk s
  | .xer look n d => Sys2Proof.Machine.execXer look n d s
  | .xeGo look d => Sys2Proof.Machine.execXeGo look d s
  | .ceGo look d => Sys2Proof.Machine.execCeGo look d s
  | .xew n a => Sys2Proof.Machine.execXew n a s
  | .ceJoin a => Sys2Proof.Machine.execCeJoin a s
  | .compose d a => Sys2Proof.Machine.execCompose d a s
  | .release => Sys2Proof.Machine.execRelease s
  | .bq d => Sys2Proof.Machine.execBq d s
  | .launch a => Sys2Proof.Machine.execLaunch a s
  | .nop => Sys2Proof.Machine.execNop s
  | .trap n => Sys2Proof.Machine.execTrap n s
  | .tret => Sys2Proof.Machine.execTret s
  | .brk n => Sys2Proof.Machine.execBrk n s
  | .halt => Sys2Proof.Machine.execHalt s
  | .idle => Sys2Proof.Machine.execIdle s
  | .sget n d => Sys2Proof.Machine.execSget n d s
  | .sset n a => Sys2Proof.Machine.execSset n a s
  | .lflush a => Sys2Proof.Machine.execLflush a s
  | .linv a => Sys2Proof.Machine.execLinv a s
  | .tlbinv a => Sys2Proof.Machine.execTlbinv a s
  | .hsave a => Sys2Proof.Machine.execHsave a s
  | .hload a => Sys2Proof.Machine.execHload a s
  | .xfence => Sys2Proof.Machine.execXfence s
  | .unallocatedEncoding sub val => Sys2Proof.Machine.execUnallocatedEncoding sub val s
  | .instructionFetchFault cause sub val => Sys2Proof.Machine.execInstructionFetchFault cause sub val s
  | .pendingDrain c => Sys2Proof.Machine.execPendingDrain c s
  | .chunkGrant c => Sys2Proof.Machine.execChunkGrant c s
  | .soloSlotGrant c => Sys2Proof.Machine.execSoloSlotGrant c s
  | .resultReturn c => Sys2Proof.Machine.execResultReturn c s
  | .steppingReexecution c => Sys2Proof.Machine.execSteppingReexecution c s
  | .trapEntry c => Sys2Proof.Machine.execTrapEntry c s
  | .quantumEnd group => Sys2Proof.Machine.execQuantumEnd group s
  | .counterAdd op => Sys2Proof.Machine.execCounterAdd op s
  | .checkAndArm op => Sys2Proof.Machine.execCheckAndArm op s
  | .counterDraw op => Sys2Proof.Machine.execCounterDraw op s
  | .counterSet op => Sys2Proof.Machine.execCounterSet op s
  | .spillRetry op => Sys2Proof.Machine.execSpillRetry op s
  | .remoteOperation op => Sys2Proof.Machine.execRemoteOperation op s
  | .postedAtomic op => Sys2Proof.Machine.execPostedAtomic op s
  | .copyTransferStart x => Sys2Proof.Machine.execCopyTransferStart x s
  | .copyBlockWrite x block => Sys2Proof.Machine.execCopyBlockWrite x block s
  | .collectiveStart k => Sys2Proof.Machine.execCollectiveStart k s
  | .collectivePartial die p => Sys2Proof.Machine.execCollectivePartial die p s
  | .collectiveComplete k => Sys2Proof.Machine.execCollectiveComplete k s
  | .heartbeatSend port => Sys2Proof.Machine.execHeartbeatSend port s
  | .heartbeat mod => Sys2Proof.Machine.execHeartbeat mod s
  | .heartbeatTimeout mod => Sys2Proof.Machine.execHeartbeatTimeout mod s
  | .dieHeartbeatMiss die => Sys2Proof.Machine.execDieHeartbeatMiss die s
  | .dieFatalError die => Sys2Proof.Machine.execDieFatalError die s
  | .suspect m => Sys2Proof.Machine.execSuspect m s
  | .propose grp p => Sys2Proof.Machine.execPropose grp p s
  | .ack grp num mod => Sys2Proof.Machine.execAck grp num mod s
  | .viewCommit grp p => Sys2Proof.Machine.execViewCommit grp p s
  | .proposalTimeout grp => Sys2Proof.Machine.execProposalTimeout grp s
  | .holdTimeout grp => Sys2Proof.Machine.execHoldTimeout grp s
  | .force grp => Sys2Proof.Machine.execForce grp s
  | .joinreq grp m => Sys2Proof.Machine.execJoinreq grp m s
  | .joinack grp m => Sys2Proof.Machine.execJoinack grp m s
  | .flitReceive port f => Sys2Proof.Machine.execFlitReceive port f s
  | .linkReplay port lastGood => Sys2Proof.Machine.execLinkReplay port lastGood s
  | .portDown port => Sys2Proof.Machine.execPortDown port s
  | .portUp port => Sys2Proof.Machine.execPortUp port s
  | .hrd off size => Sys2Proof.Machine.execHrd off size s
  | .hwr t data mask => Sys2Proof.Machine.execHwr t data mask s
  | .hcadd handle amount => Sys2Proof.Machine.execHcadd handle amount s
  | .peerReadTimeout c => Sys2Proof.Machine.execPeerReadTimeout c s
  | .pageWalk core va => Sys2Proof.Machine.execPageWalk core va s
  | .notificationRecord die => Sys2Proof.Machine.execNotificationRecord die s
  | .writeBlockResume c => Sys2Proof.Machine.execWriteBlockResume c s
  | .tfetchFill fill => Sys2Proof.Machine.execTfetchFill fill s
  | .patrolScrub pa r => Sys2Proof.Machine.execPatrolScrub pa r s
  | .cethreshReached u => Sys2Proof.Machine.execCethreshReached u s
  | .liveRetirement u => Sys2Proof.Machine.execLiveRetirement u s
  | .queuePoll q => Sys2Proof.Machine.execQueuePoll q s
  | .recordFetch q => Sys2Proof.Machine.execRecordFetch q s
  | .modeChange q => Sys2Proof.Machine.execModeChange q s
  | .footprintReserve q => Sys2Proof.Machine.execFootprintReserve q s
  | .nodeReady lid node => Sys2Proof.Machine.execNodeReady lid node s
  | .instanceDispatch lid node inst core strand => Sys2Proof.Machine.execInstanceDispatch lid node inst core strand s
  | .launchRetire lid => Sys2Proof.Machine.execLaunchRetire lid s
  | .preempt lid victim core => Sys2Proof.Machine.execPreempt lid victim core s
  | .huskResume lid core => Sys2Proof.Machine.execHuskResume lid core s
  | .twinThirdRun c hash => Sys2Proof.Machine.execTwinThirdRun c hash s
  | .droopStretch cluster => Sys2Proof.Machine.execDroopStretch cluster s
  | .clockModeChange cluster => Sys2Proof.Machine.execClockModeChange cluster s
  | .elasticReturn cluster => Sys2Proof.Machine.execElasticReturn cluster s
  | .powerSample watts hottest => Sys2Proof.Machine.execPowerSample watts hottest s
  | .dispatchThrottle => Sys2Proof.Machine.execDispatchThrottle s
  | .junctionTrip die => Sys2Proof.Machine.execJunctionTrip die s
  | .idleDepthEntry core => Sys2Proof.Machine.execIdleDepthEntry core s
  | .coreWake core => Sys2Proof.Machine.execCoreWake core s
  | .watchDelivery c => Sys2Proof.Machine.execWatchDelivery c s
  | .debugHalt core => Sys2Proof.Machine.execDebugHalt core s
  | .debugResume core => Sys2Proof.Machine.execDebugResume core s
  | .dbgstopStop lid => Sys2Proof.Machine.execDbgstopStop lid s
  | .dbgstopResume lid => Sys2Proof.Machine.execDbgstopResume lid s
  | .quiesceTimeout core => Sys2Proof.Machine.execQuiesceTimeout core s
  | .dbgrecRead => Sys2Proof.Machine.execDbgrecRead s
  | .dbgstatRead => Sys2Proof.Machine.execDbgstatRead s
  | .debugStateWrite c off v => Sys2Proof.Machine.execDebugStateWrite c off v s
  | .watchpointArm core n v => Sys2Proof.Machine.execWatchpointArm core n v s
  | .traceArm v => Sys2Proof.Machine.execTraceArm v s
  | .traceTrigger stop => Sys2Proof.Machine.execTraceTrigger stop s
  | .replayDivergence lid => Sys2Proof.Machine.execReplayDivergence lid s
  | .dumpRequest v => Sys2Proof.Machine.execDumpRequest v s
  | .registerWrite r v => Sys2Proof.Machine.execRegisterWrite r v s
  | .coldStart fails => Sys2Proof.Machine.execColdStart fails s
  | .warmStart fails => Sys2Proof.Machine.execWarmStart fails s
  | .keepMemoryWarmStart fails => Sys2Proof.Machine.execKeepMemoryWarmStart fails s
  | .powerLoss => Sys2Proof.Machine.execPowerLoss s
  | .keySlotLoad slot key => Sys2Proof.Machine.execKeySlotLoad slot key s
  | .keySlotClear slot => Sys2Proof.Machine.execKeySlotClear slot s
  | .storeWrite w => Sys2Proof.Machine.execStoreWrite w s
  | .groupEntryCreate grp quorum full rest => Sys2Proof.Machine.execGroupEntryCreate grp quorum full rest s
  | .unlockToken valid => Sys2Proof.Machine.execUnlockToken valid s
  | .launchTerminate lid => Sys2Proof.Machine.execLaunchTerminate lid s
  | .haltedStrandRestart c => Sys2Proof.Machine.execHaltedStrandRestart c s
  | .correctedErrorWindow => Sys2Proof.Machine.execCorrectedErrorWindow s
  | .flashSlotWrite slot version verifies => Sys2Proof.Machine.execFlashSlotWrite slot version verifies s
  | .clockModeChangeEnd cluster => Sys2Proof.Machine.execClockModeChangeEnd cluster s

end Sys2Proof.Machine
end

