-- ==== Sys2Proof/Machine/Step.lean ====
section
/-! DEFINITION. One step of the module: the head of the agenda, or the free choice of Config when it is empty. -/

namespace Sys2Proof.Machine

/-- May the schedule name the instruction as an event: a device event, and not one of the two that fetch raises?
Log 4 (DESIGN CHOICE). -/
def schedulable (i : Instr) : Bool :=
  (encode i).isEmpty && (match i with
    | .unallocatedEncoding _ _ => false
    | .instructionFetchFault _ _ _ => false
    | _ => true)

/-- A strand's turn: it takes a trap or rests at a boundary, or fetches, decodes and executes (R8, R58, R332). -/
def issue (s : State) (c : Sid) : Res :=
  let s := { s with cur := c }
  match readiness s c with
  | .no => .next s
  | .trap => exec (.trapEntry c) s
  | .rest => .next (restNow s c)
  | .go =>
    match fetchNext s c with
    | (.instr i, s) => exec i s
    | (.illop sub val, s) => exec (.unallocatedEncoding sub val) s
    | (.fault cause sub val, s) => exec (.instructionFetchFault cause sub val) s

/-- What the schedule names happens. Log 1 (DESIGN CHOICE). -/
def act (s : State) (a : Config.Action) : Res :=
  match a with
  | .issue c => issue s c
  | .event i => if schedulable i then exec i s else .next s
  | .elapse ns => .next (elapse s ns)
  | .tick n => .next (tick s n)
  | .upset u => .next (upset s u)
  | .stage => .next (runStage s)
  | .replay r => .next (setReplay s r)

/-- One step. Log 1 (DESIGN CHOICE). -/
def step (s : State) : Res :=
  match s.agenda with
  | a :: rest => act { s with agenda := rest } a
  | [] =>
    match Config.schedule s.draws with
    | some a => act { s with draws := s.draws + 1 } a
    | none => .next { s with draws := s.draws + 1 }

/-- The state with an instruction placed where the next step fetches it: its words, then zeros up to the longest
instruction. Log 2 (DESIGN CHOICE). -/
def State.withFetchWord (s : State) (nbits w : Nat) : State :=
  let s := ableToIssue s s.cur
  let s := placeCode s s.cur (leBytes 12 (w % 2 ^ nbits))
  { s with agenda := .issue s.cur :: s.agenda }

end Sys2Proof.Machine
end

