-- ==== Sys2Proof/Safety.lean ====
section
/-! DEFINITION. The terms in which claims are made: when an instruction of a strand can run, what "nothing else
changed" means, reachable states, and the invariant of the machine. -/

namespace Sys2Proof.Machine

/-! ## Running an instruction -/

/-- The strand `cur` exists, and a held region of it has room for one more instruction (R9, Table 7.4). -/
def Runs (s : State) : Prop :=
  s.me.run ≠ .none ∧ ((chunkOf s s.cur).held = true → (chunkOf s s.cur).retired < 1024)

/-- The state in which the body of an instruction works: the chunk of the strand is open. -/
def begun (s : State) : State := { openFor s s.cur with draws := s.draws + 1 }

/-- gr can be read: it is g0, or its word is not poisoned (R338). -/
def Readable (s : State) (r : Reg) : Prop := r = 0 ∨ s.arch.poisoned r.toNat = false

/-- vr can be read. -/
def VReadable (s : State) (r : Reg) : Prop := s.arch.poisoned (32 + r.toNat) = false

/-- The mask register that a mask field names can be read; field 0 names none (R120). -/
def MaskReadable (s : State) (vm : BitVec 3) : Prop := vm = 0 ∨ VReadable s (vm.zeroExtend 5)

/-- The strand is at a chunk boundary with nothing before it that awaits a grant or a trap. -/
def AtBoundary (s : State) : Prop := s.me.opened = none ∧ s.me.waiting = [] ∧ s.me.sync = none

/-- No result of a lookahead window is outstanding (R45). -/
def NoWindows (s : State) : Prop := (chunkOf s s.cur).late = []

/-- No prefix word is in force (R46). -/
def NoPrefix (s : State) : Prop := (chunkOf s s.cur).pfx = none

/-! ## What the strand sees -/

/-- The byte of global memory at a key as the strand sees it: its own newest store, else committed memory (R227). -/
def seenByte (s : State) (key : Nat) : Byte := (ownByte s.me key).getD (s.mem.read key)

/-- The byte of a core's pool at a key. -/
def poolByte (s : State) (l key : Nat) : Byte := fget (s.core l).pool 0 key

/-! ## Frames: `t` is what an instruction of `s.cur` left -/

/-- What an instruction may write: general, vector, control and engine registers by number, bytes of global memory
by key, bytes of its core's pool by key, the level STATUS.PRIV, and STATUS.STEP. -/
structure Writes where
  g : List Reg := []
  v : List Reg := []
  cr : List Nat := []
  eng : List Nat := []
  mem : List Nat := []
  pool : List Nat := []
  level : Bool := false
  step : Bool := false
deriving DecidableEq, Repr

/-- No result of an open window is due for register word `n` (R45). -/
def NoWindow (s : State) (n : Nat) : Prop := ∀ x ∈ (chunkOf s s.cur).late, x.reg ≠ n

/-- Every general register but those in `ds` is unchanged, results of open windows apart. -/
def KeepsG (s t : State) (ds : List Reg) : Prop :=
  ∀ r : Reg, r ∉ ds → NoWindow s r.toNat → (t.strand s.cur).arch.rg r = s.arch.rg r

/-- Every vector register but those in `ds` is unchanged, results of open windows apart. -/
def KeepsV (s t : State) (ds : List Reg) : Prop :=
  ∀ r : Reg, r ∉ ds → NoWindow s (32 + r.toNat) → (t.strand s.cur).arch.rv r = s.arch.rv r

/-- Every control register but those in `ns` is unchanged. -/
def KeepsControl (s t : State) (ns : List Nat) : Prop := ∀ n, n ∉ ns → (t.strand s.cur).arch.cr' n = s.arch.cr' n

/-- Every engine register but those in `ns` is unchanged. -/
def KeepsEngine (s t : State) (ns : List Nat) : Prop := ∀ n, n ∉ ns → (t.strand s.cur).arch.re n = s.arch.re n

/-- Every byte of global memory, committed and as the strand sees it, is unchanged outside the keys in `ks`. -/
def KeepsMemory (s t : State) (ks : List Nat) : Prop :=
  t.cur = s.cur ∧ t.mem = s.mem ∧ ∀ k, k ∉ ks → seenByte t k = seenByte s k

/-- Every byte of every core's pool is unchanged but those in `ks` of the strand's core; every counter is. -/
def KeepsPools (s t : State) (ks : List Nat) : Prop :=
  (∀ l k, (l ≠ s.cur.core ∨ k ∉ ks) → poolByte t l k = poolByte s l k)
  ∧ ∀ l i, fget (t.core l).ctr 0 i = fget (s.core l).ctr 0 i

/-- Every strand but the one that runs is unchanged. -/
def KeepsOthers (s t : State) : Prop := ∀ c, c ≠ s.cur → t.strand c = s.strand c

/-- The frame of an instruction: nothing but what `w` names changed. -/
structure Keeps (s t : State) (w : Writes) : Prop where
  g : KeepsG s t w.g
  v : KeepsV s t w.v
  cr : KeepsControl s t w.cr
  level : w.level = false → (t.strand s.cur).arch.priv = s.arch.priv
  step : w.step = false → (t.strand s.cur).arch.step = s.arch.step
  eng : KeepsEngine s t w.eng
  mem : KeepsMemory s t w.mem
  pool : KeepsPools s t w.pool
  others : KeepsOthers s t

/-- The pc after an instruction of `len` bytes that does not jump; a prefix word counts (R49, R94). -/
def pcAfter (s : State) (len : Nat) : Word :=
  s.arch.pc + BitVec.ofNat 64 (if (chunkOf s s.cur).pfx.isSome then len + 4 else len)

/-- The pc of the strand that ran. -/
def pcOf (s t : State) : Word := (t.strand s.cur).arch.pc

/-- gr of the strand that ran. -/
def gOf (s t : State) (r : Reg) : Word := (t.strand s.cur).arch.rg r

/-- vr of the strand that ran. -/
def vOf (s t : State) (r : Reg) : V512 := (t.strand s.cur).arch.rv r

/-- Control register `n` of the strand that ran. -/
def crOf (s t : State) (n : Nat) : Word := (t.strand s.cur).arch.cr' n

/-- gd received `x`: at once for look 0; else the register holds it, or the window that will write it is open with
`look - 1` instructions to go (R45). A write to g0 is discarded (R15). -/
def GetsG (s t : State) (d : Reg) (x : Word) (look : BitVec 4) : Prop :=
  gOf s t d = (if d = 0 then 0 else x)
  ∨ (look ≠ 0 ∧ ∃ l ∈ (chunkOf t s.cur).late, l.reg = d.toNat ∧ l.val.truncate 64 = x ∧ l.left = look.toNat - 1)

/-- vd received `x`, as `GetsG` says. -/
def GetsV (s t : State) (d : Reg) (x : V512) (look : BitVec 4) : Prop :=
  vOf s t d = x
  ∨ (look ≠ 0 ∧ ∃ l ∈ (chunkOf t s.cur).late, l.reg = 32 + d.toNat ∧ l.val = x ∧ l.left = look.toNat - 1)

/-- The strand's newest chunk in `t`, still open or ended by the instruction, releases at its commit what it released
before and then `rs` (R6, R189, R191). -/
def Releases (s t : State) (rs : List Rel) : Prop :=
  ∃ ch, (t.strand s.cur).chunks.getLast? = some ch ∧ ch.ops = (chunkOf s s.cur).ops ++ rs

/-- The instruction ended its chunk, which awaits its grant; the strand is then in run state `r`, or at its quantum
boundary where it could go on (R189, R231, R288). -/
def EndsChunk (s t : State) (r : RunState) (await : Option Await) (kw : Option KWait) : Prop :=
  (t.strand s.cur).opened = none ∧ (t.strand s.cur).waiting.length = s.me.waiting.length + 1
  ∧ ((t.strand s.cur).run = r ∨ (r = .ready ∧ (t.strand s.cur).run = .boundary))
  ∧ (t.strand s.cur).await = await ∧ (t.strand s.cur).kw = kw

/-- Strand `c` has taken trap `x` with TRAPPC `pc` (R330, R23, R334): the trap registers, the level, the pc; nothing
else of its registers, and no byte of memory; nothing is released. While TVEC is 0 it stops instead (R333). -/
structure Entered (s t : State) (c : Sid) (x : Trap) (pc : Word) : Prop where
  code : ((t.strand c).arch.cr' 1).extractLsb' 0 8 = x.code
  sub : ((t.strand c).arch.cr' 1).extractLsb' 8 4 = x.sub
  first : ((t.strand c).arch.cr' 1).getLsbD 12 = (s.core c.core).latch.isNone
  ppriv : ((t.strand c).arch.cr' 1).getLsbD 13 = (s.strand c).arch.priv
  reserved : ((t.strand c).arch.cr' 1).toNat < 2 ^ 14
  trappc : (t.strand c).arch.cr' 2 = pc &&& 0xFFFFFFFFFFFFFFFC
  trapval : (t.strand c).arch.cr' 3 = x.val
  level : (t.strand c).arch.priv = true
  newpc : (s.strand c).arch.cr' 4 ≠ 0 → (t.strand c).arch.pc = (s.strand c).arch.cr' 4 ∧ (t.strand c).run = .ready
  nohandler : (s.strand c).arch.cr' 4 = 0 →
    (t.strand c).arch.pc = (s.strand c).arch.pc ∧ (t.strand c).run = .halted true
  chunk : (t.strand c).opened = none
  latch : (t.core c.core).latch = some ((s.core c.core).latch.getD c.strand)
  g : ∀ r, (t.strand c).arch.rg r = (s.strand c).arch.rg r
  v : ∀ r, (t.strand c).arch.rv r = (s.strand c).arch.rv r
  cr : ∀ n, n ∉ [1, 2, 3] → (t.strand c).arch.cr' n = (s.strand c).arch.cr' n
  eng : ∀ n, (t.strand c).arch.re n = (s.strand c).arch.re n
  step : (t.strand c).arch.step = (s.strand c).arch.step
  mem : t.mem = s.mem
  released : List.Sublist t.eng.ops s.eng.ops ∧ t.eng.copies = s.eng.copies ∧ t.eng.colls = s.eng.colls
  pool : ∀ l k, poolByte t l k = poolByte s l k
  others : ∀ d, d ≠ c → t.strand d = s.strand d

/-- The prefix in force saturates (R46, R101). -/
def satNow (s : State) : Bool := match (chunkOf s s.cur).pfx with | some p => p.sat | none => false

/-- The instruction raises a synchronous trap with this code, SUB and TRAPVAL, and has no other effect (R331). -/
def Traps (i : Instr) (s : State) (code sub : Nat) (val : Word) : Prop :=
  exec i s = .next (raiseSync (begun s) s.cur (mkTrap code sub val))

/-- The same, where what the instruction had read by then, in state `u`, stays in the chunk's signatures and marks, and its
line requests count (R228, R258). -/
def TrapsAfter (i : Instr) (s u : State) (code sub : Nat) (val : Word) : Prop :=
  exec i s = .next (raiseSync ((begun s).afterReads s.cur u) s.cur (mkTrap code sub val))

/-! ## Accesses -/

/-- No other strand of the core has a chunk that an access to the pool could meet (R14). -/
def Alone (s : State) : Prop := ∀ p ∈ (s.core s.cur.core).strands, p.1 ≠ s.cur.strand → p.2.chunks = []

/-- The address passes the checks of R108 items 1 to 3 for a scalar access of `n` bytes outside the counter window. -/
def ScalarOk (s : State) (ea : Word) (n : Nat) : Prop :=
  bits ea 63 60 = 0 ∧ ea.toNat % n = 0
  ∧ (placeOf ea = .paged ∨ ∃ off, placeOf ea = .scratch off ∧ off + n ≤ (s.core s.cur.core).spBytes)

/-- What a store of `n` bytes through pointer `ea` writes: pool bytes by offset, or bytes of the page that the
translation gives (R108, R110, R254). -/
def storeTo (s : State) (ea : Word) (n : Nat) : Writes :=
  match placeOf ea with
  | .scratch off => { pool := upto off n }
  | _ =>
    match resolveOwn s ea .write false with
    | .ok (p, _) => { mem := upto p.sig n }
    | .error _ => {}

/-- What stores of `n` bytes through each of the pointers write. -/
def storeToAll (s : State) (ptrs : List Word) (n : Nat) : Writes :=
  { mem := ptrs.flatMap fun p => (storeTo s p n).mem, pool := ptrs.flatMap fun p => (storeTo s p n).pool }

/-- The translation of the page is at hand in the TLB of the core that makes the access, so that no access changes it (R256,
R300). -/
def Mapped (s : State) (ea : Word) : Prop :=
  (tlbFind (s.core (memCore s ea)).tlb (s.ctx s.cur) (bits ea 59 16)).isSome = true

/-- Byte `i` behind pointer `ea` as the strand sees it, under the translation for an access `w`. -/
def byteAt (s t : State) (ea : Word) (w : Want) (i : Nat) : Option Byte :=
  match placeOf ea with
  | .scratch off => some (poolByte t s.cur.core (off + i))
  | _ =>
    match resolveOwn s ea w false with
    | .ok (p, _) => some (seenByte t (p.sig + i))
    | .error _ => none

/-! ## Runs of the module -/

/-- The states that the module can be in from a cold start. -/
inductive Reachable : State → Prop where
  | reset : Reachable State.reset
  | step {s t : State} : Reachable s → step s = .next t → Reachable t

/-- A safe state: the next step answers a next state, neither a fault nor a refusal. -/
def Safe (s : State) : Prop := ∃ t, step s = .next t

/-- The invariant of the machine: global memory and every core's pool are in their canonical form, so that equal
memories are equal data and a byte reads as what was last written to it. -/
def State.Inv (s : State) : Prop := s.mem.wf = true ∧ ∀ l, Mem.wf (s.core l).pool = true

end Sys2Proof.Machine
end

