-- ==== Sys2Proof/Certificates/Slice0/Obligations.lean ====
section
/-! DEFINITION. The statements for the provers. The tables that several statements range over stand before them, in
`Sys2Proof.Claims`. -/

open Sys2Proof Sys2Proof.Machine

/-! ## Encoding (chapter 02) -/

/-- Words that the spec's worked examples derive bit by bit decode to the instructions they stand for: Tables 4.7, 5.7,
6.5, 7.8, 11.2 and those of chapters 02, 15 and 16. -/
def Obligations.DecodesWrittenWords : Prop :=
  decode [0x00000507, 0x0E000000] = .instr (.lih 5 0x0E000000) 8
  ∧ decode [0x000C0210] = .instr (.addImm 2 0 3) 4
  ∧ decode [0x1000A358] = .instr (.ld64 1 3 5 0) 4
  ∧ decode [0x000C8400] = .instr (.add 4 4 3) 4
  ∧ decode [0xFFA04084] = .instr (.dbnz 2 (-3)) 4
  ∧ decode [0x59E00903, 0x000048D1] = .instr (.li 9 0x12345678) 8
  ∧ decode [0x50000002] = .instr (.pfx ⟨2, true, 0, false, 0⟩) 4
  ∧ decode [0x50148301] = .instr (.vadd ⟨2, true⟩ .f32 3 4 5) 4
  ∧ decode [0x2008A315] = .instr (.vfma ⟨1, false⟩ .f32 3 5 2) 4
  ∧ decode [0x00006651] = .instr (.vredsum 0 .f32 6 3) 4
  ∧ decode [0x0000E099] = .instr (.tgeom 0 0 7) 4
  ∧ decode [0x0200A681] = .instr (.tmma 0 2 5 6) 4
  ∧ decode [0x003160B5] = .instr (.kwait 11 12) 4
  ∧ decode [0x081920D5] = .instr (.xew 0x206 9) 4
  ∧ decode [0x028000E1] = .instr .idle 4

/-- R41 to R56: the decoder reads from an instruction's words that instruction, with every operand at every value that
its encoding admits, and its length; for all instructions that have words (a device event has none). -/
def Obligations.DecodeOfEncode : Prop :=
  ∀ (i : Instr) (rest : List W32), i.wf = true → encode i ≠ [] →
    decode (encode i ++ rest) = .instr i (4 * (encode i).length)

/-- R43, R57: whatever the decoder accepts is a well-formed instruction, and the words it accepted are that instruction's
encoding: no bit of a word is left unread, and no two words mean the same instruction. -/
def Obligations.EncodeOfDecode : Prop :=
  ∀ (ws : List W32) (i : Instr) (n : Nat), decode ws = .instr i n →
    i.wf = true ∧ n = 4 * (encode i).length ∧ ∃ rest, ws = encode i ++ rest

/-! ## The step -/

/-- R58, R44: when the words at the pc of a strand whose turn it is decode to an instruction, the step runs exactly that
instruction (a fetch adds only its page to the chunk, R257; the word after a prefix is the one that was checked with it, R48);
a word that decodes to none raises ILLOP with the decoder's subcode and the word; a fetch that faults raises its fault. -/
def Obligations.StepRunsDecodedInstruction : Prop :=
  ∀ (s : State) (c : Sid) (rest : List Config.Action), s.agenda = .issue c :: rest →
    let u : State := { s with agenda := rest, cur := c }
    let pc := fetchPc (s.strand c)
    readiness u c = .go →
    ((chunkOf s c).pair = none → nextWord u c = fetchWord u c pc)
    ∧ (∀ w s1, nextWord u c = .ok (w, s1) →
      (∀ i, decode [w] = .instr i 4 → step s = exec i s1)
      ∧ (∀ i x s2, decode [w] = .more → fetchWord s1 c (pc + 4) = .ok (x, s2) → decode [w, x] = .instr i 8 →
          step s = exec i s2)
      ∧ (∀ sub, decode [w] = .illop sub → step s = exec (.unallocatedEncoding sub (w.zeroExtend 64)) s1))
    ∧ ∀ e, nextWord u c = .error e →
        step s = exec (.instructionFetchFault (BitVec.ofNat 8 e.1) (BitVec.ofNat 4 e.2) (fetchVal e pc)) u

/-- The machine never stops: whatever the schedule names next, the step answers a next state. In particular no
instruction is refused, and no strand that does not exist issues one (R9).
Model's choices among these: log entries 1, 4, 5. -/
def Obligations.EveryStepAnswers : Prop := ∀ s : State, Safe s

/-- Every step keeps memory in its canonical form, from every state that has it. -/
def Obligations.StepKeepsInvariant : Prop := ∀ s t : State, s.Inv → step s = .next t → t.Inv

/-- R40, R367: right after a cold start TIME and every cluster's CYCLE are 0, every core is idle with no context and no
strand, no launch or queue is live, and every byte of memory reads zero; memory is in its canonical form. That host memory
reads zero is the model's choice (log entry 3).
Model's choices among these: log entries 3, 6, 7, 8. -/
def Obligations.ResetState : Prop :=
  State.reset.Inv
  ∧ State.reset.time = 0 ∧ (∀ n, (State.reset.cluster n).cycle = 0 ∧ (State.reset.cluster n).steady = false)
  ∧ (∀ l, State.reset.core l = Core.reset) ∧ (∀ c, (State.reset.strand c).run = .none)
  ∧ (∀ lid, State.reset.launch lid = none) ∧ State.reset.lu.queues = []
  ∧ (∀ a, State.reset.mem.read a = 0) ∧ (∀ k, poisonedAt State.reset k = false)

/-- R6, R10, R12: no instruction of a program changes committed memory. What it stores is speculative until its chunk
commits (`CHUNK_GRANT`, `QUANTUM_END`). A trace that is armed writes its own ring, so that it is excluded. -/
def Obligations.InstructionsLeaveCommittedMemory : Prop :=
  ∀ (i : Instr) (s t : State), encode i ≠ [] → bitOf s.dbg.trctl 0 = false → exec i s = .next t → t.mem = s.mem

/-! ## Scalar results (chapter 04) -/

namespace Sys2Proof.Claims

/-- A value computed on bits 31:0 and sign-extended (R100). -/
def onW (f : W32 → W32 → W32) (x y : Word) : Word := (f (x.truncate 32) (y.truncate 32)).signExtend 64

/-- Table 4.3 without the saturating operations: instruction and value. -/
def twoRegs (sh : BitVec 3) : List ((Reg → Reg → Reg → Instr) × (Word → Word → Word)) := [
  (.band, fun x y => x &&& y), (.bandW, onW fun x y => x &&& y),
  (.bor, fun x y => x ||| y), (.borW, onW fun x y => x ||| y),
  (.bxor, fun x y => x ^^^ y), (.bxorW, onW fun x y => x ^^^ y),
  (.bandn, fun x y => x &&& ~~~y), (.bandnW, onW fun x y => x &&& ~~~y),
  (.shr, fun x y => x >>> (y.toNat % 64)), (.shrW, onW fun x y => x >>> (y.toNat % 32)),
  (.sra, fun x y => x.sshiftRight (y.toNat % 64)), (.sraW, onW fun x y => x.sshiftRight (y.toNat % 32)),
  (.rol, fun x y => x.rotateLeft (y.toNat % 64)), (.rolW, onW fun x y => x.rotateLeft (y.toNat % 32)),
  (.min, fun x y => if x.toInt < y.toInt then x else y), (.minW, onW fun x y => if x.toInt < y.toInt then x else y),
  (.max, fun x y => if x.toInt < y.toInt then y else x), (.maxW, onW fun x y => if x.toInt < y.toInt then y else x),
  (.minn, fun x y => if x < y then x else y), (.minnW, onW fun x y => if x < y then x else y),
  (.maxn, fun x y => if x < y then y else x), (.maxnW, onW fun x y => if x < y then y else x),
  (.slt, fun x y => if x.toInt < y.toInt then 1 else 0), (.sltW, onW fun x y => if x.toInt < y.toInt then 1 else 0),
  (.sltn, fun x y => if x < y then 1 else 0), (.sltnW, onW fun x y => if x < y then 1 else 0),
  (.seq, fun x y => if x = y then 1 else 0), (.seqW, onW fun x y => if x = y then 1 else 0),
  (fun d a b => .lea d a b sh, fun x y => x + y <<< sh.toNat)]

/-- The signed value of the low `n` bits. -/
def low (n : Nat) (x : Word) : Int := (x.truncate n : BitVec n).toInt

/-- Table 4.4 for two registers: instruction, width, exact result. -/
def exactTwo : List ((Reg → Reg → Reg → Instr) × Nat × (Word → Word → Int)) := [
  (.add, 64, fun x y => low 64 x + low 64 y), (.addW, 32, fun x y => low 32 x + low 32 y),
  (.sub, 64, fun x y => low 64 x - low 64 y), (.subW, 32, fun x y => low 32 x - low 32 y),
  (.shl, 64, fun x y => low 64 x * 2 ^ (y.toNat % 64)), (.shlW, 32, fun x y => low 32 x * 2 ^ (y.toNat % 32))]

/-- Table 4.4 for a register and an immediate, with the instruction's length. -/
def exactImm (imm : BitVec 14) (n : BitVec 6) (long : BitVec 32) :
    List ((Reg → Reg → Instr) × Nat × Nat × (Word → Int)) := [
  (fun d a => .addImm d a imm, 4, 64, fun x => low 64 x + imm.toInt),
  (fun d a => .addWImm d a imm, 4, 32, fun x => low 32 x + imm.toInt),
  (fun d a => .shlImm d a n, 4, 64, fun x => low 64 x * 2 ^ n.toNat),
  (fun d a => .addl d a long, 8, 64, fun x => low 64 x + long.toInt)]

/-- What stands in gd and FCSR after a result of exact value `e` on `n` bits: wrapped, or clamped under a prefix with
sat, which sets FCSR.SF when the clamp changes the value (R65, R101). -/
def ClampedTo (s t : State) (d : Reg) (n : Nat) (e : Int) : Prop :=
  let r := if satNow s then max (-2 ^ (n - 1)) (min (2 ^ (n - 1) - 1) e) else e
  gOf s t d = (if d = 0 then 0 else (BitVec.ofInt n r).signExtend 64)
  ∧ crOf s t 0x010 = (if r = e then s.arch.fcsr else s.arch.fcsr ||| 0x4000)

/-- One register and an immediate (R102, R103). -/
def oneReg (imm : BitVec 14) (n lenm pos : BitVec 6) : List ((Reg → Reg → Instr) × (Word → Word)) := [
  (fun d a => .bandImm d a imm, fun x => x &&& imm.zeroExtend 64),
  (fun d a => .borImm d a imm, fun x => x ||| imm.zeroExtend 64),
  (fun d a => .bxorImm d a imm, fun x => x ^^^ imm.zeroExtend 64),
  (fun d a => .sltImm d a imm, fun x => if x.toInt < imm.toInt then 1 else 0),
  (fun d a => .sltnImm d a imm, fun x => if x < imm.signExtend 64 then 1 else 0),
  (fun d a => .shrImm d a n, fun x => x >>> n.toNat),
  (fun d a => .sraImm d a n, fun x => x.sshiftRight n.toNat),
  (fun d a => .rolImm d a n, fun x => x.rotateLeft n.toNat),
  (fun d a => .extI d a lenm pos, fun x => ((x >>> pos.toNat).truncate (lenm.toNat + 1)).signExtend 64),
  (fun d a => .extN d a lenm pos, fun x => ((x >>> pos.toNat).truncate (lenm.toNat + 1)).zeroExtend 64)]

/-- The counts and the byte reversal of Table 4.3 on `n` bits, each by what it says of the result. -/
def leadingZeros {n : Nat} (x r : BitVec n) : Prop :=
  r.toNat ≤ n ∧ (∀ i < r.toNat, x.getLsbD (n - 1 - i) = false) ∧ (r.toNat < n → x.getLsbD (n - 1 - r.toNat) = true)
def trailingZeros {n : Nat} (x r : BitVec n) : Prop :=
  r.toNat ≤ n ∧ (∀ i < r.toNat, x.getLsbD i = false) ∧ (r.toNat < n → x.getLsbD r.toNat = true)
def oneBits {n : Nat} (x r : BitVec n) : Prop := r.toNat = ((List.range n).filter fun i => x.getLsbD i).length
def reversed {n : Nat} (x r : BitVec n) : Prop :=
  ∀ i < n / 8, r.extractLsb' (8 * i) 8 = x.extractLsb' (8 * (n / 8 - 1 - i)) 8

/-- A relation on bits 31:0, the result sign-extended. -/
def relW (p : W32 → W32 → Prop) (x r : Word) : Prop := ∃ q : W32, p (x.truncate 32) q ∧ r = q.signExtend 64

def counts : List ((Reg → Reg → Instr) × (Word → Word → Prop)) := [
  (.clz, leadingZeros), (.clzW, relW leadingZeros), (.ctz, trailingZeros), (.ctzW, relW trailingZeros),
  (.pop, oneBits), (.popW, relW oneBits), (.bswap, reversed), (.bswapW, relW reversed)]

/-- Multiplications (R106): width, whether the half is the high one, whether the operands are signed. -/
def multiplies : List ((BitVec 4 → Reg → Reg → Reg → Instr) × Nat × Bool × Bool) := [
  (.mul, 64, false, true), (.mulh, 64, true, true), (.mulhn, 64, true, false),
  (.mulW, 32, false, true), (.mulhW, 32, true, true), (.mulhnW, 32, true, false)]

/-- Divisions: width, signed, remainder. -/
def divisions : List ((BitVec 4 → Reg → Reg → Reg → Instr) × Nat × Bool × Bool) := [
  (.div, 64, true, false), (.divn, 64, false, false), (.rem, 64, true, true), (.remn, 64, false, true),
  (.divW, 32, true, false), (.divnW, 32, false, false), (.remW, 32, true, true), (.remnW, 32, false, true)]

/-- The value of the low `n` bits, signed or not. -/
def value (n : Nat) (signed : Bool) (x : Word) : Int := if signed then low n x else ((x.truncate n : BitVec n).toNat : Int)

/-- DIVZ is enabled (R106): te bit 2 of a prefix whose te is nonzero, else FCSR.IDZ. -/
def divzOn (s : State) : Prop :=
  match (chunkOf s s.cur).pfx with
  | some p => if p.te = 0 then s.arch.fcsr.getLsbD 13 = true else p.te.getLsbD 2 = true
  | none => s.arch.fcsr.getLsbD 13 = true

end Sys2Proof.Claims

open Sys2Proof.Claims

/-- R99, R100, R104: each of the instructions of `twoRegs` completes on operands that can be read, writes its value to gd
and nothing else, and the strand goes on behind it. -/
def Obligations.TwoRegisterResults : Prop :=
  ∀ sh, ∀ p ∈ twoRegs sh, ∀ (s : State) (d a b : Reg), Runs s → Readable s a → Readable s b →
    ∃ t, exec (p.1 d a b) s = .next t
      ∧ gOf s t d = (if d = 0 then 0 else p.2 (s.arch.rg a) (s.arch.rg b))
      ∧ pcOf s t = pcAfter s 4 ∧ Keeps s t { g := [d] }

/-- R99, R100, R101: addition, subtraction and left shift of two registers, wrapping or saturating. -/
def Sys2Proof.Claims.saturatingRegisterResults : Prop :=
  ∀ p ∈ exactTwo, ∀ (s : State) (d a b : Reg), Runs s → Readable s a → Readable s b →
    ∃ t, exec (p.1 d a b) s = .next t ∧ ClampedTo s t d p.2.1 (p.2.2 (s.arch.rg a) (s.arch.rg b))
      ∧ pcOf s t = pcAfter s 4 ∧ Keeps s t { g := [d], cr := [0x010] }

/-- R101, R102, R107: the same with an immediate, `addl` among them. -/
def Sys2Proof.Claims.saturatingImmediateResults : Prop :=
  ∀ imm n long, ∀ p ∈ exactImm imm n long, ∀ (s : State) (d a : Reg), Runs s → Readable s a →
    ∃ t, exec (p.1 d a) s = .next t ∧ ClampedTo s t d p.2.2.1 (p.2.2.2 (s.arch.rg a))
      ∧ pcOf s t = pcAfter s p.2.1 ∧ Keeps s t { g := [d], cr := [0x010] }

/-- R99 to R102, R107, Table 4.4: addition, subtraction and left shift, of registers and of immediates, wrapping or
saturating. -/
def Obligations.SaturatingResults : Prop :=
  saturatingRegisterResults ∧ saturatingImmediateResults

/-- R102, R103: the other immediates and the extraction of bit fields. -/
def Sys2Proof.Claims.immediateResults : Prop :=
  ∀ imm n lenm pos, ∀ p ∈ oneReg imm n lenm pos, ∀ (s : State) (d a : Reg), Runs s → Readable s a →
    ∃ t, exec (p.1 d a) s = .next t ∧ gOf s t d = (if d = 0 then 0 else p.2 (s.arch.rg a))
      ∧ pcOf s t = pcAfter s 4 ∧ Keeps s t { g := [d] }

/-- R99, R100: the counts of leading zeros, trailing zeros and ones, and the byte reversal. -/
def Sys2Proof.Claims.bitCountResults : Prop :=
  ∀ p ∈ counts, ∀ (s : State) (d a : Reg), Runs s → Readable s a →
    ∃ t, exec (p.1 d a) s = .next t ∧ (d ≠ 0 → p.2 (s.arch.rg a) (gOf s t d)) ∧ (d = 0 → gOf s t d = 0)
      ∧ pcOf s t = pcAfter s 4 ∧ Keeps s t { g := [d] }

/-- R99, R100, R102, R103: the instructions of one source register and an immediate, and the counts. -/
def Obligations.OneRegisterResults : Prop :=
  immediateResults ∧ bitCountResults

/-- R99, R100, R103: `sel` and `ins` read gd before they write it. -/
def Sys2Proof.Claims.threeSourceResults : Prop :=
  ∀ (s : State) (d a b : Reg) (lenm pos : BitVec 6), Runs s → Readable s d → Readable s a →
    (Readable s b → ∃ t, exec (.sel d a b) s = .next t
      ∧ gOf s t d = (if d = 0 then 0 else if s.arch.rg d ≠ 0 then s.arch.rg a else s.arch.rg b)
      ∧ pcOf s t = pcAfter s 4 ∧ Keeps s t { g := [d] })
    ∧ (Readable s b → ∃ t, exec (.selW d a b) s = .next t
      ∧ gOf s t d = (if d = 0 then 0
          else if (s.arch.rg d).truncate 32 ≠ (0 : W32) then ((s.arch.rg a).truncate 32).signExtend 64
          else ((s.arch.rg b).truncate 32).signExtend 64)
      ∧ pcOf s t = pcAfter s 4 ∧ Keeps s t { g := [d] })
    ∧ (pos.toNat + lenm.toNat < 64 → ∃ t, exec (.ins d a lenm pos) s = .next t
      ∧ (d ≠ 0 → ∀ i < 64, (gOf s t d).getLsbD i =
          if pos.toNat ≤ i ∧ i ≤ pos.toNat + lenm.toNat then (s.arch.rg a).getLsbD (i - pos.toNat)
          else (s.arch.rg d).getLsbD i)
      ∧ pcOf s t = pcAfter s 4 ∧ Keeps s t { g := [d] })

/-- R105: `lpc gd, label` is encoded as off19, d, 001110, 00 and computes gd ← PC + sext(off19, 64) × 4, where PC is the
address of the `lpc` itself (no prefix may stand before it, R101). -/
def Obligations.LpcAddsOffset : Prop :=
  ∀ (s : State) (d : Reg) (off : BitVec 19), Runs s → NoPrefix s →
    encode (.lpc d off) = [off ++ d ++ (0b001110 : BitVec 6) ++ (0 : BitVec 2)]
    ∧ ∃ t, exec (.lpc d off) s = .next t ∧ gOf s t d = (if d = 0 then 0 else s.arch.pc + off.signExtend 64 * 4)
      ∧ pcOf s t = s.arch.pc + 4 ∧ Keeps s t { g := [d] }

/-- R107: the long immediates. `lih` reads gd; `addl` saturates under a prefix (`saturatingImmediateResults`). -/
def Sys2Proof.Claims.longImmediates : Prop :=
  ∀ (s : State) (d a : Reg), Runs s →
    (∀ imm : BitVec 46, ∃ t, exec (.li d imm) s = .next t ∧ gOf s t d = (if d = 0 then 0 else imm.signExtend 64)
      ∧ pcOf s t = pcAfter s 8 ∧ Keeps s t { g := [d] })
    ∧ (∀ imm : BitVec 32, Readable s d → ∃ t, exec (.lih d imm) s = .next t
      ∧ gOf s t d = (if d = 0 then 0 else imm ++ (s.arch.rg d).extractLsb' 0 32)
      ∧ pcOf s t = pcAfter s 8 ∧ Keeps s t { g := [d] })
    ∧ (∀ imm : BitVec 32, Readable s a → ∃ t, exec (.addl d a imm) s = .next t
      ∧ ClampedTo s t d 64 ((s.arch.rg a).toInt + imm.toInt)
      ∧ pcOf s t = pcAfter s 8 ∧ Keeps s t { g := [d], cr := [0x010] })

/-- R99, R100, R103, R107: `sel`, `ins`, and the long immediates. -/
def Obligations.ThreeSourceAndLongResults : Prop :=
  threeSourceResults ∧ longImmediates

/-- R106, R101: the product of two registers, its low half (clamped under sat) or its high half, reaches gd at once or
when the window ends. -/
def Sys2Proof.Claims.multiplyResults : Prop :=
  ∀ p ∈ multiplies, ∀ (s : State) (look : BitVec 4) (d a b : Reg), Runs s → Readable s a → Readable s b →
    let n := p.2.1
    let e := value n p.2.2.2 (s.arch.rg a) * value n p.2.2.2 (s.arch.rg b)
    let r := if p.2.2.1 then e / 2 ^ n else if satNow s then max (-2 ^ (n - 1)) (min (2 ^ (n - 1) - 1) e) else e
    ∃ t, exec (p.1 look d a b) s = .next t ∧ GetsG s t d ((BitVec.ofInt n r).signExtend 64) look
      ∧ crOf s t 0x010 = (if p.2.2.1 = false ∧ r ≠ e then s.arch.fcsr ||| 0x4000 else s.arch.fcsr)
      ∧ pcOf s t = pcAfter s 4 ∧ Keeps s t { g := [d], cr := [0x010] }

/-- R66, R106, Table 3.1: quotient truncated toward zero and remainder with the sign of the dividend; a divisor of zero
gives all ones and the dividend; −2^(N−1) ÷ −1 is clamped under sat. -/
def Sys2Proof.Claims.divideResults : Prop :=
  ∀ p ∈ divisions, ∀ (s : State) (look : BitVec 4) (d a b : Reg), Runs s → Readable s a → Readable s b →
    let n := p.2.1
    let x := value n p.2.2.1 (s.arch.rg a)
    let y := value n p.2.2.1 (s.arch.rg b)
    let clamped := satNow s = true ∧ p.2.2.1 = true ∧ p.2.2.2 = false ∧ x = -2 ^ (n - 1) ∧ y = -1
    let r := if y = 0 then (if p.2.2.2 then x else -1)
      else if p.2.2.2 then x.tmod y else if clamped then 2 ^ (n - 1) - 1 else x.tdiv y
    ¬ (y = 0 ∧ divzOn s) →
    ∃ t, exec (p.1 look d a b) s = .next t ∧ GetsG s t d ((BitVec.ofInt n r).signExtend 64) look
      ∧ crOf s t 0x010 = (if clamped then s.arch.fcsr ||| 0x4000 else s.arch.fcsr)
      ∧ pcOf s t = pcAfter s 4 ∧ Keeps s t { g := [d], cr := [0x010] }

/-- R106: a divisor of zero raises DIVZ, SUB 0 and TRAPVAL 0, when the trap is enabled. -/
def Sys2Proof.Claims.divideByZeroTraps : Prop :=
  ∀ p ∈ divisions, ∀ (s : State) (look : BitVec 4) (d a b : Reg), Runs s → Readable s a → Readable s b →
    value p.2.1 p.2.2.1 (s.arch.rg b) = 0 → divzOn s → Traps (p.1 look d a b) s 9 0 0

/-- R66, R101, R106, Table 3.1: products, quotients, remainders, and the trap of a zero divisor. -/
def Obligations.MultiplyAndDivide : Prop :=
  multiplyResults ∧ divideResults ∧ divideByZeroTraps

/-! ## Scalar memory and control (chapter 04) -/

namespace Sys2Proof.Claims

/-- Table 4.5: size and sign. -/
def loads : List ((BitVec 4 → Reg → Reg → BitVec 10 → Instr) × Nat × Bool) := [
  (.ldI8, 1, true), (.ldN8, 1, false), (.ldI16, 2, true), (.ldN16, 2, false), (.ldI32, 4, true), (.ldN32, 4, false),
  (.ld64, 8, false)]

/-- Stores by size (R110). -/
def stores : List ((Reg → Reg → BitVec 14 → Instr) × Nat) := [(.st8, 1), (.st16, 2), (.st32, 4), (.st64, 8)]

/-- A loaded value extended to 64 bits. -/
def extend (n : Nat) (signed : Bool) (bs : List Byte) : Word :=
  if signed then (BitVec.ofNat (8 * n) (leNat bs)).signExtend 64 else BitVec.ofNat 64 (leNat bs)

/-- Each branch condition of Table 4.6. -/
def taken (c : Cond) (x y : Word) : Prop :=
  match c with
  | .eq => x = y | .ne => x ≠ y | .lt => x.toInt < y.toInt | .ge => y.toInt ≤ x.toInt | .ltn => x < y | .gen => y ≤ x

end Sys2Proof.Claims

/-- R108, R109: a scalar load whose address passes the checks and whose access answers bytes `bs` writes them, extended,
to gd at once or when its window ends. `ReadBytes` says which bytes the access answers. -/
def Sys2Proof.Claims.loadResults : Prop :=
  ∀ p ∈ loads, ∀ (s u : State) (look : BitVec 4) (d a : Reg) (imm : BitVec 10) (bs : List Byte),
    Runs s → Readable s a →
    let ea := s.arch.rg a + imm.signExtend 64 * BitVec.ofNat 64 p.2.1
    ScalarOk s ea p.2.1 → loadAt (begun s) ea p.2.1 = .ok (bs, u) →
    ∃ t, exec (p.1 look d a imm) s = .next t ∧ GetsG s t d (extend p.2.1 p.2.2 bs) look
      ∧ pcOf s t = pcAfter s 4 ∧ (Alone s → Keeps s t { g := [d] })

/-- R111: `ldp` loads two dwords of one sector, the one at the address to gd and the next to gb. -/
def Sys2Proof.Claims.loadPairResults : Prop :=
  ∀ (s u : State) (look : BitVec 4) (d a b : Reg) (off : BitVec 5) (bs : List Byte),
    Runs s → Readable s a → (d ≠ b ∨ d = 0) →
    let ea := s.arch.rg a + off.signExtend 64 * 16
    ScalarOk s ea 16 → loadAt (begun s) ea 16 = .ok (bs, u) →
    ∃ t, exec (.ldp look d a b off) s = .next t
      ∧ GetsG s t d (BitVec.ofNat 64 (leNat (bs.take 8))) look ∧ GetsG s t b (BitVec.ofNat 64 (leNat (bs.drop 8))) look
      ∧ pcOf s t = pcAfter s 4 ∧ (Alone s → Keeps s t { g := [d, b] })

/-- R108, R109, R111: loads of one register and of two. -/
def Obligations.ScalarLoads : Prop :=
  loadResults ∧ loadPairResults

/-- R110, R111: a scalar store whose address passes the checks and whose access completes writes the low bytes of gd (of
gd and gb for `stp`), low byte first, and nothing else; every register stays. The strand sees them at once. -/
def Obligations.StoreResults : Prop :=
  (∀ p ∈ stores, ∀ (s u : State) (d a : Reg) (imm : BitVec 14), s.Inv → Runs s → Readable s a → Readable s d →
    let ea := s.arch.rg a + imm.signExtend 64
    ScalarOk s ea p.2 → storeAt (begun s) ea (leBytes p.2 (s.arch.rg d).toNat) = .ok u →
    ∃ t, exec (p.1 d a imm) s = .next t
      ∧ (∀ i < p.2, byteAt (begun s) t ea .write i = some ((s.arch.rg d).extractLsb' (8 * i) 8))
      ∧ pcOf s t = pcAfter s 4 ∧ (Alone s → Keeps s t (storeTo (begun s) ea p.2)))
  ∧ ∀ (s u : State) (d a b : Reg) (off : BitVec 5), s.Inv → Runs s → Readable s a → Readable s d → Readable s b →
    let ea := s.arch.rg a + off.signExtend 64 * 16
    ScalarOk s ea 16 → storeAt (begun s) ea (leBytes 8 (s.arch.rg d).toNat ++ leBytes 8 (s.arch.rg b).toNat) = .ok u →
    ∃ t, exec (.stp d a b off) s = .next t
      ∧ (∀ i < 8, byteAt (begun s) t ea .write i = some ((s.arch.rg d).extractLsb' (8 * i) 8)
          ∧ byteAt (begun s) t ea .write (8 + i) = some ((s.arch.rg b).extractLsb' (8 * i) 8))
      ∧ pcOf s t = pcAfter s 4 ∧ (Alone s → Keeps s t (storeTo (begun s) ea 16))

/-- R109, R113, R227: a read of plain local or host memory by a strand that no watchpoint concerns returns, byte by byte,
the newest store of the strand's own chunks, else the committed byte; the translation and the permission of R108 hold. -/
def Sys2Proof.Claims.globalReads : Prop :=
  ∀ (s u : State) (ea : Word) (n : Nat) (p : Spot), placeOf ea = .paged → s.me.opened.isSome = true →
    resolveOwn s ea .read false = .ok (p, u) →
    leafTier p.leaf ≠ 2 → s.chunk.watches = [] → s.chunk.solo = false → bits p.leaf 15 8 = 0 → fget s.tags 0 (p.key / 64) = 0 →
    (∀ i < n, poisonedAt s (p.key + i) = false) → (∀ ch ∈ s.me.chunks, ch.taint = []) → (p.key + n - 1) / 64 = p.key / 64 →
    ∃ v, loadAt s ea n = .ok ((upto 0 n).map (fun i => (ownByte s.me (p.sig + i)).getD (s.mem.read (p.key + i))), v)

/-- R109, R14: a read of the core's own scratchpad, without another strand's chunk in the way and without poison,
returns the bytes of the pool. -/
def Sys2Proof.Claims.scratchpadReads : Prop :=
  ∀ (s : State) (ea : Word) (n off : Nat), placeOf ea = .scratch off → s.me.opened.isSome = true → 0 < n →
    s.chunk.watches = [] → Alone s → poolBadIn s off n = false →
    ∃ v, loadAt s ea n = .ok ((upto off n).map (fun k => poolByte s s.cur.core k), v)

namespace Sys2Proof.Claims

/-- A scalar access of `n` bytes may not go to this address (R36, R108 item 2): an address outside the windows, the global
scratchpad window, one beyond SPKIB, and for a load the counter window, where it is not `ld.64`. -/
def ScalarShut (s : State) (ea : Word) (n : Nat) (write ld64 : Bool) : Prop :=
  placeOf ea = .nowhere ∨ (∃ l off, placeOf ea = .remote l off)
  ∨ (∃ off, placeOf ea = .scratch off ∧ (s.core s.cur.core).spBytes < off + n)
  ∨ (write = false ∧ ld64 = false ∧ ∃ l off, placeOf ea = .counter l off)

/-- What the checks of R108 raise for a scalar access, in their order: code, SUB and TRAPVAL. -/
def ScalarFails (s : State) (ea : Word) (n : Nat) (write ld64 : Bool) (x : Nat × Nat × Word) : Prop :=
  (bits ea 63 60 ≠ 0 ∧ x = (5, 0, ea))
  ∨ (bits ea 63 60 = 0 ∧ ScalarShut s ea n write ld64 ∧ x = (5, 0, ea))
  ∨ (bits ea 63 60 = 0 ∧ write = true ∧ (∃ l off, placeOf ea = .counter l off) ∧ x = (7, 1, ea))
  ∨ (bits ea 63 60 = 0 ∧ ¬ ScalarShut s ea n write ld64 ∧ ¬ (write = true ∧ ∃ l off, placeOf ea = .counter l off)
      ∧ ea.toNat % n ≠ 0 ∧ x = (4, 0, ea))
  ∨ (bits ea 63 60 = 0 ∧ placeOf ea = .paged ∧ ea.toNat % n = 0
      ∧ ∃ e, resolveOwn s ea (if write then .write else .read) false = .error e ∧ x = (e.1, e.2, ea))

end Sys2Proof.Claims

/-- R108: the checks of a scalar access and their order: ADDR for a pointer with bits 63:60 set, for an address outside
the windows, in the global scratchpad window, beyond SPKIB, or in the counter window (a store there raises PROT, SUB 1);
then MISALIGN, inside the windows too; then what the translation raises. TRAPVAL is the address. -/
def Obligations.ScalarAccessTraps : Prop :=
  ∀ (s : State) (look : BitVec 4) (d a b : Reg) (imm : BitVec 10) (imm14 : BitVec 14) (off : BitVec 5)
    (x : Nat × Nat × Word), Runs s → Readable s a →
    (∀ p ∈ loads, ScalarFails (begun s) (s.arch.rg a + imm.signExtend 64 * BitVec.ofNat 64 p.2.1) p.2.1 false (p.2.1 == 8) x →
      Traps (p.1 look d a imm) s x.1 x.2.1 x.2.2)
    ∧ (ScalarFails (begun s) (s.arch.rg a + off.signExtend 64 * 16) 16 false false x →
      Traps (.ldp look d a b off) s x.1 x.2.1 x.2.2)
    ∧ (Readable s d →
      (∀ p ∈ stores, ScalarFails (begun s) (s.arch.rg a + imm14.signExtend 64) p.2 true false x →
        Traps (p.1 d a imm14) s x.1 x.2.1 x.2.2)
      ∧ (Readable s b → ScalarFails (begun s) (s.arch.rg a + off.signExtend 64 * 16) 16 true false x →
        Traps (.stp d a b off) s x.1 x.2.1 x.2.2))

/-- R112: `ld.64` in the counter window returns a counter that a launch of the strand's context claims, and raises ADDR,
SUB 2, for a core that no launch claims and no queue holds. -/
def Sys2Proof.Claims.counterSnapshots : Prop :=
  ∀ (s : State) (look : BitVec 4) (d a : Reg) (imm : BitVec 10) (l off : Nat), Runs s → Readable s a →
    let ea := s.arch.rg a + imm.signExtend 64 * 8
    bits ea 63 60 = 0 → placeOf ea = .counter l off → ea.toNat % 8 = 0 → (s.die (dieOf l)).lost = false →
    (s.core l).husked = [] →
    (claims s (s.ctx s.cur) l = true → fget (s.core l).ctrBad false (off / 8) = false →
      ∃ t, exec (.ld64 look d a imm) s = .next t ∧ GetsG s t d (fget (s.core l).ctr 0 (off / 8)) look
        ∧ pcOf s t = pcAfter s 4 ∧ Keeps s t { g := [d] })
    ∧ (claims s (s.ctx s.cur) l = false → holds s (s.ctx s.cur) l = false → Traps (.ld64 look d a imm) s 5 2 ea)

/-- R14, R109, R112, R113, R227: which bytes a read answers: of global memory, of the scratchpad, of the counter window. -/
def Obligations.ReadBytes : Prop :=
  globalReads ∧ scratchpadReads ∧ counterSnapshots

/-- R114, R117: a compare and branch goes to its own address plus the offset in words when the condition of Table 4.6
holds, else to the next instruction; it writes no register. -/
def Sys2Proof.Claims.branchResults : Prop :=
  ∀ (s : State) (c : Cond) (a b : Reg), Runs s → Readable s a → Readable s b → NoPrefix s →
    (∀ off : BitVec 11, ∃ t, exec (.bCc c a b off) s = .next t ∧ Keeps s t {}
      ∧ (taken c (s.arch.rg a) (s.arch.rg b) → pcOf s t = s.arch.pc + off.signExtend 64 * 4)
      ∧ (¬ taken c (s.arch.rg a) (s.arch.rg b) → pcOf s t = s.arch.pc + 4))
    ∧ ∀ off : BitVec 32, ∃ t, exec (.bCcLong c a b off) s = .next t ∧ Keeps s t {}
      ∧ (taken c (s.arch.rg a) (s.arch.rg b) → pcOf s t = s.arch.pc + off.signExtend 64 * 4)
      ∧ (¬ taken c (s.arch.rg a) (s.arch.rg b) → pcOf s t = s.arch.pc + 8)

/-- R115: `dbnz` (major 0x21, format B, cond and b zero) computes t ← ga − 1, writes t to ga, and branches as `b.cc` does
when t ≠ 0; with ga = g0 the write is discarded and the branch is always taken. -/
def Obligations.DbnzCountsDown : Prop :=
  ∀ (s : State) (a : Reg) (off : BitVec 11), Runs s → Readable s a → NoPrefix s →
    encode (.dbnz a off) = [off ++ (0 : BitVec 3) ++ a ++ (0 : BitVec 5) ++ (0x21 : BitVec 6) ++ (0 : BitVec 2)]
    ∧ ∃ t, exec (.dbnz a off) s = .next t ∧ Keeps s t { g := [a] }
      ∧ gOf s t a = (if a = 0 then 0 else s.arch.rg a - 1)
      ∧ pcOf s t = (if s.arch.rg a - 1 = 0 then s.arch.pc + 4 else s.arch.pc + off.signExtend 64 * 4)

/-- R116, R117: jumps set the pc, calls first write the address of the next instruction to g31, and `callr g31` jumps to
the old g31; a register target with bits 1:0 set raises MISALIGN at the jump itself. -/
def Sys2Proof.Claims.jumpResults : Prop :=
  ∀ (s : State), Runs s → NoPrefix s →
    (∀ off : BitVec 24,
      (∃ t, exec (.j off) s = .next t ∧ Keeps s t {} ∧ pcOf s t = s.arch.pc + off.signExtend 64 * 4)
      ∧ ∃ t, exec (.call off) s = .next t ∧ Keeps s t { g := [31] } ∧ gOf s t 31 = s.arch.pc + 4
        ∧ pcOf s t = s.arch.pc + off.signExtend 64 * 4)
    ∧ (∀ off : BitVec 32,
      (∃ t, exec (.jLong off) s = .next t ∧ Keeps s t {} ∧ pcOf s t = s.arch.pc + off.signExtend 64 * 4)
      ∧ ∃ t, exec (.callLong off) s = .next t ∧ Keeps s t { g := [31] } ∧ gOf s t 31 = s.arch.pc + 8
        ∧ pcOf s t = s.arch.pc + off.signExtend 64 * 4)
    ∧ ∀ a, Readable s a →
      ((s.arch.rg a).toNat % 4 = 0 →
        (∃ t, exec (.jr a) s = .next t ∧ Keeps s t {} ∧ pcOf s t = s.arch.rg a)
        ∧ ∃ t, exec (.callr a) s = .next t ∧ Keeps s t { g := [31] } ∧ gOf s t 31 = s.arch.pc + 4
          ∧ pcOf s t = s.arch.rg a)
      ∧ ((s.arch.rg a).toNat % 4 ≠ 0 →
        Traps (.jr a) s 4 0 (s.arch.rg a) ∧ Traps (.callr a) s 4 0 (s.arch.rg a))

/-- R114, R116, R117: where the pc goes. -/
def Obligations.BranchesAndJumps : Prop :=
  branchResults ∧ jumpResults

/-! ## Prefix and windows (chapter 02) -/

/-- R46 to R49: a prefix word before a word that takes it waits for that word, with which it makes one instruction:
nothing else changes. Before a word that takes none it raises ORPHANPFX with the following word in TRAPVAL; where the pair
fails another check, ILLOP with the offending word, bit 32 marking the second (R57). -/
def Obligations.PrefixWaitsForItsWord : Prop :=
  ∀ (s u : State) (p : Pfx) (w : W32), Runs s → fetchWord (begun s) s.cur (s.arch.pc + 4) = .ok (w, u) →
    (pairCheck p w (accOk (s.core s.cur.core).nacc) = .ok →
      ∃ t, exec (.pfx p) s = .next t ∧ (chunkOf t s.cur).pfx = some p ∧ (chunkOf t s.cur).pair = some w
        ∧ (chunkOf t s.cur).retired = (chunkOf s s.cur).retired ∧ pcOf s t = s.arch.pc ∧ Keeps s t {})
    ∧ (pairCheck p w (accOk (s.core s.cur.core).nacc) = .orphan → Traps (.pfx p) s 3 0 (w.zeroExtend 64))
    ∧ ∀ sub second, pairCheck p w (accOk (s.core s.cur.core).nacc) = .illop sub second →
        exec (.pfx p) s = .next (raiseSync (begun s) s.cur
          ⟨1, sub, if second then (1 : BitVec 32) ++ w else ((encode (.pfx p)).headD 0).zeroExtend 64⟩)

/-- R45: a result with look value n ≥ 1 reaches its register when n instructions have retired, unless a younger write
of the register came first; each instruction that retires brings every open window one nearer to its end. -/
def Obligations.WindowsCountDown : Prop :=
  ∀ (x : Fx) (c : Sid) (len : Nat), x.late = [] →
    (∀ l ∈ (chunkOf x.s c).late, l.left ≠ 0 → (∀ m ∈ (chunkOf x.s c).late, m.reg = l.reg → m = l) →
      { l with left := l.left - 1 } ∈ (resultsOf x c).2)
    ∧ (∀ (r : Reg) (l : Late), (chunkOf x.s c).late = [l] → l.left = 0 → l.reg = r.toNat → r ≠ 0 →
        ((retire x c len).strand c).arch.rg r = l.val.truncate 64)

/-- R338: a poisoned register that an instruction reads raises MCHK, SUB 0, with the register's number in TRAPVAL; the
same holds of every instruction that reads registers, shown for `add`. -/
def Sys2Proof.Claims.poisonedRegisterTraps : Prop :=
  ∀ (s : State) (d a b : Reg), Runs s →
    (¬ Readable s a → Traps (.add d a b) s 0x12 0 (a.zeroExtend 64))
    ∧ (Readable s a → ¬ Readable s b → Traps (.add d a b) s 0x12 0 (b.zeroExtend 64))

/-! ## Exceptions (chapters 01, 07, 13) -/

/-- R330: taking a trap, whatever raised it: the trap registers, level S, the pc at TVEC; it releases nothing. (R333: while
TVEC is 0 the strand stops instead. R334: CAUSE.FIRST.)
Model's choices among these: log entry 84. -/
def Obligations.TrapEntry : Prop :=
  ∀ (s : State) (c : Sid) (x : Trap) (pc : Word), Entered s (enterTrap s c x pc) c x pc

/-- R331: a synchronous trap at a chunk boundary with no chunk before it that awaits its grant is taken at once, with
TRAPPC at the instruction. A BRK on an armed core is no trap (`armedBreakpointStops`). -/
def Sys2Proof.Claims.syncTrapAtBoundary : Prop :=
  ∀ (s : State) (x : Trap), Runs s → AtBoundary s → ¬ (x.code = 0x0D ∧ (s.core s.cur.core).armBrk = true) →
    Entered s (raiseSync (begun s) s.cur x) s.cur x s.arch.pc

/-- R331, R205: a synchronous trap later in a chunk squashes it to its start state, its stores, its pool writes and its
operations with it, and the chunk runs again in stepping mode, SQCNT unchanged; in stepping mode the chunk ends before the
instruction and the trap follows once the chunk is granted. -/
def Sys2Proof.Claims.syncTrapLaterStepsAgain : Prop :=
  ∀ (s : State) (x : Trap) (ch : Chunk), (s.strand s.cur).opened = some ch → ch.held = false → ch.retired ≠ 0 →
    ch.badShadow = false → s.me.waiting = [] →
    (ch.stepping = false →
      let t := raiseSync s s.cur x
      (t.strand s.cur).arch = ch.start ∧ (t.strand s.cur).opened = none ∧ (t.strand s.cur).waiting = []
      ∧ (t.strand s.cur).stepping = true ∧ (t.strand s.cur).sqcnt = s.me.sqcnt ∧ (t.strand s.cur).quantum = ch.quantum
      ∧ (t.core s.cur.core).pool = (undoPool ((s.core s.cur.core).pool, (s.core s.cur.core).poolBad) ch.undo).1)
    ∧ (ch.stepping = true →
      let t := raiseSync s s.cur x
      (t.strand s.cur).opened = none ∧ (t.strand s.cur).sync = some x
      ∧ (t.strand s.cur).waiting.length = 1 ∧ (t.strand s.cur).arch.pc = s.arch.pc ∧ t.mem = s.mem)

/-- R216, R330, R331: `trap n` and `brk n` at a chunk boundary enter the handler, with TRAPPC at the instruction (`brk` on
a core that is not armed). -/
def Sys2Proof.Claims.softwareTrapsEnter : Prop :=
  ∀ (s : State) (n : BitVec 5), Runs s → AtBoundary s →
    (∃ t, exec (.trap n) s = .next t ∧ Entered s t s.cur ⟨0x0E, 0, n.zeroExtend 64⟩ s.arch.pc)
    ∧ ((s.core s.cur.core).armBrk = false →
      ∃ t, exec (.brk n) s = .next t ∧ Entered s t s.cur ⟨0x0D, 0, n.zeroExtend 64⟩ s.arch.pc)

/-- R205, R331, R338: a synchronous trap, at a chunk boundary and later in a chunk; the entries of `trap` and `brk`; and
the trap of a poisoned register.
Model's choices among these: log entry 93. -/
def Obligations.SyncTraps : Prop :=
  syncTrapAtBoundary ∧ syncTrapLaterStepsAgain ∧ softwareTrapsEnter ∧ poisonedRegisterTraps

/-- R216: `nop` has no effect; `trap n` and `brk n` raise their synchronous traps with SUB 0 and TRAPVAL n. -/
def Sys2Proof.Claims.trapAndBreakpoint : Prop :=
  ∀ (s : State) (n : BitVec 5), Runs s →
    (∃ t, exec .nop s = .next t ∧ Releases s t [] ∧ pcOf s t = pcAfter s 4 ∧ Keeps s t {})
    ∧ Traps (.trap n) s 0x0E 0 (n.zeroExtend 64) ∧ Traps (.brk n) s 0x0D 0 (n.zeroExtend 64)

/-- R216, R352: on a core that the debug unit has armed, `brk` stops the strand at the boundary, its registers and pc as
they are, with a debug record of reason 1. -/
def Sys2Proof.Claims.armedBreakpointStops : Prop :=
  ∀ (s : State) (n : BitVec 5), Runs s → AtBoundary s → (s.core s.cur.core).armBrk = true →
    ∃ t, exec (.brk n) s = .next t ∧ (t.strand s.cur).stopped = true ∧ (t.strand s.cur).arch = s.arch
      ∧ (t.strand s.cur).opened = none ∧ t.mem = s.mem
      ∧ (s.dbg.records.length < 256 → ∃ r, t.dbg.records = s.dbg.records ++ [r] ∧ r.length = 6
          ∧ (r.getD 1 0).extractLsb' 56 8 = 1 ∧ r.getD 3 0 = s.arch.pc)

/-- R216, R352: `nop`, `trap`, and `brk` on a core that is armed or not. -/
def Obligations.TrapAndBreakInstructions : Prop :=
  trapAndBreakpoint ∧ armedBreakpointStops

/-- R217, R22: `tret` sets PRIV to CAUSE.PPRIV and PC to TRAPPC and ends its chunk; the first-fault latch empties when that
chunk commits (R334). In U it raises PRIV. -/
def Obligations.TrapReturn : Prop :=
  ∀ s : State, Runs s →
    (s.arch.priv = true → (chunkOf s s.cur).held = false →
      ∃ t, exec .tret s = .next t ∧ pcOf s t = s.arch.cr' 2
        ∧ (t.strand s.cur).arch.priv = (s.arch.cr' 1).getLsbD 13
        ∧ EndsChunk s t .ready none none ∧ Releases s t [.tret] ∧ Keeps s t { level := true })
    ∧ (s.arch.priv = false → Traps .tret s 2 0 0x010000E1)

namespace Sys2Proof.Claims

/-- The instructions that level U may not run (R34, R21): the registers that U may not read, and those that it may not
write although they have writable bits. -/
def privileged (a b : Reg) (n : BitVec 12) : List (Instr × Prop) := [
  (.tret, True), (.halt, True), (.kset a b, True), (.linv a, True), (.tlbinv a, True), (.hsave a, True), (.hload a, True),
  (.ceJoin a, True),
  (.sget n a, 0x001 ≤ n.toNat ∧ n.toNat ≤ 0x005),
  (.sset n a, n = 0x000 ∨ (0x001 ≤ n.toNat ∧ n.toNat ≤ 0x005) ∨ n = 0x020)]

end Sys2Proof.Claims

/-- R34: in U each privileged instruction raises PRIV, SUB 0, with its word in TRAPVAL, whatever its operands, and has no
effect. -/
def Obligations.PrivilegedTrapsInUser : Prop :=
  ∀ (s : State) (a b : Reg) (n : BitVec 12), Runs s → s.arch.priv = false →
    ∀ p ∈ privileged a b n, p.2 → Traps p.1 s 2 0 (((encode p.1).headD 0).zeroExtend 64)

/-- R57, R58: a word that is no instruction raises ILLOP with its subcode and the word; a fetch that faults raises that
fault with the address, except at the first instruction of a handler, where the strand stops (R333).
Model's choices among these: log entry 84. -/
def Obligations.FetchTraps : Prop :=
  ∀ (s : State) (sub : BitVec 4) (val : Word) (cause : BitVec 8), s.me.run ≠ .none → AtBoundary s →
    (∃ t, exec (.unallocatedEncoding sub val) s = .next t ∧ Entered s t s.cur ⟨0x01, sub, val⟩ s.arch.pc)
    ∧ (cause ≠ 0x0D → s.me.handler = false →
      ∃ t, exec (.instructionFetchFault cause sub val) s = .next t ∧ Entered s t s.cur ⟨cause, sub, val⟩ s.arch.pc)
    ∧ (s.me.handler = true → ∃ t, exec (.instructionFetchFault cause sub val) s = .next t
        ∧ (t.strand s.cur).run = .halted true ∧ (t.strand s.cur).arch = s.arch ∧ t.mem = s.mem)

/-! ## Synchronisation, engines, system instructions (chapter 07) -/

namespace Sys2Proof.Claims

/-- A valid counter handle (R193). -/
def Handle (h : Word) : Prop := (handleOf h).isSome = true

/-- Bytes of a width field. -/
def widthOf : Size → Nat
  | .b8 => 1 | .b16 => 2 | .b32 => 4 | .b64 => 8

/-- A valid remote address of `n` bytes (R200). -/
def Remote (ea : Word) (n : Nat) : Prop :=
  bits ea 63 60 = 0 ∧ (∃ l off, placeOf ea = .remote l off) ∧ ea.toNat % n = 0

/-- Posted atomics: the number of the combination. -/
def posted : List ((PTy → Reg → Reg → Instr) × BitVec 2) := [(.padd, 0), (.pmin, 1), (.pmax, 2), (.por, 3)]

/-- The number by which a go operation is known: core, strand, xe.seq (R208). -/
def goNumber (s : State) : Word := goIdent (issuerOf s s.cur) s.arch

/-- The pointers and handles that ce.go checks, R211, and those of xe.go, R208. -/
def xeReady (a : Arch) : Prop :=
  engPointerOk (a.re 0x100) = true ∧ engPointerOk (a.re 0x101) = true
  ∧ engHandleOk (a.re 0x106) = true ∧ engHandleOk (a.re 0x108) = true
def ceReady (a : Arch) : Prop :=
  bits (a.re 0x200) 3 0 ≤ 4 ∧ bits (a.re 0x200) 7 4 ≤ 2 ∧ engPointerOk (a.re 0x201) = true
  ∧ engPointerOk (a.re 0x202) = true ∧ bits (a.re 0x203) 31 0 ≠ 0 ∧ bits (a.re 0x204) 2 0 ≤ 4
  ∧ bits (a.re 0x206) 1 0 ≤ 3 ∧ engHandleOk (a.re 0x207) = true

end Sys2Proof.Claims

/-- R194, R198: counter operations that return nothing leave every register as it is, go on, and are released with the
chunk; a handle outside the counter window raises ADDR, a misaligned one MISALIGN (R193). `kset` needs level S. -/
def Sys2Proof.Claims.counterOperations : Prop :=
  ∀ (s : State) (a b : Reg) (imm : BitVec 32), Runs s → Readable s a → Readable s b →
    (Handle (s.arch.rg a) →
      (∃ t, exec (.kadd a b) s = .next t ∧ Releases s t [.add (s.arch.rg a) (bits (s.arch.rg b) 31 0)]
        ∧ pcOf s t = pcAfter s 4 ∧ Keeps s t {})
      ∧ (∃ t, exec (.kaddi a imm) s = .next t ∧ Releases s t [.add (s.arch.rg a) imm.toNat]
        ∧ pcOf s t = pcAfter s 8 ∧ Keeps s t {})
      ∧ (s.arch.priv = true → ∃ t, exec (.kset a b) s = .next t ∧ Releases s t [.set (s.arch.rg a) (s.arch.rg b)]
        ∧ pcOf s t = pcAfter s 4 ∧ Keeps s t {}))
    ∧ (bits (s.arch.rg a) 63 60 ≠ 0 → Traps (.kadd a b) s 5 0 (s.arch.rg a))
    ∧ (∀ l off, bits (s.arch.rg a) 63 60 = 0 → placeOf (s.arch.rg a) = .counter l off → off % 8 ≠ 0 →
        Traps (.kadd a b) s 4 0 (s.arch.rg a))

/-- R195, R196, R197: `kwait` and `kdraw` end their chunk, release their request and wait; `kread` reads the counter and
goes on; an odd index of `kdraw` raises ADDR. -/
def Sys2Proof.Claims.counterWaits : Prop :=
  ∀ (s : State) (look : BitVec 4) (d a b : Reg) (l i : Nat), Runs s → Readable s a → Readable s b →
    handleOf (s.arch.rg a) = some (l, i) →
    ((chunkOf s s.cur).held = false → ∃ t, exec (.kwait a b) s = .next t
      ∧ Releases s t [.arm (s.arch.rg a) (s.arch.rg b) s.arch.pc]
      ∧ EndsChunk s t .kwait none (some ⟨s.arch.rg a, s.arch.rg b, s.arch.pc⟩)
      ∧ pcOf s t = pcAfter s 4 ∧ Keeps s t {})
    ∧ ((chunkOf s s.cur).held = false → (s.arch.rg a).getLsbD 3 = false → ∃ t, exec (.kdraw look d a) s = .next t
      ∧ Releases s t [.draw (s.arch.rg a) s.arch.pc] ∧ EndsChunk s t .result (some ⟨d.toNat, none⟩) none
      ∧ pcOf s t = pcAfter s 4 ∧ Keeps s t {})
    ∧ ((chunkOf s s.cur).held = false → (s.arch.rg a).getLsbD 3 = true → Traps (.kdraw look d a) s 5 0 (s.arch.rg a))
    ∧ (claims s (s.ctx s.cur) l = true → (s.core l).husked = [] → fget (s.core l).ctrBad false i = false →
      (s.die (dieOf l)).lost = false →
      ∃ t, exec (.kread look d a) s = .next t ∧ GetsG s t d (fget (s.core l).ctr 0 i) look
        ∧ pcOf s t = pcAfter s 4 ∧ Keeps s t { g := [d] })

/-- R193: a handle with bits 63:60 set or outside the counter window raises ADDR, one that is no multiple of 8 MISALIGN. -/
def Sys2Proof.Claims.BadHandleTraps (s : State) (i : Instr) (h : Word) : Prop :=
  (bits h 63 60 ≠ 0 → Traps i s 5 0 h)
  ∧ (bits h 63 60 = 0 → (∀ l off, placeOf h ≠ .counter l off) → Traps i s 5 0 h)
  ∧ ∀ l off, bits h 63 60 = 0 → placeOf h = .counter l off → off % 8 ≠ 0 → Traps i s 4 0 h

/-- R193, R196, R198: the handle checks of every instruction on counters; and the reads that a core refuses: one that no
launch and no queue of the context has (ADDR, SUB 2), one of a lost die, a poisoned counter. -/
def Sys2Proof.Claims.counterTraps : Prop :=
  ∀ (s : State) (look : BitVec 4) (d a b : Reg) (imm : BitVec 32), Runs s → Readable s a → Readable s b →
    let h := s.arch.rg a
    (∀ i ∈ [Instr.kadd a b, .kaddi a imm, .kread look d a], BadHandleTraps s i h)
    ∧ (s.arch.priv = true → BadHandleTraps s (.kset a b) h)
    ∧ ((chunkOf s s.cur).held = false → ∀ i ∈ [Instr.kwait a b, .kdraw look d a], BadHandleTraps s i h)
    ∧ ∀ l i, handleOf h = some (l, i) → (s.core l).husked = [] →
      (claims s (s.ctx s.cur) l = false → holds s (s.ctx s.cur) l = false → Traps (.kread look d a) s 5 2 h)
      ∧ (claims s (s.ctx s.cur) l = true → (s.die (dieOf l)).lost = true → Traps (.kread look d a) s 0x14 0 h)
      ∧ (claims s (s.ctx s.cur) l = true → (s.die (dieOf l)).lost = false → fget (s.core l).ctrBad false i = true →
        Traps (.kread look d a) s 0x12 7 h)

/-- R193 to R198: the instructions on counters, and where they trap.
Model's choices among these: log entries 83, 107. -/
def Obligations.CounterInstructions : Prop :=
  counterOperations ∧ counterWaits ∧ counterTraps

/-- R200, R201: a remote operation with a valid address is released with the chunk; a returning form ends the chunk and
waits for its result, one that returns nothing goes on. -/
def Sys2Proof.Claims.remoteOperations : Prop :=
  ∀ (s : State) (look : BitVec 4) (w : Size) (d a b : Reg), Runs s → Readable s a → Readable s b → Readable s d →
    Remote (s.arch.rg a) (widthOf w) →
    let ea := s.arch.rg a
    let x := s.arch.rg b
    ((chunkOf s s.cur).held = false →
      ∀ p ∈ [((.rld look w d a : Instr), Rel.remote 0 (widthOf w) ea 0 0 true),
             (.radd look w d a b, .remote 2 (widthOf w) ea x 0 true),
             (.rcas look w d a b, .remote 3 (widthOf w) ea x (s.arch.rg d) true),
             (.rswp look w d a b, .remote 4 (widthOf w) ea x 0 true)],
        ∃ t, exec p.1 s = .next t ∧ Releases s t [p.2] ∧ EndsChunk s t .result (some ⟨d.toNat, none⟩) none
          ∧ pcOf s t = pcAfter s 4 ∧ Keeps s t {})
    ∧ ∀ p ∈ [((.rst w a b : Instr), Rel.remote 1 (widthOf w) ea x 0 false),
             (.raddPosted w a b, .remote 2 (widthOf w) ea x 0 false)],
        ∃ t, exec p.1 s = .next t ∧ Releases s t [p.2] ∧ pcOf s t = pcAfter s 4 ∧ Keeps s t {}

/-- R203: a posted atomic to a page that the strand may write and that is not blocked is released with the chunk and
changes no register and no byte before; a blocked page makes it wait (R260): nothing is released and the pc stays. -/
def Sys2Proof.Claims.postedAtomics : Prop :=
  ∀ p ∈ posted, ∀ (s u : State) (ty : PTy) (a b : Reg) (x : Spot), Runs s → Readable s a → Readable s b →
    let ea := s.arch.rg a
    bits ea 63 60 = 0 → placeOf ea = .paged → ea.toNat % (if ty = .i64 then 8 else 4) = 0 →
    resolveLead (begun s) ea .write true = .ok (x, u) →
    (x.leaf.getLsbD 6 = false → ∃ t, exec (p.1 ty a b) s = .next t
      ∧ Releases s t [.posted p.2 ty ea x.sig x.leaf (s.arch.rg b)] ∧ pcOf s t = pcAfter s 4 ∧ Keeps s t {})
    ∧ (x.leaf.getLsbD 6 = true → exec (p.1 ty a b) s
      = .next (stopped (begun s) s.cur (.blocked (x.page (s.ctx s.cur) ea))))

/-- R200, R201, R203, R260: remote operations and posted atomics. -/
def Obligations.RemoteAndPosted : Prop :=
  remoteOperations ∧ postedAtomics

namespace Sys2Proof.Claims

/-- The instructions that always end their chunk (R11): each with its level and register conditions. -/
def alwaysCut (s : State) (look : BitVec 4) (w : Size) (d a b : Reg) (n : BitVec 12) : List (Instr × Prop) := [
  (.cut, True), (.hold, True), (.kwait a b, True), (.kdraw look d a, True), (.rld look w d a, True), (.radd look w d a b, True),
  (.rcas look w d a b, True), (.rswp look w d a b, True), (.xeGo look d, True), (.ceGo look d, True), (.compose d a, True),
  (.release, True), (.launch a, True), (.idle, leads s s.cur = none), (.halt, leads s s.cur = none ∧ s.arch.priv = true),
  (.tret, s.arch.priv = true),
  (.sset n a, crCuts n.toNat = true ∧ crReadOnly n.toNat = false ∧ Readable s a
    ∧ (s.arch.priv = true ∨ crNoUserWrite n.toNat = false))]

end Sys2Proof.Claims

/-- R204, R205, R206: `cut` and `unhold` end their chunk; `hold` opens a held chunk when it is the first instruction
of one, ends the chunk before itself otherwise, and inside a held region raises HOLDOVF, SUB 4, as every instruction that
always cuts does; `chk` has no effect.
Model's choices among these: log entry 83. -/
def Obligations.ChunkControl : Prop :=
  ∀ s : State, Runs s →
    ((chunkOf s s.cur).held = false → ∃ t, exec .cut s = .next t ∧ EndsChunk s t .ready none none
      ∧ Releases s t [] ∧ pcOf s t = pcAfter s 4 ∧ Keeps s t {})
    ∧ (∃ t, exec .unhold s = .next t ∧ EndsChunk s t .ready none none ∧ Releases s t [] ∧ pcOf s t = pcAfter s 4
      ∧ Keeps s t {})
    ∧ ((chunkOf s s.cur).held = false → (chunkOf s s.cur).retired = 0 → ∃ t, exec .hold s = .next t
      ∧ (chunkOf t s.cur).held = true ∧ (chunkOf t s.cur).retired = 1 ∧ pcOf s t = pcAfter s 4 ∧ Keeps s t {})
    ∧ ((chunkOf s s.cur).held = false → (chunkOf s s.cur).retired ≠ 0 → ∃ t, exec .hold s = .next t
      ∧ (t.strand s.cur).opened = none ∧ (t.strand s.cur).waiting.length = s.me.waiting.length + 1
      ∧ pcOf s t = s.arch.pc)
    ∧ ((chunkOf s s.cur).held = true → ∀ look w d a b n, ∀ p ∈ alwaysCut s look w d a b n, p.2 → Traps p.1 s 0x0A 4 0)
    ∧ (∃ t, exec .chk s = .next t ∧ Releases s t [] ∧ pcOf s t = pcAfter s 4 ∧ Keeps s t {})

/-- R4, R207: `xer` reads an engine register (ce.status is a snapshot of the strand's status) and `xew` writes its writable
bits; no other register changes. -/
def Sys2Proof.Claims.engineRegisterAccess : Prop :=
  ∀ (s : State) (look : BitVec 4) (n : BitVec 10) (d : Reg), Runs s →
    (∃ t, exec (.xer look n d) s = .next t
      ∧ GetsG s t d (if n = 0x209 then s.me.ceStatus else s.arch.re n.toNat) look
      ∧ pcOf s t = pcAfter s 4 ∧ Keeps s t { g := [d] })
    ∧ (Readable s d → ∃ t, exec (.xew n d) s = .next t
      ∧ (t.strand s.cur).arch.re n.toNat = (if engMask n.toNat = 0 then s.arch.re n.toNat else s.arch.rg d &&& engMask n.toNat)
      ∧ pcOf s t = pcAfter s 4 ∧ Keeps s t { eng := [n.toNat] })

/-- The registers that a go checks, in the order of their numbers, each with its check (R208, R211). -/
def Sys2Proof.Claims.xeChecks : List (Nat × (Word → Bool)) :=
  [(0x100, engPointerOk), (0x101, engPointerOk), (0x106, engHandleOk), (0x108, engHandleOk)]
def Sys2Proof.Claims.ceChecks : List (Nat × (Word → Bool)) :=
  [(0x200, fun w => decide (bits w 3 0 ≤ 4) && decide (bits w 7 4 ≤ 2)), (0x201, engPointerOk), (0x202, engPointerOk),
   (0x203, fun w => bits w 31 0 != 0), (0x204, fun w => decide (bits w 2 0 ≤ 4)), (0x206, fun w => decide (bits w 1 0 ≤ 3)),
   (0x207, engHandleOk)]

/-- R208, R211, R323: a go read whose registers pass their checks starts its operation with the chunk, under a number of
core, strand and xe.seq, advances xe.seq and waits for the result; the first register that fails raises ADDR, SUB 3, with
its value. A write of ce.join is released with the chunk and needs level S. -/
def Sys2Proof.Claims.engineStarts : Prop :=
  ∀ (s : State) (look : BitVec 4) (d : Reg), Runs s →
    ((chunkOf s s.cur).held = false → xeReady s.arch → ∃ t, exec (.xeGo look d) s = .next t
      ∧ Releases s t [.copy (engSet s.arch 0x100 10) (goNumber s)]
      ∧ EndsChunk s t .result (some ⟨d.toNat, none⟩) none
      ∧ ((t.strand s.cur).arch.re 0x10B).toNat = ((s.arch.re 0x10B).toNat + 1) % 2 ^ 30
      ∧ pcOf s t = pcAfter s 4 ∧ Keeps s t { eng := [0x10B] })
    ∧ ((chunkOf s s.cur).held = false → ceReady s.arch → ∃ t, exec (.ceGo look d) s = .next t
      ∧ Releases s t [.coll (engSet s.arch 0x200 8) (goNumber s)]
      ∧ EndsChunk s t .result (some ⟨d.toNat, none⟩) none
      ∧ ((t.strand s.cur).arch.re 0x10B).toNat = ((s.arch.re 0x10B).toNat + 1) % 2 ^ 30
      ∧ pcOf s t = pcAfter s 4 ∧ Keeps s t { eng := [0x10B] })
    ∧ ((chunkOf s s.cur).held = false → ∀ g ∈ [((.xeGo look d : Instr), xeChecks), (.ceGo look d, ceChecks)],
      ∀ pre q post, g.2 = pre ++ q :: post → (∀ p ∈ pre, p.2 (s.arch.re p.1) = true) → q.2 (s.arch.re q.1) = false →
        Traps g.1 s 5 3 (s.arch.re q.1))
    ∧ (s.arch.priv = true → Readable s d → ∃ t, exec (.ceJoin d) s = .next t
      ∧ Releases s t [.join (bits (s.arch.rg d) 15 0)] ∧ pcOf s t = pcAfter s 4 ∧ Keeps s t {})

/-- R4, R207, R208, R211, R323: engine registers and starts.
Model's choices among these: log entry 74. -/
def Obligations.EngineInstructions : Prop :=
  engineRegisterAccess ∧ engineStarts

/-- R212, R213: `compose` by a strand that is in no bunch and no twin, with width 2, 4, 8 or 16, ends its chunk and waits
for the answer; `release` by a leader ends its chunk; `bq` reads c0 and w; outside these conditions BUNCH.
Model's choices among these: log entries 27, 83. -/
def Obligations.BunchInstructions : Prop :=
  ∀ (s : State) (d a : Reg), Runs s → Readable s a →
    let w := s.arch.rg a
    ((chunkOf s s.cur).held = false → s.me.twin = none → leads s s.cur = none → (w = 2 ∨ w = 4 ∨ w = 8 ∨ w = 16) →
      ∃ t, exec (.compose d a) s = .next t ∧ Releases s t [.compose w.toNat]
        ∧ EndsChunk s t .result (some ⟨d.toNat, none⟩) none ∧ pcOf s t = pcAfter s 4 ∧ Keeps s t {})
    ∧ ((chunkOf s s.cur).held = false → s.me.twin = none → leads s s.cur = none → ¬ (w = 2 ∨ w = 4 ∨ w = 8 ∨ w = 16) →
      Traps (.compose d a) s 0x0B 1 0)
    ∧ ((chunkOf s s.cur).held = false → s.me.twin.isSome = true → Traps (.compose d a) s 0x0B 5 0)
    ∧ ((chunkOf s s.cur).held = false → s.me.twin = none → (leads s s.cur).isSome = true → Traps (.compose d a) s 0x0B 2 0)
    ∧ ((chunkOf s s.cur).held = false → (leads s s.cur).isSome = true → ∃ t, exec .release s = .next t
      ∧ Releases s t [.dissolve] ∧ EndsChunk s t .result none none ∧ pcOf s t = pcAfter s 4 ∧ Keeps s t {})
    ∧ ((chunkOf s s.cur).held = false → leads s s.cur = none → Traps .release s 0x0B 3 0)
    ∧ ∃ t, exec (.bq d) s = .next t ∧ pcOf s t = pcAfter s 4 ∧ Keeps s t { g := [d] }
      ∧ gOf s t d = (if d = 0 then 0 else match leads s s.cur with
          | some b => BitVec.ofNat 64 (b.c0 * 256 + b.w)
          | none => BitVec.ofNat 64 (s.cur.core % 16 * 256 + 1))

/-- R215, R217: `launch` with a record that can be read ends its chunk and releases the submission; `idle` ends the
instance and `halt` (S) stops the strand, both when the chunk commits; a bunch leader may do neither (BUNCH, SUB 4). -/
def Obligations.LaunchAndStop : Prop :=
  ∀ (s u : State) (a : Reg), Runs s → (chunkOf s s.cur).held = false →
    (Readable s a → bits (s.arch.rg a) 63 60 = 0 → placeOf (s.arch.rg a) = .paged → (s.arch.rg a).toNat % 256 = 0 →
      (upto 0 4).foldlM (fun s k => enterRead s (s.arch.rg a + BitVec.ofNat 64 (64 * k))) (begun s) = .ok u →
      ∃ t, exec (.launch a) s = .next t ∧ Releases s t [.launch (s.arch.rg a) s.me.lid]
        ∧ EndsChunk s t .ready none none ∧ pcOf s t = pcAfter s 4 ∧ Keeps s t {})
    ∧ (leads s s.cur = none → ∃ t, exec .idle s = .next t ∧ Releases s t [.idle] ∧ EndsChunk s t .result none none
      ∧ pcOf s t = pcAfter s 4 ∧ Keeps s t {})
    ∧ (leads s s.cur = none → s.arch.priv = true → ∃ t, exec .halt s = .next t ∧ Releases s t [.halt]
      ∧ EndsChunk s t .result none none ∧ pcOf s t = pcAfter s 4 ∧ Keeps s t {})
    ∧ ((leads s s.cur).isSome = true → Traps .idle s 0x0B 4 0 ∧ (s.arch.priv = true → Traps .halt s 0x0B 4 0))
    ∧ (Readable s a →
      let ea := s.arch.rg a
      (bits ea 63 60 ≠ 0 ∨ placeOf ea ≠ .paged → Traps (.launch a) s 5 0 ea)
      ∧ (bits ea 63 60 = 0 → placeOf ea = .paged → ea.toNat % 256 ≠ 0 → Traps (.launch a) s 4 0 ea)
      ∧ ∀ e, bits ea 63 60 = 0 → placeOf ea = .paged → ea.toNat % 256 = 0 → resolveLead (begun s) ea .read false = .error e →
        TrapsAfter (.launch a) s (begun s) e.1 e.2 ea)

/-- R218, R21, R22, R26: `sget` writes a control register to gd; `sset` of a register with writable bits stores what Table
1.2 keeps of the value, of STATUS the STEP bit alone, of QUANTUM nothing before the quantum end (R289), and ends the chunk
where Table 1.2 says so; a read-only register is left alone.
Model's choices among these: log entry 25. -/
def Obligations.ControlRegisterAccess : Prop :=
  ∀ (s : State) (n : BitVec 12) (d : Reg), Runs s →
    let cuts := crCuts n.toNat = true → (chunkOf s s.cur).held = false
    (s.arch.priv = true ∨ crNoUser n.toNat = false → ∃ t, exec (.sget n d) s = .next t
      ∧ gOf s t d = (if d = 0 then 0 else crRead (begun s) s.cur n.toNat) ∧ pcOf s t = pcAfter s 4 ∧ Keeps s t { g := [d] })
    ∧ (crReadOnly n.toNat = true → ∃ t, exec (.sset n d) s = .next t ∧ pcOf s t = pcAfter s 4 ∧ Keeps s t {})
    ∧ (Readable s d → crReadOnly n.toNat = false →
      (s.arch.priv = true ∨ crNoUserWrite n.toNat = false → cuts → n ≠ 0x000 → n ≠ 0x020 → ∃ t, exec (.sset n d) s = .next t
        ∧ crOf s t n.toNat = (crStore n.toNat (s.arch.rg d) ||| if n = 0x001 then s.arch.cr' 1 &&& 0x1000 else 0)
        ∧ (crCuts n.toNat = true → EndsChunk s t .ready none none) ∧ pcOf s t = pcAfter s 4
        ∧ Keeps s t { cr := [n.toNat] })
      ∧ (s.arch.priv = true → (chunkOf s s.cur).held = false →
        (∃ t, exec (.sset 0x000 d) s = .next t ∧ (t.strand s.cur).arch.step = (s.arch.rg d).getLsbD 6
          ∧ EndsChunk s t .ready none none ∧ pcOf s t = pcAfter s 4 ∧ Keeps s t { step := true })
        ∧ ∃ t, exec (.sset 0x020 d) s = .next t ∧ Releases s t [.quantum (bits (s.arch.rg d) 31 0)]
          ∧ EndsChunk s t .ready none none ∧ pcOf s t = pcAfter s 4 ∧ Keeps s t {}))

/-- R219, R220, R221, R223: maintenance changes no register and no byte; what it drops it drops when its chunk commits.
`lflush` of an address that is not translated or lies in the window region is ignored without a trap. -/
def Obligations.Maintenance : Prop :=
  ∀ (s u : State) (a : Reg), Runs s → Readable s a →
    let ea := s.arch.rg a
    (∃ t, exec (.lflush a) s = .next t ∧ pcOf s t = pcAfter s 4 ∧ Keeps s t {}
      ∧ (bits ea 63 60 ≠ 0 ∨ placeOf ea ≠ .paged → Releases s t [])
      ∧ ((∃ e, translate (begun s) s.cur.core (s.ctx s.cur) ea = .error e) → Releases s t []))
    ∧ (∀ x, s.arch.priv = true → bits ea 63 60 = 0 → placeOf ea = .paged →
        resolveLead (begun s) ea .read false = .ok (x, u) →
        ∃ t, exec (.linv a) s = .next t ∧ Releases s t [.lineInv x.sig] ∧ pcOf s t = pcAfter s 4 ∧ Keeps s t {})
    ∧ (s.arch.priv = true → ∃ t, exec (.tlbinv a) s = .next t ∧ Releases s t [.tlbinv ea] ∧ pcOf s t = pcAfter s 4
      ∧ Keeps s t {})
    ∧ ∃ t, exec .xfence s = .next t ∧ Releases s t [.fence] ∧ pcOf s t = pcAfter s 4 ∧ Keeps s t {}

namespace Sys2Proof.Claims

/-- The line accesses of `hsave` and `hload` in their order (R222). -/
def saveLines (s : State) (ea : Word) (l : List Byte) : Ex State :=
  (upto 0 64).foldlM (fun s k => storeAt s (ea + BitVec.ofNat 64 (64 * k)) ((l.drop (64 * k)).take 64)) s
def loadLines (s : State) (ea : Word) : Ex (List Byte × State) :=
  (upto 0 64).foldlM (fun (q : List Byte × State) k => do
    let p := ea + BitVec.ofNat 64 (64 * k)
    if k < 45 then do
      let (b, s) ← loadAt q.2 p (if k = 44 then 24 else 64)
      .ok (q.1 ++ b, s)
    else do
      let s ← enterRead q.2 p
      .ok (q.1, s)) (([] : List Byte), s)

/-- Dword `off` of a record. -/
def dword (l : List Byte) (off : Nat) : Word := BitVec.ofNat 64 (leNat ((l.drop off).take 8))

end Sys2Proof.Claims

/-- R222, Table 10.9: `hsave` (S) stores the strand's record, of 4,096 bytes, at the place that the pointer translates to
and nothing else; `hload` (S) reads one back: every general and vector register, the copied control, format and engine
registers, and its PC field into TRAPPC; the level and the pc of the strand go on.
Model's choices among these: log entry 42. -/
def Obligations.StrandRecords : Prop :=
  ∀ (s u v : State) (a : Reg) (l : List Byte) (x : Spot), Runs s → Readable s a → s.arch.priv = true → leads s s.cur = none →
    let ea := s.arch.rg a
    let rec0 := recordBytes (begun s) s.cur (s.arch.cr' 2)
    bits ea 63 60 = 0 → placeOf ea = .paged → ea.toNat % 4096 = 0 →
    rec0.length = 4096
    ∧ (recordTaint s.arch = [] → resolve (begun s) s.cur.core (s.ctx s.cur) ea .write false false = .ok (x, v) →
      saveLines (begun s) ea rec0 = .ok u →
      ∃ t, exec (.hsave a) s = .next t ∧ pcOf s t = pcAfter s 4 ∧ Keeps s t { mem := upto x.sig 4096 }
        ∧ ∀ i < 4096, seenByte t (x.sig + i) = rec0.getD i 0)
    ∧ (loadLines (begun s) ea = .ok (l, u) →
      ∃ t, exec (.hload a) s = .next t ∧ pcOf s t = pcAfter s 4 ∧ KeepsMemory s t [] ∧ KeepsPools s t [] ∧ KeepsOthers s t
        ∧ (∀ r : Reg, r ≠ 0 → gOf s t r = dword l (8 * r.toNat))
        ∧ (∀ r : Reg, vOf s t r = BitVec.ofNat 512 (leNat ((l.drop (0x100 + 64 * r.toNat)).take 64)))
        ∧ crOf s t 0x002 = (dword l 0 &&& 0xFFFFFFFFFFFFFFFC)
        ∧ (t.strand s.cur).arch.priv = true ∧ (t.strand s.cur).arch.step = s.arch.step)

/-! ## Vector unit (chapter 05) -/

namespace Sys2Proof.Claims

/-- Element `i` of a register of elements of `w` bits (R16). -/
def lane (w i : Nat) (v : V512) : Nat := v.toNat >>> (w * i) % 2 ^ w

/-- active(i) under a mask field (R120). -/
def activeIn (s : State) (vm : BitVec 3) (i : Nat) : Bool := vm == 0 || (s.arch.rv (vm.zeroExtend 5)).toNat.testBit i

/-- What a masked instruction must be able to read: its mask register, and its destination where inactive elements keep
their old content. -/
def MaskOk (s : State) (m : Mask) (d : Reg) : Prop :=
  MaskReadable s m.reg ∧ (m.reg = 0 ∨ m.zero = true ∨ VReadable s d)

/-- The lowest active element that raises an enabled exception, with its SUB (R74, R125). -/
def lowestTrap (te : BitVec 4) (n : Nat) (act : Nat → Bool) (f : Nat → Nat × Flagged) : Option (Nat × Nat) :=
  ((List.range n).filterMap fun i => if act i then (enabledTrap te (f i).2).map fun sub => (sub, i) else none).head?

/-- FCSR after an instruction whose active elements raise the flags of `f`: sticky bits are only set (R24, R73). -/
def FlagsSet (s t : State) (n : Nat) (act : Nat → Bool) (f : Nat → Nat × Flagged) : Prop :=
  ∀ k < 64, (crOf s t 0x010).getLsbD k = true ↔
    s.arch.fcsr.getLsbD k = true ∨ ∃ i < n, act i = true ∧ (f i).2.bits.testBit k = true

/-- SEED after an instruction: advanced once when it rounds under RS (R77). -/
def SeedAfter (s t : State) (adv : Bool) : Prop :=
  crOf s t 0x011 = if adv then (seedNext s.arch.seed).zeroExtend 64 else s.arch.cr' 0x011

/-- A masked element-wise instruction (R120, R124, R125) that has read memory up to state `u`: result `f i` in each of the
`n` elements of `w` bits that are active, zero or the old content in the others, zero above them; the flags; SEED; nothing
else. If an active element raises an enabled exception, FPX of the lowest such element instead, and no effect but the counts
of its line requests (R258). -/
def LaneWiseFrom (s u : State) (i : Instr) (len : Nat) (te : BitVec 4) (adv : Bool) (m : Mask) (d : Reg) (w n : Nat)
    (f : Nat → Nat × Flagged) : Prop :=
  (∀ sub k, lowestTrap te n (activeIn s m.reg) f = some (sub, k) → TrapsAfter i s u 8 sub (BitVec.ofNat 64 k))
  ∧ (lowestTrap te n (activeIn s m.reg) f = none →
    ∃ t, exec i s = .next t
      ∧ (∀ k < n, lane w k (vOf s t d) =
          if activeIn s m.reg k then (f k).1 % 2 ^ w else if m.zero then 0 else lane w k (s.arch.rv d))
      ∧ (vOf s t d).toNat < 2 ^ (w * n)
      ∧ FlagsSet s t n (activeIn s m.reg) f ∧ SeedAfter s t adv
      ∧ pcOf s t = pcAfter s len ∧ Keeps s t { v := [d], cr := [0x010, 0x011] })

/-- The same for an instruction that reads no memory. -/
def LaneWise (s : State) (i : Instr) (len : Nat) (te : BitVec 4) (adv : Bool) (m : Mask) (d : Reg) (w n : Nat)
    (f : Nat → Nat × Flagged) : Prop := LaneWiseFrom s s i len te adv m d w n f

/-- The value of element `k` of a register as a number of type t (R69 flushes subnormal inputs). -/
def num (e : VEnv) (t : VTy) (k : Nat) (v : V512) : XV := (stdOf t).decode e.ftz (lane (elemW t) k v)
def int (t : VTy) (k : Nat) (v : V512) : Int := elemInt (elemW t) (elemSigned t) (lane (elemW t) k v)

/-- An integer result of type t: wrapped, or clamped with SF under sat (R65). -/
def intOut (e : VEnv) (t : VTy) (x : Int) : Nat × Flagged := intResult e.sat (elemW t) (elemSigned t) x

/-- Table 5.4: the exact operation on numbers, on integers, and whether it rounds. -/
def arith : List ((Mask → VTy → Reg → Reg → Reg → Instr) × (Nat → XV → XV → XV × Flagged) × (Int → Int → Int) × Bool) := [
  (.vadd, addX, (· + ·), true), (.vsub, fun md x y => addX md x y.flip, (· - ·), true),
  (.vmul, fun _ => mulX, (· * ·), true), (.vmin, fun _ => minX, min, false), (.vmax, fun _ => maxX, max, false)]

/-- Table 5.5; the second function serves integer types where the instruction has them. -/
def unaries : List ((Mask → VTy → Reg → Reg → Instr) × (XV → XV × Flagged) × (Int → Int)) := [
  (.vabs, fun x => (x.mag, sigFlags x.mag x.mag), fun x => (x.natAbs : Int)),
  (.vneg, fun x => (x.flip, sigFlags x.flip x.flip), fun x => -x),
  (.vsqrt, sqrtX, id), (.vrsq, rsqX, id), (.vexp2, exp2X, id), (.vlog2, log2R, id),
  (.vrcp, divX (.fin false 1 0), id)]

/-- Instructions on bit patterns of two registers (R132, R133, R141): width, count, patterns of va and vb, index. -/
def patterns : List ((Mask → VTy → Reg → Reg → Reg → Instr) × (Nat → Nat → (Nat → Nat) → (Nat → Nat) → Nat → Nat)) := [
  (.vand, fun _ _ x y i => x i &&& y i), (.vor, fun _ _ x y i => x i ||| y i), (.vxor, fun _ _ x y i => x i ^^^ y i),
  (.vandn, fun w _ x y i => x i &&& (2 ^ w - 1 - y i)),
  (.vshr, fun w _ x y i => x i / 2 ^ (y i % w)),
  (.vsra, fun w _ x y i => ((elemInt w true (x i) / 2 ^ (y i % w)) % 2 ^ w).toNat),
  (.vperm, fun _ n x y i => x (y i % n))]

end Sys2Proof.Claims

/-- R129: addition, subtraction, multiplication, minimum and maximum, for every type, and division for F types, under the
prefix's mode, flushing, saturation and format. -/
def Sys2Proof.Claims.vectorArithmetic : Prop :=
  ∀ (s : State) (m : Mask) (t : VTy) (d a b : Reg) (e : VEnv), Runs s → MaskOk s m d → VReadable s a → VReadable s b →
    venv (begun s) = .ok e →
    (∀ p ∈ arith, LaneWise s (p.1 m t d a b) 4 e.te (t.float && (p.2.2.2 || e.view.isSome) && e.mode == 6) m d (elemW t) (elemN t)
      fun k => if t.float then e.result (stdOf t) k (p.2.1 e.mode (num e t k (s.arch.rv a)) (num e t k (s.arch.rv b)))
        else intOut e t (p.2.2.1 (int t k (s.arch.rv a)) (int t k (s.arch.rv b))))
    ∧ (t.float = true → LaneWise s (.vdiv m t d a b) 4 e.te (e.mode == 6) m d (elemW t) (elemN t)
      fun k => e.result (stdOf t) k (divX (num e t k (s.arch.rv a)) (num e t k (s.arch.rv b))))

/-- R130: va × vb + vd and vd − va × vb with one rounding. -/
def Sys2Proof.Claims.vectorMultiplyAdd : Prop :=
  ∀ (s : State) (m : Mask) (t : VTy) (d a b : Reg) (e : VEnv), Runs s → MaskOk s m d → VReadable s a → VReadable s b →
    VReadable s d → t.float = true → venv (begun s) = .ok e →
    let x := fun k => num e t k (s.arch.rv a)
    let y := fun k => num e t k (s.arch.rv b)
    let z := fun k => num e t k (s.arch.rv d)
    LaneWise s (.vfma m t d a b) 4 e.te (e.mode == 6) m d (elemW t) (elemN t)
      (fun k => e.result (stdOf t) k (fmaX e.mode (x k) (y k) (z k)))
    ∧ LaneWise s (.vfms m t d a b) 4 e.te (e.mode == 6) m d (elemW t) (elemN t)
      fun k => e.result (stdOf t) k (fmaX e.mode (x k).flip (y k) (z k))

/-- R131, R77: the unary operations; `vabs` and `vneg` also for integer types. -/
def Sys2Proof.Claims.vectorUnary : Prop :=
  ∀ p ∈ unaries, ∀ (s : State) (m : Mask) (t : VTy) (d a : Reg) (e : VEnv), Runs s → MaskOk s m d → VReadable s a →
    venv (begun s) = .ok e →
    LaneWise s (p.1 m t d a) 4 e.te (t.float && e.mode == 6) m d (elemW t) (elemN t)
      fun k => if t.float then e.result (stdOf t) k (p.2.1 (num e t k (s.arch.rv a)))
        else intOut e t (p.2.2 (int t k (s.arch.rv a)))

/-- R129, R130, R131: arithmetic of two, three and one operands.
Model's choices among these: log entries 80, 101. -/
def Obligations.VectorArithmetic : Prop :=
  vectorArithmetic ∧ vectorMultiplyAdd ∧ vectorUnary

/-- R132, R133, R141 to R144: logic, shifts, permutation, slide, broadcast, index sequence, move and immediate; only a
saturating `vshl` can set a flag. -/
def Obligations.VectorPatterns : Prop :=
  ∀ (s : State) (m : Mask) (t : VTy) (d a b : Reg) (e : VEnv), Runs s → MaskOk s m d → venv (begun s) = .ok e →
    let w := elemW t
    let n := elemN t
    (VReadable s a → VReadable s b → ∀ p ∈ patterns, LaneWise s (p.1 m t d a b) 4 e.te false m d w n
      fun k => (p.2 w n (fun i => lane w i (s.arch.rv a)) (fun i => lane w i (s.arch.rv b)) k, noFlags))
    ∧ (VReadable s a → VReadable s b → LaneWise s (.vshl m t d a b) 4 e.te false m d w n
      fun k => intOut e t (int t k (s.arch.rv a) * 2 ^ (lane w k (s.arch.rv b) % w)))
    ∧ (VReadable s a → Readable s b → LaneWise s (.vslide m t d a b) 4 e.te false m d w n
      fun k => (if 0 ≤ (k : Int) + (s.arch.rg b).toInt ∧ (k : Int) + (s.arch.rg b).toInt < n
        then lane w ((k : Int) + (s.arch.rg b).toInt).toNat (s.arch.rv a) else 0, noFlags))
    ∧ (Readable s a → LaneWise s (.vbcast m t d a) 4 e.te false m d w n fun _ => ((s.arch.rg a).toNat, noFlags))
    ∧ (Readable s a → Readable s b → LaneWise s (.vidx m t d a b) 4 e.te false m d w n
      fun k => ((s.arch.rg a).toNat + k * (s.arch.rg b).toNat, noFlags))
    ∧ (VReadable s a → LaneWise s (.vmov m t d a) 4 e.te false m d w n fun k => (lane w k (s.arch.rv a), noFlags))
    ∧ ∀ imm : BitVec 32, LaneWise s (.vli m t d imm) 8 e.te false m d w n fun k => (imm.toNat / 2 ^ (k * w % 32), noFlags)

/-- R134: a comparison writes one bit per element; equality raises invalid for a signalling NaN, an ordering for any NaN;
its traps are those that FCSR enables. -/
def Sys2Proof.Claims.vectorCompare : Prop :=
  ∀ (s : State) (c : VCond) (m : Mask) (t : VTy) (d a b : Reg) (e : VEnv), Runs s → MaskOk s m d → VReadable s a →
    VReadable s b → venv (begun s) = .ok e →
    let x := fun k => num e t k (s.arch.rv a)
    let y := fun k => num e t k (s.arch.rv b)
    LaneWise s (.vcmp c m t d a b) 4 ((s.arch.fcsr.extractLsb' 9 4)) false m d 1 (elemN t)
      fun k => if t.float then
          match c with
          | .eq => (if (x k).eqv (y k) then 1 else 0, if (x k).isSig || (y k).isSig then invalidFlag else noFlags)
          | .ne => (if (x k).eqv (y k) then 0 else 1, if (x k).isSig || (y k).isSig then invalidFlag else noFlags)
          | .lt => (if (x k).lt (y k) then 1 else 0, if (x k).isNan || (y k).isNan then invalidFlag else noFlags)
          | .le => (if (x k).lt (y k) || (x k).eqv (y k) then 1 else 0,
              if (x k).isNan || (y k).isNan then invalidFlag else noFlags)
        else
          let u := int t k (s.arch.rv a)
          let v := int t k (s.arch.rv b)
          (if (match c with | .eq => decide (u = v) | .ne => decide (u ≠ v) | .lt => decide (u < v) | .le => decide (u ≤ v))
            then 1 else 0, noFlags)

/-- R135, R136, R142: selection by a mask, the operations on mask registers, extraction and insertion of one element. -/
def Sys2Proof.Claims.vectorSelectAndMasks : Prop :=
  ∀ (s : State) (vm : BitVec 3) (t : VTy) (d a b : Reg), Runs s →
    let w := elemW t
    let n := elemN t
    (MaskReadable s vm → VReadable s a → VReadable s b → ∃ u, exec (.vsel vm t d a b) s = .next u
      ∧ (∀ k < n, lane w k (vOf s u d) = if activeIn s vm k then lane w k (s.arch.rv a) else lane w k (s.arch.rv b))
      ∧ pcOf s u = pcAfter s 4 ∧ Keeps s u { v := [d] })
    ∧ (VReadable s a → VReadable s b →
      ∀ p ∈ [((.mand d a b : Instr), fun i => (s.arch.rv a).getLsbD i && (s.arch.rv b).getLsbD i),
             (.mor d a b, fun i => (s.arch.rv a).getLsbD i || (s.arch.rv b).getLsbD i),
             (.mxor d a b, fun i => (s.arch.rv a).getLsbD i != (s.arch.rv b).getLsbD i),
             (.mnot d a, fun i => !(s.arch.rv a).getLsbD i)],
        ∃ u, exec p.1 s = .next u ∧ (∀ i < 512, (vOf s u d).getLsbD i = (decide (i < 64) && p.2 i))
          ∧ pcOf s u = pcAfter s 4 ∧ Keeps s u { v := [d] })
    ∧ (VReadable s a → ∃ u, exec (.mpop d a) s = .next u
      ∧ (d ≠ 0 → (gOf s u d).toNat = ((List.range 64).filter fun i => (s.arch.rv a).getLsbD i).length)
      ∧ pcOf s u = pcAfter s 4 ∧ Keeps s u { g := [d] })
    ∧ (VReadable s a → ∃ u, exec (.mfirst d a) s = .next u
      ∧ (d ≠ 0 → (gOf s u d).toNat ≤ 64 ∧ (∀ i < (gOf s u d).toNat, (s.arch.rv a).getLsbD i = false)
          ∧ ((gOf s u d).toNat < 64 → (s.arch.rv a).getLsbD (gOf s u d).toNat = true))
      ∧ pcOf s u = pcAfter s 4 ∧ Keeps s u { g := [d] })
    ∧ (VReadable s a → Readable s b → ∃ u, exec (.vextr t d a b) s = .next u
      ∧ gOf s u d = (if d = 0 then 0 else
          let x := lane w ((s.arch.rg b).toNat % n) (s.arch.rv a)
          if elemSigned t then (BitVec.ofNat w x).signExtend 64 else BitVec.ofNat 64 x)
      ∧ pcOf s u = pcAfter s 4 ∧ Keeps s u { g := [d] })
    ∧ (VReadable s d → Readable s a → Readable s b → ∃ u, exec (.vins t d a b) s = .next u
      ∧ (∀ k < n, lane w k (vOf s u d) =
          if k = (s.arch.rg b).toNat % n then (s.arch.rg a).toNat % 2 ^ w else lane w k (s.arch.rv d))
      ∧ pcOf s u = pcAfter s 4 ∧ Keeps s u { v := [d] })

/-- R134, R135, R136, R142: comparison, selection, masks, single elements. -/
def Obligations.VectorCompareAndSelect : Prop :=
  vectorCompare ∧ vectorSelectAndMasks

/-- R137, R138, R139, R140: conversions between types and to and from a view, packing, unpacking, and stochastic rounding,
which is always under RS and always advances SEED. A conversion to an integer type goes by FCSR alone (R124).
Model's choices among these: log entries 14, 76, 77, 102, 105. -/
def Obligations.VectorConversions : Prop :=
  ∀ (s : State) (m : Mask) (t u : VTy) (d a b : Reg) (e : VEnv), Runs s → MaskOk s m d → VReadable s a →
    venv (begun s) = .ok e →
    let w := elemW t
    let n := elemN t
    let g := if t.float then e else e.forInt s
    LaneWise s (.vcvt m t u d a) 4 g.te ((t.float || u.float) && g.mode == 6) m d w (min n (elemN u))
      (fun k => convert g t u k (lane (elemW u) k (s.arch.rv a)))
    ∧ (∀ (j : BitVec 3) (v : View), namedView (begun s) j = .ok v → v.width ≤ 8 →
      LaneWise s (.vcvtFromView m t j d a) 4 e.te (e.mode == 6) m d w n
        (fun k => e.result (stdOf t) k (v.decode (lane v.width k (s.arch.rv a)), noFlags))
      ∧ LaneWise s (.vcvtToView m t j d a) 4 e.te (e.mode == 6) m d v.width n
        (fun k => v.encode (e.rnd k) false (num e t k (s.arch.rv a)))
      ∧ LaneWise s (.vsrndView m j d a) 4 e.te true m d 32 16
        fun k => finish f32 ({ e with mode := 6 }.rnd k) (some v) (num e .f32 k (s.arch.rv a)) noFlags)
    ∧ (VReadable s b → LaneWise s (.vpack m t d a b) 4 e.te (t.float && e.mode == 6) m d w n
      fun k =>
        let x := if k < n / 2 then lane (2 * w) k (s.arch.rv a) else lane (2 * w) (k - n / 2) (s.arch.rv b)
        if t.float then convert e t (partner t) k x else intOut e t (elemInt (2 * w) (elemSigned t) x))
    ∧ (∀ h : Bool, LaneWise s (.vunpack m t d a h) 4 e.te false m d (2 * w) (n / 2)
      fun k =>
        let x := lane w (if h then k + n / 2 else k) (s.arch.rv a)
        if t.float then
          f32.round (e.rnd k) ((stdOf t).decode e.ftz x) (sigFlags ((stdOf t).decode e.ftz x) ((stdOf t).decode e.ftz x))
        else ((elemInt w (elemSigned t) x % 2 ^ (2 * w)).toNat, noFlags))
    ∧ LaneWise s (.vsrnd m t d a) 4 e.te true m d 32 16
      fun k =>
        let r := { e with mode := 6 }.rnd k
        let c := (stdOf t).round r (num e .f32 k (s.arch.rv a)) (sigFlags (num e .f32 k (s.arch.rv a)) (num e .f32 k (s.arch.rv a)))
        f32.round r ((stdOf t).decode false c.1) c.2

/-- R80, R81: a write of a format descriptor keeps its RW fields and recomputes VALID; a valid descriptor has 1 to 8 bits
per element that its sign, exponent and mantissa fill. -/
def Sys2Proof.Claims.formatDescriptorWrites : Prop :=
  ∀ w : Word,
    (fdStore w).extractLsb' 0 63 = (w &&& 0x000000FF003DFF1F).extractLsb' 0 63
    ∧ ((fdStore w).getLsbD 63 = true → ∀ a k, (viewOf (a : Arch) k).fd = fdStore w →
        1 ≤ (viewOf a k).width ∧ (viewOf a k).width ≤ 8
        ∧ (if (viewOf a k).signed then 1 else 0) + (viewOf a k).e + (viewOf a k).m = (viewOf a k).width)
    ∧ ∀ (a : Arch) (n : Nat), 0x101 ≤ n → n ≤ 0x107 → (a.setCr n w).cr' n = fdStore w

/-- R65: what integer elements receive, in numbers: without sat the exact result modulo 2^W, with sat the nearest value
that the type can hold, with SF exactly when that changes it. -/
def Sys2Proof.Claims.integerResults : Prop :=
  ∀ (t : VTy) (sat : Bool) (x : Int), t.float = false →
    let lo : Int := if elemSigned t then -2 ^ (elemW t - 1) else 0
    let hi : Int := if elemSigned t then 2 ^ (elemW t - 1) - 1 else 2 ^ elemW t - 1
    let r := intResult sat (elemW t) (elemSigned t) x
    r.1 < 2 ^ elemW t
    ∧ (sat = false → (r.1 : Int) = x % 2 ^ elemW t ∧ r.2 = noFlags)
    ∧ (sat = true → elemInt (elemW t) (elemSigned t) r.1 = max lo (min hi x)
      ∧ (r.2.sf = true ↔ x < lo ∨ hi < x) ∧ { r.2 with sf := false } = noFlags)

/-- R65, R80, R81: format descriptors, and integer results in numbers. -/
def Obligations.FormatsAndIntegers : Prop :=
  formatDescriptorWrites ∧ integerResults

namespace Sys2Proof.Claims

/-- The participating elements of a reduction or ranking. -/
def participants (s : State) (vm : BitVec 3) (n : Nat) : List Nat := (List.range n).filter (activeIn s vm)

/-- The pairs of operands of the tree of R90: element i of the lower half with element i of the upper half, level by
level; `f` gives the result and the flags of node `k` of a level that starts at node `base`. -/
def tree (f : Nat → Nat → Nat → Nat × Flagged) : Nat → Nat → List Nat → List Nat × List (Nat × Flagged)
  | 0, _, xs => (xs, [])
  | fuel + 1, base, xs =>
    let h := xs.length / 2
    let r := (List.range h).map fun i => f (base + i) (xs.getD i 0) (xs.getD (i + h) 0)
    let next := tree f fuel (base + h) (r.map Prod.fst)
    (next.1, r ++ next.2)

/-- Reductions: kind of node. -/
def reductions : List ((BitVec 3 → VTy → Reg → Reg → Instr) × RedKind) := [(.vredsum, .sum), (.vredmax, .max), (.vredmin, .min)]

end Sys2Proof.Claims

/-- R90, R145: a reduction combines the active elements, with the identity in place of the others, in the tree of R90, and
writes the result to element 0 with zeros above; flags and traps are those of its nodes. Without an active element the result
is the identity itself. -/
def Sys2Proof.Claims.vectorReductions : Prop :=
  ∀ p ∈ reductions, ∀ (s : State) (vm : BitVec 3) (t : VTy) (d a : Reg) (e : VEnv), Runs s → MaskReadable s vm →
    VReadable s a → venv (begun s) = .ok e →
    let w := elemW t
    let n := elemN t
    let xs := (List.range n).map fun k => if activeIn s vm k then lane w k (s.arch.rv a) else redIdentity p.2 t
    let r := if (List.range n).any (activeIn s vm) then tree (redNode p.2 t e (e.result (stdOf t))) (if n = 16 then 4 else 5) 0 xs
      else ([redIdentity p.2 t], [])
    let f := fun k => r.2.getD k (0, noFlags)
    (∀ sub k, lowestTrap e.te r.2.length (fun _ => true) f = some (sub, k) →
      Traps (p.1 vm t d a) s 8 sub (BitVec.ofNat 64 k))
    ∧ (lowestTrap e.te r.2.length (fun _ => true) f = none →
      ∃ u, exec (p.1 vm t d a) s = .next u ∧ (vOf s u d).toNat = r.1.headD 0 % 2 ^ w
        ∧ FlagsSet s u r.2.length (fun _ => true) f
        ∧ SeedAfter s u (t.float && e.mode == 6)
        ∧ pcOf s u = pcAfter s 4 ∧ Keeps s u { v := [d], cr := [0x010, 0x011] })

/-- R145 for integers of 32 and 16 bits, in numbers: the sum of the active elements modulo 2^W without sat, the greatest and
the least of them. -/
def Sys2Proof.Claims.integerReductions : Prop :=
  ∀ (s : State) (vm : BitVec 3) (t : VTy) (d a : Reg) (e : VEnv), Runs s → MaskReadable s vm → VReadable s a →
    venv (begun s) = .ok e → e.sat = false → t = .i32 ∨ t = .n32 ∨ t = .i16 →
    let x := fun k => int t k (s.arch.rv a)
    let l := participants s vm (elemN t)
    (∃ u, exec (.vredsum vm t d a) s = .next u
      ∧ (((vOf s u d).toNat : Int) = (l.map x).sum % 2 ^ elemW t))
    ∧ (l ≠ [] → ∃ u, exec (.vredmax vm t d a) s = .next u
      ∧ (∃ k ∈ l, int t 0 (vOf s u d) = x k) ∧ ∀ k ∈ l, x k ≤ int t 0 (vOf s u d))
    ∧ (l ≠ [] → ∃ u, exec (.vredmin vm t d a) s = .next u
      ∧ (∃ k ∈ l, int t 0 (vOf s u d) = x k) ∧ ∀ k ∈ l, int t 0 (vOf s u d) ≤ x k)

/-- R90, R145: reductions, by their tree and for integers in numbers. -/
def Obligations.VectorReductions : Prop :=
  vectorReductions ∧ integerReductions

/-- R91, R146, R147, R148: the index of the element that ranks first, all ones without participants; the top elements in
rank order with their indices; the stable order of bucket numbers with the count of each. No flag is set. -/
def Obligations.VectorRanking : Prop :=
  ∀ (s : State) (vm : BitVec 3) (t : VTy) (d a b : Reg), Runs s → MaskReadable s vm → VReadable s a →
    let w := elemW t
    let n := elemN t
    let l := participants s vm n
    let x := fun k => lane w k (s.arch.rv a)
    let base := bits (s.arch.rg b) 31 0
    let before := fun i j => ranksBefore s.arch.seed (rankValue (flushOf (begun s)) t (x i)) (rankValue (flushOf (begun s)) t (x j))
      (i + base) (j + base)
    (Readable s b → ∃ u, exec (.vargmax vm t d a b) s = .next u
      ∧ (l = [] → gOf s u d = if d = 0 then 0 else 0xFFFFFFFFFFFFFFFF)
      ∧ (l ≠ [] → d ≠ 0 → ∃ k ∈ l, (gOf s u d).toNat = (k + base) % 2 ^ 32
          ∧ k = (sortBy before l).headD 0)
      ∧ pcOf s u = pcAfter s 4 ∧ Keeps s u { g := [d] })
    ∧ (Readable s b → ∃ u, exec (.vtopk vm t d a b) s = .next u
      ∧ (let r := (sortBy before l).take (min 16 (bits (s.arch.rg b) 39 32))
         (∀ k < n, lane w k (vOf s u d) = (r[k]?.map x).getD 0)
         ∧ ∀ k < 16, lane 32 k (vOf s u (d + 1)) = (r[k]?.map fun i => (i + base) % 2 ^ 32).getD 0xFFFFFFFF)
      ∧ pcOf s u = pcAfter s 4 ∧ Keeps s u { v := [d, d + 1] })
    ∧ (∃ u, exec (.vbucket vm t d a) s = .next u
      ∧ (∃ order : List Nat, order.Perm l ∧ order.Pairwise (fun i j => x i < x j ∨ (x i = x j ∧ i < j))
          ∧ ∀ k < n, lane w k (vOf s u d) = (order ++ (List.range n).filter fun i => !activeIn s vm i).getD k 0)
      ∧ (∀ c < n, lane w c (vOf s u (d + 1)) = (l.filter fun i => x i = c).length)
      ∧ pcOf s u = pcAfter s 4 ∧ Keeps s u { v := [d, d + 1] })

namespace Sys2Proof.Claims

/-- The byte reads of a load at view 0 (R153). -/
def byteReads (s : State) (ea : Word) (l : List Nat) : Ex (List (Nat × Nat) × Touched) :=
  l.foldlM (fun (q : List (Nat × Nat) × Touched) i => do
    let (b, t) ← readSpan q.2 (ea + BitVec.ofNat 64 i) 1
    .ok (q.1 ++ [(i, leNat b)], t)) ([], ((s, []) : Touched))

/-- The reads of elements of `k` bytes at stated addresses (R155, R156). -/
def elemReads (s : State) (k : Nat) (l : List (Nat × Word)) : Ex (List (Nat × Nat) × Touched) :=
  l.foldlM (fun (q : List (Nat × Nat) × Touched) p => do
    let (b, t) ← readSpan q.2 p.2 k
    .ok (q.1 ++ [(p.1, leNat b)], t)) ([], ((s, []) : Touched))

/-- The elements that an access concerns, with their addresses: base + offset × size. -/
def elemAddrs (s : State) (vm : BitVec 3) (t : VTy) (ptr : Word) (off : Nat → Int) : List (Nat × Word) :=
  (participants s vm (elemN t)).map fun i => (i, ptr + BitVec.ofInt 64 (off i * (elemW t / 8 : Nat)))

/-- The reads of the elements' scales in a block format (R149). -/
def scaleReads (s : State) (v : View) (ptr : Word) (el : List (Nat × Int)) : Ex (List (Nat × Option XV) × Touched) :=
  el.foldlM (fun (q : List (Nat × Option XV) × Touched) p => do
    let (sc, t) ← readScale q.2 v ptr p.2.toNat
    .ok (q.1 ++ [(p.1, sc)], t)) ([], ((s, []) : Touched))

/-- Every byte of global memory that the strand sees, and of the pools, reads in `t` as in `u`. -/
def SameBytes (t u : State) : Prop :=
  (∀ k, seenByte t k = seenByte u k) ∧ ∀ l k, poolByte t l k = poolByte u l k

/-- The byte that an address names: of the pool, or of a page under its translation. -/
def byteKey (s : State) (ea : Word) : Option (Bool × Nat) :=
  match placeOf ea with
  | .scratch off => some (true, off)
  | _ =>
    match resolveOwn s ea .write false with
    | .ok (p, _) => some (false, p.sig)
    | .error _ => none

/-- The strand sees the bytes of `m`, by address bits 59:0 behind the view bits of `ptr`; where two addresses name one byte it
sees one of the two. -/
def Holds (s t : State) (ptr : Word) (m : FMap Byte) : Prop :=
  ∀ q ∈ m, (∀ r ∈ m, r.1 ≠ q.1 → byteKey s (withView ptr r.1) ≠ byteKey s (withView ptr q.1)) →
    byteAt s t (withView ptr q.1) .write 0 = some q.2

/-- Accesses at these addresses need no page walk: each is in the scratchpad, or its translation is at hand. -/
def AtHand (s : State) (l : List Word) : Prop := ∀ q ∈ l, Mapped s q ∨ ∃ off, placeOf q = .scratch off

/-- What stands in a masked destination when `get` says which elements were written. -/
def Merged (s : State) (m : Mask) (d : Reg) (w n : Nat) (v : V512) (get : Nat → Option Nat) : Prop :=
  ∀ k < n, lane w k v = match get k with
    | some x => x % 2 ^ w
    | none => if m.zero then 0 else lane w k (s.arch.rv d)

end Sys2Proof.Claims

/-- R153: `vld` and `vldb`. At view 0 they copy 64 bytes, or 8 bytes eight times; through a view they decode elements to
f32, with the flags of that conversion; with no active element nothing is read.
Model's choices among these: log entries 78, 105, 106. -/
def Obligations.VectorLoads : Prop :=
  ∀ (s : State) (look : BitVec 4) (m : Mask) (d a : Reg) (imm : BitVec 6) (e : VEnv), Runs s → MaskOk s m d →
    Readable s a → venv (begun s) = .ok e →
    let ea := s.arch.rg a + imm.signExtend 64 * 64
    (bits ea 62 60 = 0 → participants s m.reg 64 ≠ [] → flatCheck (begun s) ea 64 .read = .ok () →
      ∀ out u, byteReads (begun s) ea (participants s m.reg 64) = .ok (out, u) →
      ∃ t v, exec (.vld look m d a imm) s = .next t ∧ GetsV s t d v look
        ∧ Merged s m d 8 64 v (pick out) ∧ pcOf s t = pcAfter s 4 ∧ (Alone s → Keeps s t { v := [d] }))
    ∧ (bits ea 62 60 = 0 → participants s m.reg 64 = [] →
      ∃ t v, exec (.vld look m d a imm) s = .next t ∧ GetsV s t d v look ∧ Merged s m d 8 64 v (fun _ => none)
        ∧ pcOf s t = pcAfter s 4 ∧ Keeps s t { v := [d] })
    ∧ (bits ea 62 60 ≠ 0 → participants s m.reg 16 ≠ [] → ∀ x n0,
      viewStart (begun s) ea (firstOf (activeElems 16 (activeIn s m.reg) fun i => i)) = .ok (x, n0) →
      ∀ out u, loadView (begun s) (e.result f32) x ea (activeElems 16 (activeIn s m.reg) fun i => n0 + i) = .ok (out, u) →
      let f := fun k => (pick out k).getD (0, noFlags)
      let has := fun k => (pick out k).isSome
      (∀ sub k, lowestTrap e.te 16 has f = some (sub, k) → TrapsAfter (.vld look m d a imm) s u 8 sub (BitVec.ofNat 64 k))
      ∧ (lowestTrap e.te 16 has f = none →
        ∃ t v, exec (.vld look m d a imm) s = .next t ∧ GetsV s t d v look
          ∧ Merged s m d 32 16 v (fun k => (pick out k).map Prod.fst)
          ∧ FlagsSet s t 16 has f ∧ SeedAfter s t (e.mode == 6)
          ∧ pcOf s t = pcAfter s 4 ∧ (Alone s → Keeps s t { v := [d], cr := [0x010, 0x011] })))
    ∧ (bits ea 62 60 ≠ 0 → participants s m.reg 16 = [] →
      ∃ t v, exec (.vld look m d a imm) s = .next t ∧ GetsV s t d v look ∧ Merged s m d 32 16 v (fun _ => none)
        ∧ SeedAfter s t (e.mode == 6) ∧ pcOf s t = pcAfter s 4 ∧ Keeps s t { v := [d], cr := [0x011] })
    ∧ (bits ea 62 60 = 0 → flatCheck (begun s) ea 8 .read = .ok () → ∀ bs u, loadAt (begun s) ea 8 true true = .ok (bs, u) →
      ∃ t v, exec (.vldb look d a imm) s = .next t ∧ GetsV s t d v look
        ∧ (∀ k < 8, lane 64 k v = leNat bs % 2 ^ 64) ∧ pcOf s t = pcAfter s 4 ∧ (Alone s → Keeps s t { v := [d] }))
    ∧ (bits ea 62 60 ≠ 0 → ∀ x n0, viewStart (begun s) ea 0 = .ok (x, n0) →
      ∀ c u, loadView (begun s) (e.result f32) x ea [(0, n0)] = .ok ([(0, c)], u) →
      (∀ sub, enabledTrap e.te c.2 = some sub → TrapsAfter (.vldb look d a imm) s u 8 sub 0)
      ∧ (enabledTrap e.te c.2 = none →
        ∃ t v, exec (.vldb look d a imm) s = .next t ∧ GetsV s t d v look ∧ (∀ k < 16, lane 32 k v = c.1 % 2 ^ 32)
          ∧ FlagsSet s t 1 (fun _ => true) (fun _ => c) ∧ SeedAfter s t (e.mode == 6)
          ∧ pcOf s t = pcAfter s 4 ∧ (Alone s → Keeps s t { v := [d], cr := [0x010, 0x011] })))

/-- R154: `vst` writes the active bytes at view 0, or encodes the active f32 elements through a view; the registers
stay, but for the flags and SEED of an encoding.
Model's choices among these: log entries 78, 105, 106. -/
def Obligations.VectorStores : Prop :=
  ∀ (s : State) (vm : BitVec 3) (d a : Reg) (imm : BitVec 6) (e : VEnv), s.Inv → Runs s → MaskReadable s vm →
    Readable s a → VReadable s d → venv (begun s) = .ok e →
    let ea := s.arch.rg a + imm.signExtend 64 * 64
    let l := participants s vm 64
    let data := l.foldl (fun m i => collect m (bits ea 59 0 + i) [(s.arch.rv d).extractLsb' (8 * i) 8]) ([] : FMap Byte)
    (bits ea 62 60 = 0 → l ≠ [] → flatCheck (begun s) ea 64 .write = .ok () →
      partCheck (begun s) ea (l.map fun i => [bits ea 59 0 + i]) = .ok () → ∀ u, writeBytes (begun s, []) ea data = .ok u →
      ∃ t, exec (.vst vm d a imm) s = .next t
        ∧ (∀ i ∈ l, byteAt (begun s) t ea .write i = some ((s.arch.rv d).extractLsb' (8 * i) 8))
        ∧ pcOf s t = pcAfter s 4
        ∧ (Alone s → Keeps s t (storeToAll (begun s) (l.map fun i => ea + BitVec.ofNat 64 i) 1)))
    ∧ (bits ea 62 60 = 0 → l = [] → ∃ t, exec (.vst vm d a imm) s = .next t ∧ pcOf s t = pcAfter s 4 ∧ Keeps s t {})
    ∧ (bits ea 62 60 ≠ 0 → participants s vm 16 = [] → ∃ t, exec (.vst vm d a imm) s = .next t
        ∧ SeedAfter s t (e.mode == 6) ∧ pcOf s t = pcAfter s 4 ∧ Keeps s t { cr := [0x011] })
    ∧ (bits ea 62 60 ≠ 0 → participants s vm 16 ≠ [] → ∀ x n0,
      viewStart (begun s) ea (firstOf (activeElems 16 (activeIn s vm) fun i => i)) = .ok (x, n0) →
      let el := activeElems 16 (activeIn s vm) fun i => n0 + i
      let at' := el.flatMap fun p => x.bytesOf p.2.toNat
      let sc := el.flatMap fun p => x.scales p.2.toNat
      ∀ u, storeView (begun s) e.rnd 16 (fun s l => settle s e true l) x ea el (fun i => num e .f32 i (s.arch.rv d)) = .ok u →
      ∃ t, exec (.vst vm d a imm) s = .next t ∧ SameBytes t u ∧ crOf s t 0x010 = crOf s u 0x010
        ∧ (x.block = 0 → FlagsSet s t 16 (activeIn s vm) fun i => x.encode (e.rnd i) false (num e .f32 i (s.arch.rv d)))
        ∧ SeedAfter s t (e.mode == 6) ∧ pcOf s t = pcAfter s 4 ∧ KeepsG s t [] ∧ KeepsV s t []
        ∧ (AtHand s ((at' ++ sc).map (withView ea)) → Alone s →
          Keeps s t { storeToAll (begun s) (at'.map (withView ea)) 1 with cr := [0x010, 0x011] }))

namespace Sys2Proof.Claims

/-- Strided and indexed accesses (R155, R156): load, store, the offset of element i in elements, and what must be readable. -/
def elementAccesses (s : State) (m : Mask) (t : VTy) (d a b : Reg) : List ((Instr × Instr) × (Nat → Int) × Prop) := [
  ((.vlds m t d a b, .vsts m t d a b), fun i => (BitVec.ofInt 64 (i * (s.arch.rg b).toInt)).toInt, Readable s b),
  ((.vgather m t d a b, .vscatter m t d a b), fun i => elemInt 32 true (lane 32 i (s.arch.rv b)), VReadable s b)]

end Sys2Proof.Claims

/-- R155, R156: at view 0 each active element goes to or from base + offset × size, where the offset is i × gb or the i32
element of vb; of two elements that store one byte the later wins. -/
def Sys2Proof.Claims.flatElements : Prop :=
  ∀ (s : State) (m : Mask) (t : VTy) (d a b : Reg) (e : VEnv), s.Inv → Runs s → MaskOk s m d → Readable s a →
    venv (begun s) = .ok e → bits (s.arch.rg a) 62 60 = 0 →
    let k := elemW t / 8
    ∀ p ∈ elementAccesses s m t d a b, p.2.2 →
      let at' := elemAddrs s m.reg t (s.arch.rg a) p.2.1
      ((∀ q ∈ at', elemCheck (begun s) q.2 k .read = .ok ()) → ∀ out u, elemReads (begun s) k at' = .ok (out, u) →
        ∃ v, exec p.1.1 s = .next v ∧ Merged s m d (elemW t) (elemN t) (vOf s v d) (pick out)
          ∧ pcOf s v = pcAfter s 4 ∧ (Alone s → Keeps s v { v := [d] }))
      ∧ (VReadable s d → (∀ q ∈ at', elemCheck (begun s) q.2 k .write = .ok ()) →
        partCheck (begun s) 0 (at'.map fun q => upto (bits q.2 59 0) k) = .ok () →
        let data := at'.foldl (fun c q => collect c (bits q.2 59 0) (leBytes k (lane (elemW t) q.1 (s.arch.rv d)))) ([] : FMap Byte)
        ∀ u, writeBytes (begun s, []) 0 data = .ok u →
        ∃ v, exec p.1.2 s = .next v ∧ SameBytes v u.1 ∧ pcOf s v = pcAfter s 4 ∧ KeepsG s v [] ∧ KeepsV s v []
          ∧ (AtHand s (at'.map Prod.snd) → Alone s →
              Holds (begun s) v 0 data ∧ Keeps s v (storeToAll (begun s) (at'.map Prod.snd) k)))

/-- R155, R156: through a view, for F types, element n0 + offset is decoded or encoded, n0 being the base's element; the
flags, SEED and FPX are those of the conversion. With no active element only SEED moves; other types raise ADDR. -/
def Sys2Proof.Claims.viewElements : Prop :=
  ∀ (s : State) (m : Mask) (t : VTy) (d a b : Reg) (e : VEnv), s.Inv → Runs s → MaskOk s m d → Readable s a →
    venv (begun s) = .ok e → bits (s.arch.rg a) 62 60 ≠ 0 →
    let l := participants s m.reg (elemN t)
    ∀ p ∈ elementAccesses s m t d a b, p.2.2 →
      (l = [] →
        (∃ v, exec p.1.1 s = .next v ∧ Merged s m d (elemW t) (elemN t) (vOf s v d) (fun _ => none)
          ∧ SeedAfter s v (t.float && e.mode == 6) ∧ pcOf s v = pcAfter s 4 ∧ Keeps s v { v := [d], cr := [0x011] })
        ∧ (VReadable s d → ∃ v, exec p.1.2 s = .next v ∧ SeedAfter s v (t.float && e.mode == 6)
          ∧ pcOf s v = pcAfter s 4 ∧ Keeps s v { cr := [0x011] }))
      ∧ (l ≠ [] → t.float = false → Traps p.1.1 s 5 0 (s.arch.rg a) ∧ (VReadable s d → Traps p.1.2 s 5 0 (s.arch.rg a)))
      ∧ (l ≠ [] → t.float = true → ∀ x n0,
        viewStart (begun s) (s.arch.rg a) (firstOf (l.map fun i => (i, p.2.1 i))) = .ok (x, n0) →
        let el := l.map fun i => (i, (BitVec.ofInt 64 (n0 + p.2.1 i)).toInt)
        (∀ out u, loadView (begun s) (e.result (stdOf t)) x (s.arch.rg a) el = .ok (out, u) →
          let f := fun k => (pick out k).getD (0, noFlags)
          let has := fun k => (pick out k).isSome
          (∀ sub k, lowestTrap e.te (elemN t) has f = some (sub, k) → TrapsAfter p.1.1 s u 8 sub (BitVec.ofNat 64 k))
          ∧ (lowestTrap e.te (elemN t) has f = none → ∃ v, exec p.1.1 s = .next v
            ∧ Merged s m d (elemW t) (elemN t) (vOf s v d) (fun k => (pick out k).map Prod.fst)
            ∧ FlagsSet s v (elemN t) has f ∧ SeedAfter s v (e.mode == 6) ∧ pcOf s v = pcAfter s 4
            ∧ (Alone s → Keeps s v { v := [d], cr := [0x010, 0x011] })))
        ∧ (VReadable s d →
          let at' := el.flatMap fun p => x.bytesOf p.2.toNat
          let sc := el.flatMap fun p => x.scales p.2.toNat
          let value := fun i => num e t i (s.arch.rv d)
          ∀ u, storeView (begun s) e.rnd (elemN t) (fun s l => settle s e true l) x (s.arch.rg a) el value = .ok u →
          ∃ v, exec p.1.2 s = .next v ∧ SameBytes v u ∧ crOf s v 0x010 = crOf s u 0x010
            ∧ (x.block = 0 → FlagsSet s v (elemN t) (activeIn s m.reg) fun i => x.encode (e.rnd i) false (value i))
            ∧ SeedAfter s v (e.mode == 6) ∧ pcOf s v = pcAfter s 4 ∧ KeepsG s v [] ∧ KeepsV s v []
            ∧ (AtHand s ((at' ++ sc).map (withView (s.arch.rg a))) → Alone s →
              Keeps s v { storeToAll (begun s) (at'.map (withView (s.arch.rg a))) 1 with cr := [0x010, 0x011] })))

namespace Sys2Proof.Claims

/-- Vector and tile accesses may go to `n` bytes at an address: outside the window region, or in the scratchpad (R36, R152). -/
def Open (s : State) (ea : Word) (n : Nat) : Prop :=
  (placeOf ea = .paged ∧ bits ea 59 0 + n ≤ 0x0C00000000000000)
  ∨ ∃ off, placeOf ea = .scratch off ∧ off + n ≤ (s.core s.cur.core).spBytes

/-- The translation of an address lets the access through. -/
def Reaches (s : State) (ea : Word) (w : Want) : Prop := placeOf ea = .paged → ∃ p, resolveOwn s ea w false = .ok p

/-- Some address of `l` is the first that is not open: ADDR with it. -/
def FirstShut (s : State) (l : List Word) (x : Nat × Nat × Word) : Prop :=
  ∃ pre a post, l = pre ++ a :: post ∧ (∀ b ∈ pre, Open s b 1) ∧ ¬ Open s a 1 ∧ x = (5, 0, a)

/-- Some access of `l` is the first that its translation does not let through: code and SUB of that, with its address. -/
def FirstBarred (s : State) (l : List (Word × Want)) (x : Nat × Nat × Word) : Prop :=
  ∃ pre a post e, l = pre ++ a :: post ∧ (∀ b ∈ pre, Reaches s b.1 b.2) ∧ placeOf a.1 = .paged
    ∧ resolveOwn s a.1 a.2 false = .error e ∧ x = (e.1, e.2, a.1)

/-- What the checks of R152 raise for an access of `n` bytes at view 0: code, SUB and TRAPVAL. The access is checked as a
whole, or, for an element, byte by byte in step 2. -/
def FlatFails (s : State) (ea : Word) (n : Nat) (whole : Bool) (w : Want) (x : Nat × Nat × Word) : Prop :=
  let bytes := (upto 0 n).map fun i => ea + BitVec.ofNat 64 i
  let shut := if whole then ¬ Open s ea n ∧ x = (5, 0, ea) else FirstShut s bytes x
  let open' := if whole then Open s ea n else ∀ b ∈ bytes, Open s b 1
  (bits ea 63 60 ≠ 0 ∧ x = (5, 0, ea))
  ∨ (bits ea 63 60 = 0 ∧ shut)
  ∨ (bits ea 63 60 = 0 ∧ open' ∧ ea.toNat % n ≠ 0 ∧ x = (4, 0, ea))
  ∨ (bits ea 63 60 = 0 ∧ open' ∧ ea.toNat % n = 0 ∧ FirstBarred s [(ea, w)] x)

/-- The accesses of element `n` of a view, in the order of step 4: its bytes, those into which a store merges as reads too,
then its scale byte, which a quantisation writes. -/
def viewAccesses (v : View) (ptr : Word) (n : Nat) (write : Bool) (scale : Want) : List (Word × Want) :=
  (v.bytesOf n).flatMap (fun a =>
    if write then (if v.inPart n a then [(withView ptr a, .read)] else []) ++ [(withView ptr a, .write)]
    else [(withView ptr a, .read)])
  ++ (v.scales n).map fun a => (withView ptr a, scale)

/-- What they raise for element `n` of a view. -/
def ViewFails (s : State) (v : View) (ptr : Word) (n : Int) (write : Bool) (scale : Want) (x : Nat × Nat × Word) : Prop :=
  let bytes := (v.bytesOf n.toNat ++ v.scales n.toNat).map (withView ptr)
  (n < 0 ∧ x = (5, 0, withView ptr (v.startOf n)))
  ∨ (0 ≤ n ∧ FirstShut s bytes x)
  ∨ (0 ≤ n ∧ (∀ b ∈ bytes, Open s b 1) ∧ FirstBarred s (viewAccesses v ptr n.toNat write scale) x)

/-- The first of the elements `l` that fails, all before it passing, raises its trap. -/
def FirstFails {α : Type} (l : List α) (fails : α → Nat × Nat × Word → Prop) (x : Nat × Nat × Word) : Prop :=
  ∃ pre a post, l = pre ++ a :: post ∧ (∀ b ∈ pre, ∀ y, ¬ fails b y) ∧ fails a x

/-- What an access through view k raises, `first` being the number that its first active element has after the pointer's,
`el` the numbers of its elements. -/
def ViewTraps (s : State) (ptr : Word) (first : Int) (el : Int → List Int) (write : Bool) (x : Nat × Nat × Word) : Prop :=
  let v := viewOf s.arch (bits ptr 62 60)
  let n0 := v.numberAt (bits ptr 59 0)
  (v.valid = false ∧ x = (5, 0, ptr))
  ∨ (v.valid = true ∧ (ptr.getLsbD 63 = true ∨ n0 < 0) ∧ x = (5, 0, withView ptr (v.startOf (wrapNum (n0 + first)))))
  ∨ (v.valid = true ∧ ptr.getLsbD 63 = false ∧ 0 ≤ n0 ∧ FirstFails (el n0) (fun n => ViewFails s v ptr n write .read) x)

/-- The whole accesses: instruction, elements at view 0, bytes, elements through a view. -/
def wholeAccesses (s : State) (look : BitVec 4) (m : Mask) (d a : Reg) (imm : BitVec 6) :
    List (Instr × Prop × Nat × List Nat × Want × Prop) := [
  (.vld look m d a imm, participants s m.reg 64 ≠ [], 64, participants s m.reg 16, .read, True),
  (.vldb look d a imm, True, 8, [0], .read, True),
  (.vst m.reg d a imm, participants s m.reg 64 ≠ [], 64, participants s m.reg 16, .write, VReadable s d)]

end Sys2Proof.Claims

/-- R152: the checks of a vector access and their order, for the lowest active element that fails: ADDR for bit 63, an invalid
view, a negative element number; ADDR outside memory and the local scratchpad; MISALIGN at view 0; then what the translation
raises. With no active element nothing is checked (`flatElements`, `viewElements`, `VectorLoads`, `VectorStores`). -/
def Sys2Proof.Claims.vectorAccessTraps : Prop :=
  ∀ (s : State) (look : BitVec 4) (m : Mask) (t : VTy) (d a b : Reg) (imm : BitVec 6) (e : VEnv) (x : Nat × Nat × Word),
    Runs s → MaskOk s m d → Readable s a → venv (begun s) = .ok e →
    (∀ p ∈ wholeAccesses s look m d a imm, p.2.2.2.2.2 →
      let ea := s.arch.rg a + imm.signExtend 64 * 64
      (bits ea 62 60 = 0 → p.2.1 → FlatFails (begun s) ea p.2.2.1 true p.2.2.2.2.1 x → Traps p.1 s x.1 x.2.1 x.2.2)
      ∧ ∀ i rest, bits ea 62 60 ≠ 0 → p.2.2.2.1 = i :: rest →
        ViewTraps (begun s) ea i (fun n0 => (i :: rest).map fun (k : Nat) => n0 + k) (p.2.2.2.2.1 == .write) x →
        Traps p.1 s x.1 x.2.1 x.2.2)
    ∧ ∀ p ∈ elementAccesses s m t d a b, p.2.2 →
      let ptr := s.arch.rg a
      let l := participants s m.reg (elemN t)
      ∀ q ∈ [(p.1.1, Want.read, True), (p.1.2, .write, VReadable s d)], q.2.2 →
        (bits ptr 62 60 = 0 →
          FirstFails (elemAddrs s m.reg t ptr p.2.1) (fun r => FlatFails (begun s) r.2 (elemW t / 8) false q.2.1) x →
          Traps q.1 s x.1 x.2.1 x.2.2)
        ∧ ∀ i rest, bits ptr 62 60 ≠ 0 → t.float = true → l = i :: rest →
          ViewTraps (begun s) ptr (p.2.1 i) (fun n0 => l.map fun k => wrapNum (n0 + p.2.1 k)) (q.2.1 == .write) x →
          Traps q.1 s x.1 x.2.1 x.2.2

/-- R125, R152, R155, R156: strided and indexed loads and stores, at view 0 and through a view; where every vector memory access
traps.
Model's choices among these: log entries 78, 105, 106. -/
def Obligations.VectorElementAccesses : Prop :=
  flatElements ∧ viewElements ∧ vectorAccessTraps

/-- R149, R152: `vscale` multiplies by the scales of a block format. A pointer whose view is invalid raises ADDR; with an active
element so does one with bit 63 set or below its base. -/
def Sys2Proof.Claims.scalesApplied : Prop :=
  ∀ (s : State) (m : Mask) (t : VTy) (d a b : Reg) (e : VEnv), Runs s → venv (begun s) = .ok e →
    MaskOk s m d → VReadable s a → Readable s b →
    let ptr := s.arch.rg b
    let l := participants s m.reg (elemN t)
    (∀ v n0, scaleStart (begun s) ptr l = .ok (v, n0) → v.block = 0 →
      LaneWise s (.vscale m t d a b) 4 e.te (e.mode == 6) m d (elemW t) (elemN t)
        fun k => e.result (stdOf t) k (mulX (num e t k (s.arch.rv a)) (.fin false 1 0)))
    ∧ (Alone s → ∀ v n0, scaleStart (begun s) ptr l = .ok (v, n0) → v.block ≠ 0 →
      let el := activeElems (elemN t) (activeIn s m.reg) fun i => n0 + i
      (∀ q ∈ el, ∀ k ∈ v.scales q.2.toNat, Open (begun s) (withView ptr k) 1 ∧ Reaches (begun s) (withView ptr k) .read) →
      ∀ scs u, scaleReads (begun s) v ptr el = .ok (scs, u) →
      LaneWiseFrom s u.1 (.vscale m t d a b) 4 e.te (e.mode == 6) m d (elemW t) (elemN t)
        fun k => e.result (stdOf t) k (underScale ((pick scs k).getD none) (num e t k (s.arch.rv a))))
    ∧ let v := viewOf s.arch (bits ptr 62 60)
      let n0 := v.numberAt (bits ptr 59 0)
      (v.valid = false → Traps (.vscale m t d a b) s 5 0 ptr)
      ∧ (v.valid = true → ptr.getLsbD 63 = true ∨ n0 < 0 → ∀ i, l.head? = some i →
        Traps (.vscale m t d a b) s 5 0 (withView ptr (v.startOf (wrapNum (n0 + i)))))
      ∧ (v.valid = true → l = [] →
        LaneWise s (.vscale m t d a b) 4 e.te (e.mode == 6) m d (elemW t) (elemN t) fun _ => (0, noFlags))

/-- R92, R150, R152: `vquant` chooses a scale for each block and writes the codes, then the scales; its flags are those of the
codes. View 0, an invalid view, a pointer below its base or not at a block's start raise ADDR. -/
def Sys2Proof.Claims.quantisation : Prop :=
  ∀ (s : State) (t : VTy) (d a : Reg) (e : VEnv), s.Inv → Runs s → venv (begun s) = .ok e → Readable s a → VReadable s d →
    let ptr := s.arch.rg a
    (∀ v n0, bits ptr 62 60 ≠ 0 → viewStart (begun s) ptr 0 = .ok (v, n0) →
      (v.block = 0 ∨ (n0.toNat % v.block = 0 ∧ elemN t % v.block = 0)) →
      checkAll (upto 0 (elemN t)) (fun i => quantCheck (begun s) v ptr (n0.toNat + i)) = .ok () →
      let q := quantBlocks v e.rnd ((upto 0 (elemN t)).map fun k => num e t k (s.arch.rv d))
      let f := fun k => q.1.getD k (0, noFlags)
      let codes := (upto 0 (elemN t)).flatMap fun i => v.bytesOf (n0.toNat + i)
      let scales := (upto 0 (elemN t)).flatMap fun i => v.scales (n0.toNat + i)
      ∀ b w, mergeQuant (begun s, []) v ptr n0.toNat (q.1.map Prod.fst) q.2 = .ok (b, w) →
      (∀ sub k, lowestTrap e.te (elemN t) (fun _ => true) f = some (sub, k) →
        TrapsAfter (.vquant t d a) s w.1 8 sub (BitVec.ofNat 64 k))
      ∧ ∀ u r, settle w.1 e true (q.1.map some) = .ok u → writeBytes (u, w.2) ptr b = .ok r →
        ∃ z, exec (.vquant t d a) s = .next z ∧ SameBytes z r.1
          ∧ FlagsSet s z (elemN t) (fun _ => true) f ∧ SeedAfter s z (e.mode == 6) ∧ pcOf s z = pcAfter s 4
          ∧ KeepsG s z [] ∧ KeepsV s z [] ∧ KeepsControl s z [0x010, 0x011] ∧ KeepsEngine s z []
          ∧ (AtHand s ((codes ++ scales).map (withView ptr)) → Alone s → Holds (begun s) z ptr b
            ∧ Keeps s z { storeToAll (begun s) ((codes ++ scales).map (withView ptr)) 1 with cr := [0x010, 0x011] }))
    ∧ (bits ptr 62 60 = 0 → Traps (.vquant t d a) s 5 0 ptr)
    ∧ (bits ptr 62 60 ≠ 0 →
      let v := viewOf s.arch (bits ptr 62 60)
      let n0 := v.numberAt (bits ptr 59 0)
      (v.valid = false → Traps (.vquant t d a) s 5 0 ptr)
      ∧ (v.valid = true → ptr.getLsbD 63 = true ∨ n0 < 0 →
        Traps (.vquant t d a) s 5 0 (withView ptr (v.startOf (wrapNum n0))))
      ∧ (v.valid = true → ptr.getLsbD 63 = false → 0 ≤ n0 →
        (v.block ≠ 0 → (n0.toNat % v.block ≠ 0 ∨ elemN t % v.block ≠ 0) → Traps (.vquant t d a) s 5 0 ptr)
        ∧ ((v.block = 0 ∨ (n0.toNat % v.block = 0 ∧ elemN t % v.block = 0)) → ∀ x : Nat × Nat × Word,
          FirstFails (upto 0 (elemN t)) (fun i => ViewFails (begun s) v ptr (n0 + i) true .write) x →
          Traps (.vquant t d a) s x.1 x.2.1 x.2.2)))

/-- R92, R149, R150, R152: scales applied and chosen.
Model's choices among these: log entries 78, 104, 105, 106. -/
def Obligations.VectorScales : Prop :=
  scalesApplied ∧ quantisation

/-! ## Tile unit (chapter 06) -/

namespace Sys2Proof.Claims

/-- What the tile statements assume of the state: the strand is alone on its core's pool, leads no bunch, the pool is in
its canonical form and without poison, what open windows show too, and the undo log has room for an accumulator (R12, R374). -/
structure TileReady (s : State) (accs : List (BitVec 4)) : Prop where
  runs : Runs s
  inv : s.Inv
  alone : Alone s
  single : leads s s.cur = none
  exist : ∀ a ∈ accs, a.toNat < (s.core s.cur.core).nacc
  clean : ∀ w, fget (s.core s.cur.core).poolBad false w = false
  shown : ∀ v ∈ (chunkOf s s.cur).accs, ∀ x ∈ v.seen, x.2.2 = false
  strands : (s.core s.cur.core).nstr ≤ 4
  room : ((s.core s.cur.core).strands.flatMap fun p => p.2.chunks.flatMap fun ch => ch.undo).length ≤ 64
  watches : (chunkOf s s.cur).watches = []

/-- The enabled elements (R159, R161), row by row. -/
def enabled (s : State) : List (Nat × Nat) :=
  (List.range 16).flatMap fun i => ((List.range 16).filter fun j =>
    (s.arch.re 0x003).getLsbD i && (s.arch.re 0x003).getLsbD (16 + j)).map fun j => (i, j)

/-- Element (i, j) of an accumulator as its 32-bit code, with every write in it. -/
def acc (s t : State) (a : BitVec 4) (p : Nat × Nat) : Nat :=
  leNat ((upto (accKey a.toNat (64 * p.1 + 4 * p.2)) 4).map fun k => poolByte t s.cur.core k)

/-- The element as an instruction reads it: what an open lookahead window shows (R45), else as it stands. -/
def accNow (s : State) (a : BitVec 4) (p : Nat × Nat) : Nat :=
  match accSeen (begun s) a (16 * p.1 + p.2) with | some x => x.1 | none => acc s s a p

/-- The element as a sequencer step reads it: between the steps of one instruction as it stands (R172). -/
def accStep (s : State) (a : BitVec 4) (p : Nat × Nat) : Nat :=
  if (chunkOf s s.cur).accs.any (fun v => v.acc == a.toNat && (match v.pend.getLast? with | some q => q.steps | none => false))
  then acc s s a p else accNow s a p

/-- The pool bytes of elements of an accumulator. -/
def accBytes (a : BitVec 4) (l : List (Nat × Nat)) : List Nat := l.flatMap fun p => upto (accKey a.toNat (64 * p.1 + 4 * p.2)) 4

/-- The lowest element that raises an enabled exception, numbered 16 × i + j (R74), and the flags of all (R73). -/
def tileTrap (te : BitVec 4) (l : List (Nat × Nat)) (f : Nat × Nat → Nat × Flagged) : Option (Nat × Nat) :=
  l.findSome? fun p => (enabledTrap te (f p).2).map fun sub => (sub, 16 * p.1 + p.2)
def TileFlags (s t : State) (l : List (Nat × Nat)) (f : Nat × Nat → Nat × Flagged) : Prop :=
  ∀ k < 64, (crOf s t 0x010).getLsbD k = true ↔
    s.arch.fcsr.getLsbD k = true ∨ ∃ p ∈ l, (f p).2.bits.testBit k = true

/-- An instruction that puts `f p` into each enabled element p of an accumulator, and nothing else but flags (SEED stays,
R165); or the FPX of the lowest element that traps. -/
def TileWise (s : State) (i : Instr) (te : BitVec 4) (a : BitVec 4) (f : Nat × Nat → Nat × Flagged) : Prop :=
  (∀ sub k, tileTrap te (enabled s) f = some (sub, k) → Traps i s 8 sub (BitVec.ofNat 64 k))
  ∧ (tileTrap te (enabled s) f = none → ∃ t, exec i s = .next t
    ∧ (∀ p ∈ enabled s, acc s t a p = (f p).1 % 2 ^ 32) ∧ TileFlags s t (enabled s) f
    ∧ pcOf s t = pcAfter s 4 ∧ Keeps s t { cr := [0x010], pool := accBytes a (enabled s) })

/-- The positions of step k, and the elements of A and B that it reads, with their numbers (R168). -/
def stepKs (s : State) (k : Nat) : List Nat := upto (16 * k) (Nat.min (16 * k + 16) (bits (s.arch.re 0x000) 12 0) - 16 * k)
def stepA (s : State) (flip : Bool) (k : Nat) : List ((Nat × Nat) × Int) :=
  (tileRows s).flatMap fun i => (stepKs s k).map fun k =>
    ((i, k), if flip then k * (s.arch.re 0x001).toInt + i else i * (s.arch.re 0x001).toInt + k)
def stepB (s : State) (k : Nat) : List ((Nat × Nat) × Int) :=
  (stepKs s k).flatMap fun k => (if (tileRows s).isEmpty then [] else tileCols s).map fun j =>
    ((k, j), k * (s.arch.re 0x002).toInt + j)

/-- The operand pointers: those that the first step of the chunk has read, else ga and gb (R168). -/
def operandPointers (s : State) (a b : Reg) : Word × Word := ((chunkOf s s.cur).tile).getD (s.arch.rg a, s.arch.rg b)

/-- What the checks of R163 raise for element `e` of a tile operand of `b` bytes at view 0. -/
def TileFails (s : State) (ptr : Word) (b : Nat) (w : Want) (e : Int) (x : Nat × Nat × Word) : Prop :=
  let a := tileAddr ptr b e
  let bytes := (upto (bits a 59 0) b).map (withView ptr)
  (bits a 63 60 ≠ 0 ∧ x = (5, 0, withView ptr (bits a 59 0)))
  ∨ (bits a 63 60 = 0 ∧ FirstShut s bytes x)
  ∨ (bits a 63 60 = 0 ∧ (∀ y ∈ bytes, Open s y 1) ∧ ptr.toNat % b ≠ 0 ∧ x = (4, 0, a))
  ∨ (bits a 63 60 = 0 ∧ (∀ y ∈ bytes, Open s y 1) ∧ ptr.toNat % b = 0 ∧ FirstBarred s [(a, w)] x)

/-- What a tile operand with the elements `e :: l`, in their order, raises (R163). -/
def TileTraps (s : State) (ptr : Word) (b : Nat) (w : Want) (e : Int) (l : List Int) (x : Nat × Nat × Word) : Prop :=
  (bits ptr 62 60 = 0 ∧ ptr.getLsbD 63 = true ∧ x = (5, 0, withView ptr (bits (tileAddr ptr b e) 59 0)))
  ∨ (bits ptr 63 60 = 0 ∧ FirstFails (e :: l) (TileFails s ptr b w) x)
  ∨ (bits ptr 62 60 ≠ 0 ∧ ViewTraps s ptr e (fun n0 => (e :: l).map fun k => wrapNum (n0 + k)) (w == .write) x)

/-- The 16-bit operand format that tg.fmt selects. -/
def operandFormat (s : State) : Std := if (s.arch.re 0x005).getLsbD 0 then f16 else bf16

end Sys2Proof.Claims

/-- R168, R169, R89: one sequencer step of `tmma` and `tmmat`: every enabled element of the accumulator becomes the exact sum
of itself and the step's products, rounded once; the step count advances, the pc stays while steps remain; a step count at
or beyond the end only clears itself.
Model's choices among these: log entries 81, 82. -/
def Obligations.TileMultiplyStep : Prop :=
  ∀ (s : State) (flip : Bool) (look ac : BitVec 4) (a b : Reg) (e0 : VEnv), TileReady s [ac] → Readable s a → Readable s b →
    venv (begun s) = .ok e0 →
    let i : Instr := if flip then .tmmat look ac a b else .tmma look ac a b
    let e := { e0 with mode := if (pfxOf (begun s)).rnd = 6 then 6 else 1 }
    let total := (bits (s.arch.re 0x000) 12 0 + 15) / 16
    let k := bits (s.arch.re 0x009) 9 0
    let p := operandPointers s a b
    (total ≤ k → ∃ t, exec i s = .next t ∧ (t.strand s.cur).arch.re 0x009 = 0 ∧ pcOf s t = pcAfter s 4
      ∧ Keeps s t { eng := [0x009] })
    ∧ (k < total → ∀ oa ob u v,
      readOperand (begun s, []) p.1 (operandFormat s) e.ftz (stepA s flip k) = .ok (oa, u) →
      readOperand u p.2 (operandFormat s) e.ftz (stepB s k) = .ok (ob, v) →
      let f := fun p => tileProduct e (e.tile s k p) (stepKs s k) oa ob (accStep s ac p) p
      let next := if k + 1 = total then 0 else k + 1
      (∀ sub j, tileTrap e.te (enabled s) f = some (sub, j) → TrapsAfter i s v.1 8 sub (BitVec.ofNat 64 j))
      ∧ (tileTrap e.te (enabled s) f = none →
      ∃ t, exec i s = .next t ∧ (∀ p ∈ enabled s, acc s t ac p = (f p).1 % 2 ^ 32) ∧ TileFlags s t (enabled s) f
        ∧ (t.strand s.cur).arch.re 0x009 = BitVec.ofNat 64 next
        ∧ pcOf s t = (if next = 0 then pcAfter s 4 else s.arch.pc)
        ∧ (next ≠ 0 → ∀ ch, (t.strand s.cur).opened = some ch → ch.tile = some p)
        ∧ Keeps s t { cr := [0x010], eng := [0x009], pool := accBytes ac (enabled s) }))

/-- R178, R182, R183, R184: clearing, adding and scaling accumulators, moving a row, and reducing the enabled elements of each
enabled row into a vector.
Model's choices among these: log entry 81. -/
def Obligations.TileAccumulators : Prop :=
  ∀ (s : State) (look ac src : BitVec 4) (d a : Reg) (e : VEnv), TileReady s [ac, src] → venv (begun s) = .ok e →
    (∃ t, exec (.tzero look ac) s = .next t ∧ (∀ p ∈ enabled s, acc s t ac p = 0)
      ∧ pcOf s t = pcAfter s 4 ∧ Keeps s t { pool := accBytes ac (enabled s) })
    ∧ TileWise s (.tadd look ac src) e.te ac (fun p =>
        let x := addX e.mode (f32.decode e.ftz (accNow s ac p)) (f32.decode e.ftz (accNow s src p))
        finish f32 (e.tile s 0 p) e.view x.1 x.2)
    ∧ (VReadable s a → TileWise s (.tscale look ac a) e.te ac fun p =>
        let x := mulX (f32.decode e.ftz (accNow s ac p)) (f32.decode e.ftz (lane 32 p.2 (s.arch.rv a)))
        finish f32 (e.tile s 0 p) e.view x.1 x.2)
    ∧ (Readable s a → ∃ t v, exec (.trget look ac d a) s = .next t ∧ GetsV s t d v look
      ∧ (∀ j < 16, lane 32 j v = accNow s ac (bits (s.arch.rg a) 3 0, j) % 2 ^ 32)
      ∧ pcOf s t = pcAfter s 4 ∧ Keeps s t { v := [d] })
    ∧ (Readable s a → VReadable s d → ∃ t, exec (.trput look ac a d) s = .next t
      ∧ (∀ p ∈ enabled s, p.1 = bits (s.arch.rg a) 3 0 → acc s t ac p = lane 32 p.2 (s.arch.rv d))
      ∧ pcOf s t = pcAfter s 4
      ∧ Keeps s t { pool := accBytes ac ((enabled s).filter fun p => p.1 == bits (s.arch.rg a) 3 0) })
    ∧ (VReadable s d ∨ (∀ i < 16, (s.arch.re 0x003).getLsbD i = true) → ∀ q ∈ [((.trmax look ac d : Instr), RedKind.max), (.trsum look ac d, .sum)],
      let row := fun i => tree (redNode q.2 .f32 e fun node y => f32.round (e.tile s 0 (i, node)) y.1 y.2) 4 0
        ((List.range 16).map fun j => if (i, j) ∈ enabled s then accNow s ac (i, j) else redIdentity q.2 .f32)
      let rows := (List.range 16).filter fun i => (s.arch.re 0x003).getLsbD i
      let trap := rows.findSome? fun i => (enabledTrap e.te ((row i).2.foldl (fun f x => f.or x.2) noFlags)).map fun sub => (sub, i)
      (∀ sub i, trap = some (sub, i) → Traps q.1 s 8 sub (BitVec.ofNat 64 i))
      ∧ (trap = none → ∃ t v, exec q.1 s = .next t ∧ GetsV s t d v look
        ∧ (∀ i < 16, lane 32 i v = if i ∈ rows then (row i).1.headD 0 % 2 ^ 32 else lane 32 i (s.arch.rv d))
        ∧ pcOf s t = pcAfter s 4 ∧ Keeps s t { v := [d], cr := [0x010] }))

namespace Sys2Proof.Claims

/-- The address of element p of a matrix of 4-byte elements at view 0 with stride tg.cstr (R162, R179). -/
def tileAt (s : State) (ptr : Word) (p : Nat × Nat) : Word := tileAddr ptr 4 (memElem s p)

/-- The reads of `tld` at view 0. -/
def tileLoads (s : State) (ptr : Word) : Ex (List ((Nat × Nat) × Nat) × Touched) :=
  (tileElems s).foldlM (fun (q : List ((Nat × Nat) × Nat) × Touched) p => do
    let (b, t) ← readSpan q.2 (tileAddr ptr 4 (memElem s p)) 4
    .ok (q.1 ++ [(p, leNat b)], t)) ([], ((s, []) : Touched))

/-- The element number of p for `tquant`, and R181's conditions on blocks and stride. -/
def quantAt (s : State) (n0 : Int) (p : Nat × Nat) : Int := wrapNum (n0 + memElem s p)
def QuantFits (s : State) (v : View) (n0 : Int) : Prop :=
  (v.block = 16 → ∀ i < 16, quantAt s n0 (i, 0) % 16 = 0) ∧ (v.block = 32 → s.arch.re 0x004 = 16 ∧ n0 % 32 = 0)

/-- The flags of a list of results are set, besides those that were (R73). -/
def FlagsOf (s t : State) (l : List (Nat × (Nat × Flagged))) : Prop :=
  ∀ k < 64, (crOf s t 0x010).getLsbD k = true ↔ s.arch.fcsr.getLsbD k = true ∨ ∃ q ∈ l, q.2.2.bits.testBit k = true

/-- The lowest of them that raises an enabled exception, in their order (R74). -/
def trapOf (te : BitVec 4) (l : List (Nat × (Nat × Flagged))) : Option (Nat × Nat) :=
  l.findSome? fun q => (enabledTrap te q.2.2).map fun sub => (sub, q.1)

/-- The bytes that `tst` writes at view 0 when element p is stored as `f p`. -/
def tileData (s : State) (ptr : Word) (f : Nat × Nat → Nat × Flagged) : FMap Byte :=
  (tileElems s).foldl (fun m p => collect m (bits (tileAddr ptr 4 (memElem s p)) 59 0) (leBytes 4 (f p).1)) []

end Sys2Proof.Claims

/-- R179, R180: at view 0 `tld` loads f32 codes and `tst` stores them (an infinity as the largest finite value under sat);
with no enabled element they do nothing. -/
def Sys2Proof.Claims.flatTiles : Prop :=
  ∀ (s : State) (look ac : BitVec 4) (a : Reg) (e : VEnv), TileReady s [ac] → Readable s a → venv (begun s) = .ok e →
    let ptr := s.arch.rg a
    (enabled s = [] → ∀ i ∈ [Instr.tld look ac a, .tst look ac a], ∃ t, exec i s = .next t ∧ pcOf s t = pcAfter s 4
      ∧ Keeps s t {})
    ∧ (enabled s ≠ [] → bits ptr 63 60 = 0 →
      (∀ p ∈ enabled s, tileElemCheck (begun s) ptr 4 none .read (memElem s p) = .ok ()) →
      ∀ out u, tileLoads (begun s) ptr = .ok (out, u) →
      ∃ t, exec (.tld look ac a) s = .next t ∧ (∀ p ∈ enabled s, acc s t ac p = codeAt out p % 2 ^ 32)
        ∧ pcOf s t = pcAfter s 4 ∧ Keeps s t { pool := accBytes ac (enabled s) })
    ∧ (enabled s ≠ [] → bits ptr 63 60 = 0 →
      (∀ p ∈ enabled s, tileElemCheck (begun s) ptr 4 none .write (memElem s p) = .ok ()) →
      let f := fun p => satCode e.sat (accNow s ac p)
      ∀ w x, accRead (begun s) ac (tileElems (begun s)) = .ok (w, x) →
      (∀ sub k, tileTrap e.te (enabled s) f = some (sub, k) → TrapsAfter (.tst look ac a) s x 8 sub (BitVec.ofNat 64 k))
      ∧ (tileTrap e.te (enabled s) f = none → ∀ u,
        writeBytes (stick x ((enabled s).foldl (fun g p => g.or (f p).2) noFlags), []) 0 (tileData (begun s) ptr f) = .ok u →
        ∃ t, exec (.tst look ac a) s = .next t ∧ SameBytes t u.1 ∧ TileFlags s t (enabled s) f ∧ pcOf s t = pcAfter s 4
          ∧ KeepsG s t [] ∧ KeepsV s t [] ∧ KeepsEngine s t [] ∧ KeepsControl s t [0x010]
          ∧ (AtHand s ((enabled s).map (tileAt s ptr)) → Holds (begun s) t 0 (tileData (begun s) ptr f)
            ∧ Keeps s t { storeToAll (begun s) ((enabled s).map (tileAt s ptr)) 4 with cr := [0x010] })))

/-- R179, R180: through a view `tld` decodes and `tst` encodes; an enabled exception traps instead. -/
def Sys2Proof.Claims.viewTiles : Prop :=
  ∀ (s : State) (look ac : BitVec 4) (a : Reg) (e : VEnv), TileReady s [ac] → Readable s a → venv (begun s) = .ok e →
    let ptr := s.arch.rg a
    ∀ p0 rest, enabled s = p0 :: rest → bits ptr 62 60 ≠ 0 → ∀ v n0, viewStart (begun s) ptr (memElem s p0) = .ok (v, n0) →
      let l := (tileElems s).map fun p => (tileIndex p, wrapNum (n0 + memElem s p))
      let at' := l.flatMap fun p => v.bytesOf p.2.toNat
      let sc := l.flatMap fun p => v.scales p.2.toNat
      (∀ out u, loadView (begun s) (fun i x => f32.round (e.tile s 0 (i / 16, i % 16)) x.1 x.2) v ptr l = .ok (out, u) →
        (∀ sub k, trapOf e.te out = some (sub, k) → TrapsAfter (.tld look ac a) s u 8 sub (BitVec.ofNat 64 k))
        ∧ (trapOf e.te out = none →
          ∃ t, exec (.tld look ac a) s = .next t ∧ (∀ q ∈ out, acc s t ac (q.1 / 16, q.1 % 16) = q.2.1 % 2 ^ 32)
            ∧ FlagsOf s t out ∧ pcOf s t = pcAfter s 4 ∧ Keeps s t { cr := [0x010], pool := accBytes ac (enabled s) }))
      ∧ ∀ w x u, checkAll l (fun p => viewCheck (begun s) v ptr p.2 true) = .ok () →
        accRead (begun s) ac (tileElems (begun s)) = .ok (w, x) →
        (∀ p ∈ enabled s, codeAt w p = accNow s ac p)
        ∧ (storeView x (fun i => e.tile (begun s) 0 (i / 16, i % 16)) 256
            (fun s l => settleTile s e.te (l.zipIdx.filterMap fun p => p.1.map fun x => (p.2, x))) v ptr l
            (fun i => f32.decode e.ftz (codeAt w (i / 16, i % 16))) = .ok u →
          ∃ t, exec (.tst look ac a) s = .next t ∧ SameBytes t u ∧ crOf s t 0x010 = crOf s u 0x010 ∧ pcOf s t = pcAfter s 4
            ∧ KeepsG s t [] ∧ KeepsV s t [] ∧ KeepsEngine s t [] ∧ KeepsControl s t [0x010]
            ∧ (AtHand s ((at' ++ sc).map (withView ptr)) →
              Keeps s t { storeToAll (begun s) (at'.map (withView ptr)) 1 with cr := [0x010] }))

/-- R92, R181: `tquant` encodes each block all of whose elements are enabled and writes its codes, then its scale; without
such a block it writes nothing. View 0, an invalid view, and blocks that do not fit raise ADDR. -/
def Sys2Proof.Claims.tileQuantisation : Prop :=
  ∀ (s : State) (look ac : BitVec 4) (a : Reg) (e : VEnv), TileReady s [ac] → Readable s a → venv (begun s) = .ok e →
    let ptr := s.arch.rg a
    let v := viewOf s.arch (bits ptr 62 60)
    let n0 := v.numberAt (bits ptr 59 0)
    let used := (quantGroups s v.block).flatMap id
    let codes := used.flatMap fun p => v.bytesOf (quantAt s n0 p).toNat
    let scales := used.flatMap fun p => v.scales (quantAt s n0 p).toNat
    ((bits ptr 62 60 = 0 ∨ v.valid = false ∨ ¬ QuantFits s v n0) → Traps (.tquant look ac a) s 5 0 ptr)
    ∧ (bits ptr 62 60 ≠ 0 → v.valid = true → QuantFits s v n0 →
      (used = [] → ∃ t, exec (.tquant look ac a) s = .next t ∧ pcOf s t = pcAfter s 4 ∧ Keeps s t {})
      ∧ ∀ p0 rest, used = p0 :: rest →
        ((ptr.getLsbD 63 = true ∨ n0 < 0) →
          Traps (.tquant look ac a) s 5 0 (withView ptr (v.startOf (wrapNum (n0 + memElem s p0)))))
        ∧ (ptr.getLsbD 63 = false → 0 ≤ n0 →
          (∀ x, FirstFails used (fun p => ViewFails (begun s) v ptr (quantAt s n0 p) true .write) x →
            Traps (.tquant look ac a) s x.1 x.2.1 x.2.2)
          ∧ ((∀ p ∈ used, 0 ≤ quantAt s n0 p ∧ quantCheck (begun s) v ptr (quantAt s n0 p).toNat = .ok ()) →
            let blocks := quantTile s e v (used.map fun p => (p, accNow s ac p))
            let fl := blocks.flatMap fun q => (q.1.zip q.2.1).map fun y => (tileIndex y.1, y.2)
            ∀ w x b y, accRead (begun s) ac used = .ok (w, x) →
            mergeTile (x, []) v ptr (quantAt s n0) (blocks.map fun q => (q.1, q.2.1.map Prod.fst, q.2.2)) = .ok (b, y) →
            (∀ sub k, trapOf e.te fl = some (sub, k) → TrapsAfter (.tquant look ac a) s y.1 8 sub (BitVec.ofNat 64 k))
            ∧ ∀ u r, settleTile y.1 e.te fl = .ok u → writeBytes (u, y.2) ptr b = .ok r →
              ∃ t, exec (.tquant look ac a) s = .next t ∧ SameBytes t r.1 ∧ FlagsOf s t fl ∧ pcOf s t = pcAfter s 4
                ∧ KeepsG s t [] ∧ KeepsV s t [] ∧ KeepsEngine s t [] ∧ KeepsControl s t [0x010]
                ∧ (AtHand s ((codes ++ scales).map (withView ptr)) → Holds (begun s) t ptr b
                  ∧ Keeps s t { storeToAll (begun s) ((codes ++ scales).map (withView ptr)) 1 with cr := [0x010] }))))

/-- R162, R163: where tile accesses trap: at the lowest element in the order of access that fails, by the checks in their order;
of `tmma` and `tmmat` first operand A of the step, then B. -/
def Sys2Proof.Claims.tileAccessTraps : Prop :=
  ∀ (s : State) (look ac : BitVec 4) (a b : Reg) (e : VEnv), Runs s → ac.toNat < (s.core s.cur.core).nacc →
    leads s s.cur = none → Readable s a → Readable s b → venv (begun s) = .ok e →
    (∀ p0 rest, enabled s = p0 :: rest → ∀ q ∈ [(Instr.tld look ac a, Want.read), (.tst look ac a, .write)], ∀ x,
      TileTraps (begun s) (s.arch.rg a) 4 q.2 (memElem s p0) (rest.map (memElem s)) x →
      Traps q.1 s x.1 x.2.1 x.2.2)
    ∧ ∀ flip : Bool, let i : Instr := if flip then .tmmat look ac a b else .tmma look ac a b
      let k := bits (s.arch.re 0x009) 9 0
      let p := operandPointers s a b
      k < (bits (s.arch.re 0x000) 12 0 + 15) / 16 →
      (∀ n l x, (stepA s flip k).map Prod.snd = n :: l → TileTraps (begun s) p.1 2 .read n l x →
        TrapsAfter i s (begun s) x.1 x.2.1 x.2.2)
      ∧ ∀ oa u, readOperand (begun s, []) p.1 (operandFormat s) e.ftz (stepA s flip k) = .ok (oa, u) →
        ∀ n l x, (stepB s k).map Prod.snd = n :: l → TileTraps u.1 p.2 2 .read n l x →
        TrapsAfter i s u.1 x.1 x.2.1 x.2.2

/-- R162, R163, R179, R180, R181: tiles to and from memory, and where tile accesses trap.
Model's choices among these: log entries 78, 81, 105, 106. -/
def Obligations.TileMemory : Prop :=
  flatTiles ∧ viewTiles ∧ tileQuantisation ∧ tileAccessTraps

/-- The tile instructions (Table 6.1), those that name an accumulator first. -/
def Sys2Proof.Claims.accInstructions (look ac : BitVec 4) (d a b : Reg) : List Instr := [
  .tmma look ac a b, .tmmat look ac a b, .tzero look ac, .tld look ac a, .tst look ac a, .tquant look ac a, .tadd look ac ac,
  .tscale look ac a, .trget look ac d a, .trput look ac a b, .trmax look ac d, .trsum look ac d]
def Sys2Proof.Claims.tileInstructions (look ac : BitVec 4) (d a b : Reg) (n : BitVec 10) : List Instr :=
  accInstructions look ac d a b ++ [.tgeom look n a, .tfetch look a, .tunpin look a]

/-- R158, R160, R167, R174 to R176, R185: `tgeom` writes a tg register; `tfetch` pins the lines of its region for the chunk,
the first 256 that are not pinned yet, or ends the chunk before itself where more than 256 would be pinned; `tunpin` gives the
lines of its region up; neither changes a register or a byte; a fill that completes changes nothing that a program
sees. An accumulator that does not exist raises ILLOP, SUB 3, and a tile instruction of a bunch leader BUNCH, SUB 0.
Model's choices among these: log entries 13, 81. -/
def Obligations.TileGeometryAndPins : Prop :=
  (∀ (s : State) (look : BitVec 4) (n : BitVec 10) (a : Reg), Runs s → Readable s a → leads s s.cur = none →
    let held := (chunkOf s s.cur).pins
    let region := (regionSpots (begun s) (s.arch.rg a)).1.map fun p => p.1.key / 64
    let fresh := firsts (region.filter fun k => (ffind held k).isNone)
    (∃ t, exec (.tgeom look n a) s = .next t
      ∧ (t.strand s.cur).arch.re n.toNat = (if engMask n.toNat = 0 then s.arch.re n.toNat else s.arch.rg a &&& engMask n.toNat)
      ∧ pcOf s t = pcAfter s 4 ∧ Keeps s t { eng := [n.toNat] })
    ∧ (held = [] ∨ held.length + fresh.length ≤ 256 →
      ∃ t ch, exec (.tfetch look a) s = .next t ∧ pcOf s t = pcAfter s 4 ∧ Keeps s t {}
        ∧ (t.strand s.cur).chunks.getLast? = some ch
        ∧ ∀ k, (ffind ch.pins k).isSome = ((ffind held k).isSome || (fresh.take (256 - held.length)).contains k))
    ∧ (held ≠ [] → 256 < held.length + fresh.length →
      ((chunkOf s s.cur).held = true → Traps (.tfetch look a) s 0x0A 3 0)
      ∧ ((chunkOf s s.cur).held = false → (chunkOf s s.cur).retired ≠ 0 → ∃ t, exec (.tfetch look a) s = .next t
        ∧ (t.strand s.cur).opened = none ∧ (t.strand s.cur).waiting.length = s.me.waiting.length + 1
        ∧ (t.strand s.cur).endCode = 3 ∧ pcOf s t = s.arch.pc))
    ∧ (∃ t ch, exec (.tunpin look a) s = .next t ∧ pcOf s t = pcAfter s 4 ∧ Keeps s t {}
      ∧ (t.strand s.cur).chunks.getLast? = some ch
      ∧ (held.Pairwise (fun p q => p.1 < q.1) → ∀ k, ffind ch.pins k = if region.contains k then none else ffind held k)))
  ∧ (∀ (s : State) (k : Nat), ∃ t, exec (.tfetchFill k) s = .next t ∧ t = { s with eng := t.eng }
      ∧ t.eng = { s.eng with fills := s.eng.fills.filter fun p => p.1 ≠ k })
  ∧ (∀ (s : State) (look ac : BitVec 4) (d a b : Reg), Runs s → (s.core s.cur.core).nacc ≤ ac.toNat →
      ∀ i ∈ accInstructions look ac d a b, Traps i s 1 3 (((encode i).headD 0).zeroExtend 64))
  ∧ ∀ (s : State) (look ac : BitVec 4) (d a b : Reg) (n : BitVec 10), Runs s → ac.toNat < (s.core s.cur.core).nacc →
      (leads s s.cur).isSome = true → ∀ i ∈ tileInstructions look ac d a b n, Traps i s 0x0B 0 0

/-! ## Events of strands and chunks (chapters 07, 08, 13) -/

namespace Sys2Proof.Claims

/-- Memory in its canonical form without poison and tags, no solo chunk that could hold a write up, no trace that writes
its own ring, no replay, every die alive. -/
structure Calm (s : State) : Prop where
  inv : s.Inv
  poison : s.poison = []
  tags : s.tags = []
  trace : bitOf s.dbg.trctl 0 = false
  replay : s.dbg.replay = none
  solo : ∀ c, ∀ ch ∈ (s.strand c).chunks, ch.solo = false
  dies : ∀ d, (s.die d).lost = false

/-- A page of local or host memory in plaintext, neither replicated nor write-blocked. -/
def PlainLeaf (w : Word) : Prop := leafTier w < 2 ∧ bits w 15 8 = 0 ∧ bitOf w 55 = false ∧ bitOf w 6 = false

/-- The bytes `b` stand at consecutive keys from `k`, and every other byte of memory is as before. -/
def Wrote (s t : State) (k : Nat) (b : List Byte) : Prop :=
  ∀ a, t.mem.read a = if k ≤ a ∧ a < k + b.length then b.getD (a - k) 0 else s.mem.read a

/-- The strand belongs to the context, on its core and with no twin. -/
def Lone (s : State) (ctx : Nat) (c : Sid) : Prop :=
  s.ctx c = ctx ∧ huskOf s ctx c = none ∧ (s.strand c).twin = none

/-- What a chunk wrote, line by line in pages that are neither replicated nor encrypted, by rising key. -/
def PlainWrites (ch : Chunk) : Prop :=
  (∀ e ∈ ch.lines, e.2.repl = false ∧ e.2.key = 0) ∧ (∀ p ∈ ch.writes, ∃ e ∈ ch.lines, e.1 = p.1 / 64)
  ∧ ch.writes.Pairwise fun a b => a.1 < b.1

/-- Operations that a grant sends on their way, to ports, homes and the launch unit (R191). -/
def travels : Rel → Bool
  | .add _ _ | .set _ _ | .arm _ _ _ | .draw _ _ | .remote _ _ _ _ _ _ | .posted _ _ _ _ _ _ | .launch _ _ => true
  | _ => false

/-- R231, R232, R234, R191: the grant of a strand's oldest chunk at D0. -/
def chunkGrants : Prop :=
  ∀ (s : State) (c : Sid) (ch : Chunk) (rest : List Chunk), Calm s → detOf s (s.strand c).lid = 0 →
    (s.strand c).twin = none → (s.strand c).waiting = ch :: rest → ch.drained = true →
    ∃ t, exec (.chunkGrant c) s = .next t
      ∧ (ch.ops = [] → (t.strand c).waiting = rest ∧ (t.strand c).sqcnt = 0
          ∧ (t.strand c).chunkSeq = ((s.strand c).chunkSeq + 1) % 2 ^ 64
          ∧ (PlainWrites ch → ∀ k, t.mem.read k = (ffind ch.writes k).getD (s.mem.read k))
          ∧ ∀ (d : Sid) (y : Chunk), d ≠ c → ch.writes ≠ [] → inDomain (arbiterOf c.core ch.scope) d.core = true →
              (s.strand d).waiting = [] → (s.strand d).opened = some y → y.badShadow = false →
              sigConflict y.rsig ch.wsig = true →
              (t.strand d).opened = none ∧ (t.strand d).arch = y.start ∧ (t.strand d).sqcnt = min 4 ((s.strand d).sqcnt + 1))
      ∧ ((∀ r ∈ ch.ops, travels r = true) →
          t.eng.ops.map (fun o => o.rel) = s.eng.ops.map (fun o => o.rel) ++ ch.ops)

/-- R245, R234, R189, R331: draining, the solo slot, a result, stepping. -/
def chunkSteps : Prop :=
  ∀ (s : State) (c : Sid),
    (∀ pre ch post, (s.strand c).waiting = pre ++ ch :: post → (∀ x ∈ pre, x.drained = true) → ch.drained = false →
      (pre = [] ∨ ordered s (s.strand c) = true) →
      exec (.pendingDrain c) s
        = .next (s.setStrand c { s.strand c with waiting := pre ++ { ch with drained := true } :: post }))
    ∧ (∀ a pre post, detOf s (s.strand c).lid = 0 → (s.strand c).solo = some a →
      ((s.solo.filter fun p => p.1 == a).map fun p => p.2) = pre ++ c :: post →
      (∀ d ∈ pre ++ c :: post, (s.strand d).soloHeld = false) →
      (∀ d ∈ pre, (s.strand d).parked = true ∨ (s.strand d).stopped = true ∨ winnerDone s d = false) →
      (s.strand c).parked = false → (s.strand c).stopped = false → winnerDone s c = true →
      exec (.soloSlotGrant c) s = .next (s.setStrand c { s.strand c with soloHeld := true, soloAfter := none }))
    ∧ (∀ w v, (s.strand c).await = some w → w.got = some v → (s.strand c).waiting = [] → (s.strand c).opened = none →
      (s.strand c).run = .result → w.rd < 32 →
      ∃ t, exec (.resultReturn c) s = .next t ∧ t = s.setStrand c (t.strand c) ∧ (t.strand c).run = .ready
        ∧ (t.strand c).await = none ∧ (t.strand c).arch.pc = (s.strand c).arch.pc
        ∧ (∀ r, (t.strand c).arch.rg r = match v with
            | some x => if r ≠ 0 ∧ r.toNat = w.rd then x else (s.strand c).arch.rg r
            | none => (s.strand c).arch.rg r)
        ∧ ∀ r, (t.strand c).arch.rv r = (s.strand c).arch.rv r)
    ∧ ((s.strand c).stepping = true → (s.strand c).opened = none → (s.strand c).sync = none → readiness s c = .go →
      ∃ t ch, exec (.steppingReexecution c) s = .next t ∧ t = s.setStrand c (t.strand c) ∧ (t.strand c).opened = some ch
        ∧ ch.stepping = true ∧ ch.start = (s.strand c).arch ∧ ch.retired = 0 ∧ ch.writes = [] ∧ ch.ops = []
        ∧ (t.strand c).arch = (s.strand c).arch)

/-- R330 to R332, R228, R195, R217: a trap at a boundary: the synchronous one, with the chunk that it squashes, else the
pending cause of the first rank; a strand that waits on a counter leaves its wait, with TRAPPC at the `kwait`. And the
restart of a strand that stopped. -/
def boundaryTraps : Prop :=
  ∀ (s : State) (c : Sid), (s.core c.core).armBrk = false →
    (readiness s c = .trap → (s.strand c).run ≠ .kwait → ∀ x, (s.strand c).sync = some x →
      ((∀ ch, (s.strand c).opened = some ch → ch.retired = 0) →
        ∃ t, exec (.trapEntry c) s = .next t ∧ Entered s t c x (s.strand c).arch.pc)
      ∧ ∀ ch, (s.strand c).opened = some ch → ch.retired ≠ 0 → ch.badShadow = false →
        ∃ t, exec (.trapEntry c) s = .next t ∧ Entered (squashOpen s c 3 false) t c x ch.start.pc
          ∧ (t.strand c).waiting = [])
    ∧ (readiness s c = .trap → ((s.strand c).sync = none ∨ (s.strand c).run = .kwait) → (s.strand c).pend ≠ [] →
      ∃ t p, exec (.trapEntry c) s = .next t ∧ p ∈ (s.strand c).pend
        ∧ (∀ q ∈ (s.strand c).pend, causeRank p.trap ≤ causeRank q.trap)
        ∧ Entered s t c p.trap (match p.pc, (s.strand c).kw with
            | some q, _ => q
            | none, some k => if (s.strand c).run = .kwait then k.pc else (s.strand c).arch.pc
            | none, none => (s.strand c).arch.pc)
        ∧ (t.strand c).pend = (s.strand c).pend.erase p)
    ∧ ∀ b, (s.strand c).run = .halted b →
      ∃ t, exec (.haltedStrandRestart c) s = .next t ∧ (t.strand c).run = .ready ∧ (t.strand c).arch = (s.strand c).arch
        ∧ t.mem = s.mem ∧ ∀ d, d ≠ c → t.strand d = s.strand d

/-- R33, R348, R349, R252, R260: idle depth and wake; a peer read that timed out, a write-block that ended. -/
def coreRests : Prop :=
  (∀ (s : State) (l : Nat), s.boot.powered = true →
    ((s.core l).asleep = false → (s.core l).existing ≠ [] →
      (∀ st ∈ (s.core l).existing, idles st = true) → ∀ d : Nat,
      (∃ st ∈ (s.core l).existing, min 3 (st.arch.cr' 0x070).toNat = d) →
      (∀ st ∈ (s.core l).existing, d ≤ (st.arch.cr' 0x070).toNat) →
      exec (.idleDepthEntry l) s = .next (s.setCore l { s.core l with asleep := true, depth := d }))
    ∧ ((s.core l).asleep = true → (∃ p ∈ (s.core l).strands, canRun p.2 = true) →
      exec (.coreWake l) s = .next (s.setCore l { s.core l with asleep := false })))
  ∧ ∀ (s : State) (c : Sid),
    ((s.strand c).run = .ready →
      exec (.peerReadTimeout c) s = .next (s.setStrand c { s.strand c with peerLate := true }))
    ∧ ∀ p, (s.strand c).blocked = some (p, true) →
      exec (.writeBlockResume c) s = .next (s.setStrand c { s.strand c with blocked := none, issued := 1 })

/-! ## Events of operations (chapters 07, 08) -/

/-- Operation `n` of the machine is `o`, and it can be placed at the port of core `l` now: nothing of its strand must come
first, no quantum end or spill ring has it, and the core takes it (R191, R235, R239, R265, R285, R353). -/
structure AtPort (s : State) (n : Nat) (o : Op) (l : Nat) : Prop where
  found : findOp s n = some o
  spilled : o.spilled = false
  target : targetOf o.rel = some l
  first : canArrive s o = true
  replay : s.dbg.replay = none
  trace : bitOf s.dbg.trctl 0 = false
  free : freeOp s o = true
  lives : (s.die (dieOf l)).lost = false
  fate : fateOf s o.ctx l (isDirect o.rel) = .apply
  runs : coreStopped s l = false

/-- Counter `i` of core `l` has taken value `v`, and no other counter changed. -/
def CounterBecomes (s t : State) (l i v : Nat) : Prop :=
  ∀ m k, fget (t.core m).ctr 0 k = if m = l ∧ k = i then BitVec.ofNat 64 v else fget (s.core m).ctr 0 k

/-- The waits of D0 strands that value `v` satisfies have ended, the others stay armed (R195). -/
def WaitsServed (s t : State) (l i v : Nat) : Prop :=
  ∀ a ∈ (s.core l).arms,
    (a.i = i → a.val ≤ v → Lone s a.ctx a.who → detOf s (s.strand a.who).lid = 0 → (s.strand a.who).run = .kwait →
      (t.strand a.who).run = .ready ∧ (t.strand a.who).kw = none)
    ∧ (¬ (a.i = i ∧ a.val ≤ v) → a ∈ (t.core l).arms)

/-- R18, R194, R198, R285: adds, at once or when a held one is tried again, and `kset`. -/
def countersAdd : Prop :=
  ∀ (s : State) (n : Nat) (o : Op) (l i : Nat) (h : Word), AtPort s n o l → handleOf h = some (l, i) →
    (∀ a, o.rel = .add h a → fget (s.core l).ctrBad false i = false →
      ∀ e ∈ [((.counterAdd n : Instr), false), (.spillRetry n, true)], o.held = e.2 →
      let v := min (2 ^ 64 - 1) ((fget (s.core l).ctr 0 i).toNat + a)
      ∃ t, exec e.1 s = .next t ∧ CounterBecomes s t l i v ∧ WaitsServed s t l i v ∧ findOp t n = none ∧ t.mem = s.mem)
    ∧ (∀ v, o.rel = .set h v → o.held = false →
      ∃ t, exec (.counterSet n) s = .next t ∧ CounterBecomes s t l i v.toNat ∧ WaitsServed s t l i v.toNat
        ∧ findOp t n = none ∧ t.mem = s.mem)

/-- R195: check and arm in one step; R197, Table 7.3: a draw takes its portion and the counter goes up by it. -/
def countersWait : Prop :=
  ∀ (s : State) (n : Nat) (o : Op) (l i : Nat) (h : Word), AtPort s n o l → handleOf h = some (l, i) → o.held = false →
    fget (s.core l).ctrBad false i = false → Lone s o.ctx o.src →
    let c := (fget (s.core l).ctr 0 i).toNat
    (∀ v pc, o.rel = .arm h v pc → (s.strand o.src).run = .kwait → detOf s (s.strand o.src).lid = 0 →
      (v.toNat ≤ c → ∃ t, exec (.checkAndArm n) s = .next t ∧ (t.strand o.src).run = .ready
        ∧ (t.strand o.src).kw = none ∧ (t.core l).arms = (s.core l).arms)
      ∧ (c < v.toNat → ∃ t, exec (.checkAndArm n) s = .next t ∧ (t.strand o.src).run = .kwait
        ∧ (t.core l).arms = (s.core l).arms ++ [⟨i, v.toNat, o.src, o.ctx⟩]))
    ∧ ∀ pc w, o.rel = .draw h pc → (s.strand o.src).await = some w → fget (s.core l).ctrBad false (i + 1) = false →
      let d := fget (s.core l).ctr 0 (i + 1)
      let e := bits d 31 0
      let p := max 1 (bits d 63 48)
      let count := if e ≤ c then 0 else min (e - c) (max (max 1 (bits d 47 32)) ((e - c + 2 * p - 1) / (2 * p)))
      ∃ t, exec (.counterDraw n) s = .next t
        ∧ (t.strand o.src).await = some { w with got := some (some (BitVec.ofNat 64 (count * 2 ^ 32 + c % 2 ^ 32))) }
        ∧ CounterBecomes s t l i (min (2 ^ 64 - 1) (c + count))

/-- R201: what a remote operation leaves in `n` bytes that held `old`: rld, rst, radd, rcas, rswp. -/
def remoteValue (fn n old x c : Nat) : Nat :=
  match fn with
  | 1 | 4 => x % 2 ^ (8 * n)
  | 2 => (old + x) % 2 ^ (8 * n)
  | 3 => if old = c % 2 ^ (8 * n) then x % 2 ^ (8 * n) else old
  | _ => old

/-- The value of `n` bytes of a pool. -/
def poolValue (s : State) (l off n : Nat) : Nat := leNat ((upto off n).map fun k => poolByte s l k)

/-- R201: a remote operation at its port, where no chunk of the core has the granule. -/
def remotesExecute : Prop :=
  ∀ (s : State) (n : Nat) (o : Op) (l off fn w : Nat) (ea x c : Word) (ret : Bool), AtPort s n o l → s.Inv →
    o.rel = .remote fn w ea x c ret → o.held = false → placeOf ea = .remote l off → off + w ≤ (s.core l).spBytes →
    w ∈ [1, 2, 4, 8] → off % w = 0 → fn ≤ 4 → (∀ k, fget (s.core l).poolBad false k = false) →
    (∀ d, d.core = l → ∀ ch ∈ (s.strand d).chunks, fget ch.poolW false (off / 16) = false ∧ fget ch.poolR false (off / 16) = false) →
    let old := poolValue s l off w
    ∃ t, exec (.remoteOperation n) s = .next t ∧ poolValue t l off w = remoteValue fn w old x.toNat c.toNat
      ∧ (∀ m k, (m ≠ l ∨ k < off ∨ off + w ≤ k) → poolByte t m k = poolByte s m k) ∧ findOp t n = none
      ∧ (ret = true → Lone s o.ctx o.src → ∀ a, (s.strand o.src).await = some a →
          (t.strand o.src).await = some { a with got := some (some (BitVec.ofNat 64 old)) })

/-- The signed value of `n` bytes. -/
def signedOf (n v : Nat) : Int := (BitVec.ofNat (8 * n) v).toInt

/-- R203: a posted atomic at its home, under the translation in force. -/
def postedCombine : Prop :=
  ∀ (s u : State) (n : Nat) (o : Op) (fn : BitVec 2) (ty : PTy) (va key leaf data : _) (x : Leaf), Calm s →
    findOp s n = some o → o.rel = .posted fn ty va key leaf data → o.spilled = false → o.held = false →
    freeOp s o = true → canArrive s o = true →
    translate (dropOp s n) o.src.core o.ctx va = .ok (x, u) → PlainLeaf x.leaf →
    let w := if ty = .i64 then 8 else 4
    let k := (spotOf x va 0).key
    let old := leNat ((upto k w).map s.mem.read)
    let y := data.toNat % 2 ^ (8 * w)
    ∃ t v, exec (.postedAtomic n) s = .next t ∧ Wrote s t k (leBytes w v) ∧ findOp t n = none
      ∧ (ty ≠ .f32 → v = match fn.toNat with
          | 0 => (old + y) % 2 ^ (8 * w)
          | 1 => if signedOf w y < signedOf w old then y else old
          | 2 => if signedOf w old < signedOf w y then y else old
          | _ => old ||| y)
      ∧ (ty = .f32 → ∀ z, (fn, z) ∈ [((0 : BitVec 2), (addX 1 (f32.decode false old) (f32.decode false y)).1),
            (1, (minX (f32.decode false old) (f32.decode false y)).1),
            (2, (maxX (f32.decode false old) (f32.decode false y)).1)] →
          v = (f32.round ⟨1, 0, false, false⟩ z noFlags).1)

/-- The event of an operation at a port (R194 to R201). -/
def opInstr (n : Nat) : Rel → Option Instr
  | .add _ _ => some (.counterAdd n)
  | .set _ _ => some (.counterSet n)
  | .arm _ _ _ => some (.checkAndArm n)
  | .draw _ _ => some (.counterDraw n)
  | .remote _ _ _ _ _ _ => some (.remoteOperation n)
  | _ => none

/-- Operation `n` of a strand is gone without an effect: the strand has `x` pending, a wait of it has ended and a result that
it waited for leaves the register; nothing else of strands, counters, scratchpads and memory changed (R193, R202). -/
structure Refused (s t : State) (n : Nat) (o : Op) (x : Trap) : Prop where
  gone : findOp t n = none
  memory : t.mem = s.mem
  cores : ∀ l, (t.core l).ctr = (s.core l).ctr ∧ (t.core l).arms = (s.core l).arms ∧ (t.core l).pool = (s.core l).pool
    ∧ (t.core l).poolBad = (s.core l).poolBad
  others : ∀ d, d ≠ o.src → t.strand d = s.strand d
  registers : (t.strand o.src).arch = (s.strand o.src).arch
  reported : (t.strand o.src).pend = (s.strand o.src).pend ++ [⟨x, none⟩]
  waits : ∀ h v pc, o.rel = .arm h v pc → (s.strand o.src).run = .kwait →
    (t.strand o.src).run = .ready ∧ (t.strand o.src).kw = none
  results : ∀ w, (s.strand o.src).await = some w →
    ((∃ h pc, o.rel = .draw h pc) ∨ ∃ fn k ea y c, o.rel = .remote fn k ea y c true) →
    (t.strand o.src).await = some { w with got := some none }

/-- R193, R202, R265, R324, R338: what a port refuses: an operation to a core that the context neither claims nor holds (SUB 2),
or on a lost die (HOMELOST, SUB 1); a remote one beyond the target's scratchpad (SUB 1), or one that needs a word that
cannot be read (MCHK, SUB 1). An add of a unit is counted in DROPPED. -/
def operationsRefused : Prop :=
  ∀ (s : State) (n : Nat) (o : Op) (l : Nat) (i : Instr), opInstr n o.rel = some i → o.held = false →
    (findOp s n = some o → o.spilled = false → targetOf o.rel = some l → canArrive s o = true → freeOp s o = true →
      (o.unit = false → Lone s o.ctx o.src →
        ((s.die (dieOf l)).lost = true → ∃ t, exec i s = .next t ∧ Refused s t n o (mkTrap 0x14 1 (opValue o.rel)))
        ∧ ((s.die (dieOf l)).lost = false → fateOf s o.ctx l (isDirect o.rel) = .refuse →
          ∃ t, exec i s = .next t ∧ Refused s t n o (mkTrap 5 2 (opValue o.rel))))
      ∧ (o.unit = true → ctxLive s o.ctx = true → (s.die (dieOf l)).lost = false →
        fateOf s o.ctx l (isDirect o.rel) = .refuse →
        ∃ t, exec i s = .next t ∧ findOp t n = none
          ∧ (ctxCopy t o.ctx).dropped = min 0xFFFF ((ctxCopy s o.ctx).dropped + 1)
          ∧ ∀ m, (t.core m).ctr = (s.core m).ctr ∧ (t.core m).pool = (s.core m).pool))
    ∧ ∀ fn w ea x c ret off, AtPort s n o l → o.unit = false → Lone s o.ctx o.src → o.rel = .remote fn w ea x c ret →
      placeOf ea = .remote l off →
      ((s.core l).spBytes < off + w → ∃ t, exec i s = .next t ∧ Refused s t n o (mkTrap 5 1 ea))
      ∧ (off + w ≤ (s.core l).spBytes → remoteReads fn w = true →
        (∀ d, d.core = l → ∀ ch ∈ (s.strand d).chunks, fget ch.poolW false (off / 16) = false ∧ fget ch.poolR false (off / 16) = false) →
        (∃ k, off / 4 ≤ k ∧ k ≤ (off + w - 1) / 4 ∧ fget (s.core l).poolBad false k = true) →
        ∃ t, exec i s = .next t ∧ Refused s t n o (mkTrap 0x12 1 ea))

/-- R265, R285: an operation for a husked occupancy goes to the spill ring of its context, at SPILLPUT, which goes up by one;
where the ring is full or unusable its port holds it. -/
def operationsSpilled : Prop :=
  ∀ (s : State) (n : Nat) (o : Op) (l : Nat) (i : Instr),
    (o.held = false ∧ opInstr n o.rel = some i) ∨ (o.held = true ∧ i = .spillRetry n) →
    findOp s n = some o → o.spilled = false → targetOf o.rel = some l → canArrive s o = true → freeOp s o = true →
    (s.die (dieOf l)).lost = false → fateOf s o.ctx l (isDirect o.rel) = .spill →
    let base := memWord s (o.ctx + 40)
    let size := bits (memWord s (o.ctx + 48)) 15 0
    let x := ctxCopy s o.ctx
    (∀ p, base ≠ 0 → ringSize size = true → x.put - x.take ≠ size → Calm s → ctxLive s o.ctx = true →
      unitSpot s 8 o.ctx (base + BitVec.ofNat 64 (x.put % size * 32)) .write false = .ok p → PlainLeaf p.leaf →
      (p.key + 32 ≤ o.ctx + 48 ∨ o.ctx + 64 ≤ p.key) →
      ∃ t, exec i s = .next t ∧ findOp t n = some { o with spilled := true, held := false }
        ∧ (ctxCopy t o.ctx).put = x.put + 1
        ∧ ∀ a, p.key ≤ a → a < p.key + 32 → t.mem.read a = (spillEntry o).getD (a - p.key) 0)
    ∧ (base ≠ 0 → ringSize size = true → x.put - x.take = size →
      ∃ t, exec i s = .next t ∧ findOp t n = some { o with held := true } ∧ t.mem = s.mem)
    ∧ ((base = 0 ∨ ringSize size = false) → ∃ t, exec i s = .next t ∧ findOp t n = some { o with held := true })

end Sys2Proof.Claims

/-- R231 to R234, R245, R189, R330 to R332, R217, R348, R349: what happens to strands and chunks between instructions.
Model's choices among these: log entries 4, 26, 36, 59, 93, 94, 99. -/
def Obligations.ChunkEvents : Prop := chunkGrants ∧ chunkSteps ∧ boundaryTraps ∧ coreRests

/-- R191, R193 to R195, R197, R198, R201 to R203, R265, R285: released operations at their ports and homes: what they do, where
they are refused, and where they go to the spill ring.
Model's choices among these: log entries 20, 69, 70, 71, 86. -/
def Obligations.OperationEvents : Prop :=
  countersAdd ∧ countersWait ∧ remotesExecute ∧ postedCombine ∧ operationsRefused ∧ operationsSpilled

/-! ## Events of engines (chapters 07, 12) -/

namespace Sys2Proof.Claims

/-- The counter of handle `h`, if there is one, takes an add of a unit for the context: its core is claimed or held for it,
alive and not stopped, and nothing is in flight before the add (Table 10.1a). -/
def AddTaken (s : State) (ctx : Nat) (h : Word) : Prop :=
  h ≠ 0 → ∃ l i, handleOf h = some (l, i) ∧ s.eng.ops = [] ∧ fateOf s ctx l true = .apply ∧ (s.die (dieOf l)).lost = false
    ∧ (s.core l).dbgHalt = false ∧ (∀ p ∈ (s.core l).strands, p.2.stopped = false) ∧ fget (s.core l).ctrBad false i = false

/-- The add of `a` to the counter of handle `h` has been applied, and no other counter has changed. -/
def UnitAdds (s t : State) (h : Word) (a : Nat) : Prop :=
  ∀ l i, handleOf h = some (l, i) →
    CounterBecomes s t l i (min (2 ^ 64 - 1) ((fget (s.core l).ctr 0 i).toNat + a))

/-- R208, R209, R235: a transfer takes a slot of its cluster in order, which gives the go its identifier, and starts when
its wait counter is as far as xe.wval. -/
def copyStarts : Prop :=
  ∀ (s : State) (n : Nat) (x : Copy) (w : Await), findCopy s n = some x → x.grp = 0 → x.st = .queued →
    (∀ y ∈ s.eng.copies, clusterOf y.src.core = clusterOf x.src.core → y.st = .queued → n ≤ y.num) →
    copySlots s (clusterOf x.src.core) < 32 → gateShut s x.src n = false →
    Lone s x.ctx x.src → (s.strand x.src).await = some w →
    (x.reg 0x106 = 0 → copyBlocks x ≠ [] → ∃ t y, exec (.copyTransferStart n) s = .next t ∧ findCopy t n = some y
      ∧ y.st = .running ∧ y.set = x.set ∧ (∃ q, y.snap = some q ∧ q.mem = s.mem) ∧ t.mem = s.mem
      ∧ (t.strand x.src).await = some { w with got := some (some x.ident) })
    ∧ (∀ l i, handleOf (x.reg 0x106) = some (l, i) → (fget (s.core l).ctr 0 i).toNat < (x.reg 0x107).toNat →
      ∃ t y, exec (.copyTransferStart n) s = .next t ∧ findCopy t n = some y ∧ y.st = .slotted ∧ t.mem = s.mem
        ∧ (t.strand x.src).await = some { w with got := some (some x.ident) })

/-- R209, R236: one destination block of a row in plain memory: the source bytes stand at the destination, nothing else
changes, xe.ctr goes up by 1. (The source may be read as it stood at the start or now; here both are the same.) -/
def copyBlockWrites : Prop :=
  ∀ (s : State) (n b : Nat) (x : Copy), Calm s → findCopy s n = some x → x.grp = 0 → x.st = .running →
    x.snap = some ⟨s.mem, s.poison, s.tags, s.cores⟩ → x.owed = [] → AddTaken s x.ctx (x.reg 0x108) → ¬ b ∈ x.done → bits (x.reg 0x104) 15 0 = 1 →
    let d := (x.reg 0x101).toNat
    let lo := max d (b * 512)
    let hi := min (d + bits (x.reg 0x105) 23 0) (b * 512 + 512)
    lo < hi → ∀ (k : Nat) (p : Spot),
    (∀ i < hi - lo, ∃ q, unitSpot s (dieOf x.src.core) x.ctx (x.reg 0x100 + BitVec.ofNat 64 (lo - d + i)) .read false = .ok q
      ∧ PlainLeaf q.leaf ∧ q.key = k + i) →
    unitSpot s (dieOf x.src.core) x.ctx (BitVec.ofNat 64 lo) .write true = .ok p → PlainLeaf p.leaf →
    ∃ t, exec (.copyBlockWrite n b) s = .next t
      ∧ Wrote s t p.key ((upto k (hi - lo)).map s.mem.read)
      ∧ (∀ y, findCopy t n = some y → b ∈ y.done) ∧ UnitAdds s t (x.reg 0x108) 1

/-- R211, R313, R314, R320: an operation that every full member has issued alike starts under its group's view, with its
contribution at its own engine; one that is not issued everywhere only takes its slot. -/
def collectiveStarts : Prop :=
  ∀ (s : State) (n : Nat) (x : Coll), findColl s n = some x → x.qgrp = 0 → x.running = false → x.failed = false →
    x.changed = false → Lone s x.ctx x.src →
    (x.slotted = true → allIssued s x = true → allAgree s x = true → hasRemote s x = false →
      stagingUsed s (collDie x) + stagingNeed s x ≤ stagingBytes s → stagingQueue s x = false →
      ∀ codes, readSource s x (sourceElems x (collMembers s x).length (collRank s x)) = some codes →
      ∃ t y, exec (.collectiveStart n) s = .next t ∧ findColl t n = some y ∧ y.running = true
        ∧ y.n0 = (collMembers s x).length ∧ y.view = (s.group x.grp).viewN ∧ t.mem = s.mem
        ∧ (collDie x, (⟨x.grp, (s.group x.grp).viewN, x.seq, memberOf s (collDie x), codes⟩ : Partial)) ∈ t.eng.partials
        ∧ ((s.strand x.src).ceLast = n → (t.strand x.src).ceStatus = 2))
    ∧ (∀ w, x.slotted = false → (s.strand x.src).await = some w →
      (s.eng.colls.filter fun y => collDie y == collDie x && y.slotted).length < 16 →
      (∀ y ∈ s.eng.colls, collDie y = collDie x → y.slotted = true ∨ n ≤ y.num) → gateShut s x.src n = false →
      (∃ m ∈ collMembers s x, isLocal s m = true ∧
        ∀ y ∈ s.eng.colls, y.grp = x.grp → y.seq = x.seq → collDie y ≠ m % 8) →
      ∃ t y, exec (.collectiveStart n) s = .next t ∧ findColl t n = some y ∧ y.slotted = true ∧ y.running = false
        ∧ (t.strand x.src).await = some { w with got := some (some x.ident) })

/-- R320: a partial of an earlier view than the die's is dropped, any other is kept once. -/
def partialsArrive : Prop :=
  ∀ (s : State) (d : Nat) (p : Partial), (isLocal s p.member = true → (d, p) ∈ s.eng.flying) →
    (∀ y ∈ s.eng.colls, ¬ (y.grp = p.grp ∧ y.seq = p.seq ∧ collDie y = d ∧ y.running = true)) →
    (p.view < (s.group p.grp).viewN → ∃ t, exec (.collectivePartial d p) s = .next t ∧ t.eng.partials = s.eng.partials
      ∧ t.eng.flying = s.eng.flying.erase (d, p))
    ∧ ((s.group p.grp).viewN ≤ p.view → ¬ (d, p) ∈ s.eng.partials → ∃ t, exec (.collectivePartial d p) s = .next t
      ∧ t.eng.partials = s.eng.partials ++ [(d, p)] ∧ t.eng.flying = s.eng.flying.erase (d, p))

/-- The result of an operation in staging: once it is there, or as it comes to be, every contribution of its view at hand
and every destination of the module's members in place (R315, R316). -/
def Staged (s : State) (x : Coll) (out : List Byte) : Prop :=
  x.out = some out
  ∨ (x.out = none ∧ x.placed = 0 ∧ x.running = true ∧ x.failed = false
    ∧ x.view = (s.group x.grp).viewN ∧ hasRemote s x = false ∧ allHere s x = true
    ∧ (∀ y ∈ s.eng.colls, y.grp = x.grp → y.seq = x.seq → y.running = true → y.out = none → destOk s y = true)
    ∧ ∃ ls, contributions s x = some ls
      ∧ out = (collResult x (collRank s x) ls).flatMap fun v =>
          leBytes (collSize x) v.toNat)

/-- R315, R316, R211: once every contribution of its view is there, an operation writes its destination, one 512-byte block
at a time; with the last one it sets ce.status to STATE 3 (4 where the view has changed) with its view, adds 1 to ce.ctr and
is gone. -/
def collectivesComplete : Prop :=
  ∀ (s : State) (n : Nat) (x : Coll) (out : List Byte) (b : Nat × Nat) (p : Spot), Calm s → findColl s n = some x →
    x.qgrp = 0 → (s.group x.grp).state ≠ 3 → Staged s x out →
    let blocks := blocksOf (x.reg 0x202).toNat out.length
    blocks[x.placed]? = some b → destSpot s x b.1 = some p → PlainLeaf p.leaf →
    ∃ t, exec (.collectiveComplete n) s = .next t ∧ Wrote s t p.key ((out.drop b.1).take b.2)
      ∧ (x.placed + 1 < blocks.length → ∃ y, findColl t n = some y ∧ y.out = some out ∧ y.placed = x.placed + 1)
      ∧ (x.placed + 1 = blocks.length → findColl t n = none
        ∧ (AddTaken s x.ctx (x.reg 0x207) → UnitAdds s t (x.reg 0x207) 1)
        ∧ (Lone s x.ctx x.src → (s.strand x.src).ceLast = n → (s.strand x.src).ceStatus ≠ 0 →
          (t.strand x.src).ceStatus = BitVec.ofNat 64 (x.view % 2 ^ 32 * 2 ^ 32 + if x.changed then 4 else 3)))

/-- R315, Table 12.2: a sum of integers is the sum of all contributions modulo 2^32, whatever the tree; a gather lays the
contributions side by side in rank order; a broadcast is rank 0's. -/
def collectiveResults : Prop :=
  ∀ (x : Coll) (q : Nat) (ls : List (List W32)), ls ≠ [] →
    (collKind x = 0 → collComb x = 0 → 3 ≤ collType x → collPolicy x = 0 → ∀ i < collCount x,
      (collResult x q ls).getD i 0 = (ls.map fun l => l.getD i 0).foldr (· + ·) 0)
    ∧ (collKind x = 2 → (∀ l ∈ ls, l.length = collCount x) → collResult x q ls = ls.flatten)
    ∧ (collKind x = 4 → (∀ l, ls.head? = some l → l.length = collCount x) → collResult x q ls = ls.headD [])

end Sys2Proof.Claims

/-- R208, R209, R211, R235, R236, R313 to R316, R320: copies and collectives start, move their bytes and complete.
Model's choices among these: log entries 17, 18, 19, 74, 75. -/
def Obligations.EngineEvents : Prop :=
  copyStarts ∧ copyBlockWrites ∧ collectiveStarts ∧ partialsArrive ∧ collectivesComplete ∧ collectiveResults

/-! ## Events of the view unit, the links and the host (chapters 09, 12) -/

namespace Sys2Proof.Claims

/-- Member `m` is suspect in every entry that lists it as full. -/
def Suspected (s t : State) (m : Nat) : Prop :=
  ∀ g, (s.group g).valid = true → m ∈ (s.group g).full → m ∈ (t.group g).suspects

/-- A message for module `mod` has left on a port, or waits for one (R326, R327). -/
def OnItsWay (t : State) (mod : Nat) (m : LinkMsg) : Prop :=
  (mod, m) ∈ t.net.held ∨ ∃ n, ∃ b ∈ (t.port n).buffer, b.flit.msg = m ∧ bits b.flit.hdr 63 62 = msgClass m

/-- R317, R327, R366, R324: heartbeats go out and come in; silence, a report of the die itself, a SUSPECT message and a die that
fails make members suspect. -/
def suspicion : Prop :=
  ∀ s : State, hubReady s = true →
    (∀ n, (s.port n).up = true → (s.port n).buffer.length < 512 → ∃ t f, exec (.heartbeatSend n) s = .next t
      ∧ (t.port n).buffer = (s.port n).buffer ++ [⟨f, none, none⟩] ∧ f.msg = .idle ∧ bits f.hdr 63 62 = 3
      ∧ Flit.seq f = ((s.port n).txSeq + 1) % 2 ^ 16 ∧ (t.port n).txSeq = Flit.seq f ∧ t.mem = s.mem)
    ∧ (∀ m, (routeTo s m).isSome = true →
      exec (.heartbeat m) s = .next { s with net := { s.net with beats := fset s.net.beats m s.time } })
    ∧ (∀ k m, k ≠ modNum s → fget s.net.beats 0 k + 8000 ≤ s.time → m / 8 = k →
      ∃ t, exec (.heartbeatTimeout k) s = .next t ∧ Suspected s t m ∧ t.mem = s.mem)
    ∧ (∀ m, ∃ t, exec (.suspect m) s = .next t ∧ Suspected s t m ∧ t.mem = s.mem)
    ∧ (∀ d, d < 8 → ∃ t, exec (.dieHeartbeatMiss d) s = .next t ∧ Suspected s t (memberOf s d) ∧ t.mem = s.mem
      ∧ ∀ g, (s.group g).valid = true → memberOf s d ∈ (s.group g).full → ¬ memberOf s d ∈ (s.group g).suspects →
          (modNum s, g, 3, memberOf s d) ∈ t.net.sent
          ∧ ∀ k ∈ (s.group g).full, k / 8 ≠ modNum s → OnItsWay t (k / 8) (.view g (.suspect (memberOf s d))))
    ∧ (∀ d, d < 8 → (s.die d).lost = false → ∃ t, exec (.dieFatalError d) s = .next t ∧ (t.die d).lost = true
      ∧ Suspected s t (memberOf s d)
      ∧ ∀ c : Sid, dieOf c.core = d → (t.strand c).run = .none ∨ (t.strand c).run = .lost)

/-- The next proposal of entry `g` may go out (R318): no quorum rule, view 1, or more than half of the full members. -/
def MayPropose (g : Group) (full : List Nat) : Prop :=
  g.quorum = false ∨ g.viewN = 0 ∨ g.full.length < 2 * (full.filter fun m => g.full.contains m).length

/-- The hub proposes view `num` of entry `grp` with these lists and tells the hub of every listed member. -/
def Proposes (s t : State) (grp num : Nat) (full joining : List Nat) : Prop :=
  ∃ q : Proposal, (t.group grp).state = 1 ∧ (t.group grp).pendN = num ∧ (t.group grp).prop = some q ∧ q.num = num
    ∧ q.full = full ∧ q.joining = joining ∧ q.nextSeq = (s.group grp).nextSeq ∧ (t.group grp).acks = []
    ∧ (t.group grp).deadline = s.time + 50000
    ∧ ∀ k ∈ full ++ joining, (k / 8, grp, 0, num) ∈ t.net.sent
        ∧ (k / 8 ≠ modNum s → OnItsWay t (k / 8) (.view grp (.propose q)))

/-- Table 12.3 for a valid stable entry whose proposer is this hub: a full member that turns suspect, a JOINREQ. -/
def viewStarts : Prop :=
  ∀ (s : State) (grp m : Nat), hubReady s = true → (s.group grp).valid = true → (s.group grp).state = 0 →
    let g := s.group grp
    (m ∈ g.full → ¬ m ∈ g.suspects →
      let h := { g with suspects := m :: g.suspects }
      isProposer s h = true →
      (MayPropose h (nextLists h).1 → ∃ t, exec (.suspect m) s = .next t
        ∧ Proposes s t grp (g.viewN + 1) (nextLists h).1 (nextLists h).2 ∧ ¬ m ∈ (nextLists h).1
        ∧ ∀ k ∈ g.full, ¬ k ∈ h.suspects → k ∈ (nextLists h).1)
      ∧ (¬ MayPropose h (nextLists h).1 → ∃ t, exec (.suspect m) s = .next t ∧ (t.group grp).state = 3))
    ∧ (¬ m ∈ g.full → ¬ m ∈ g.joining → ¬ m ∈ g.joinReq → ¬ m ∈ g.suspects → isProposer s g = true →
      let h := { g with joinReq := m :: g.joinReq }
      MayPropose h (nextLists h).1 → ∃ t, exec (.joinreq grp m) s = .next t
        ∧ Proposes s t grp (g.viewN + 1) (nextLists h).1 (nextLists h).2 ∧ m ∈ (nextLists h).2)

/-- Table 12.3 for a valid entry `g`: proposals, acknowledgements, commits, timers. -/
def viewSteps : Prop :=
  ∀ (s : State) (grp : Nat) (p : Proposal), hubReady s = true → (s.group grp).valid = true →
    let g := s.group grp
    (g.state = 0 → g.viewN < p.num → ∃ t, exec (.propose grp p) s = .next t
      ∧ t.group grp = { g with state := 2, prop := some p, acks := [], pendN := p.num, deadline := s.time + 100000 }
      ∧ (p.leader / 8, grp, 1, p.num) ∈ t.net.sent
      ∧ (p.leader / 8 ≠ modNum s → OnItsWay t (p.leader / 8) (.view grp (.ack p.num (modNum s)))))
    ∧ (g.state = 0 → p.num ≤ g.viewN → exec (.propose grp p) s = .next s)
    ∧ (∀ q, (g.state = 1 ∨ g.state = 2) → g.prop = some q →
      ((g.pendN < p.num ∨ (g.pendN = p.num ∧ p.leader < q.leader)) → ∃ t, exec (.propose grp p) s = .next t
        ∧ t.group grp = { g with state := 2, prop := some p, acks := [], pendN := p.num, deadline := s.time + 100000 }
        ∧ (p.leader / 8, grp, 1, p.num) ∈ t.net.sent
        ∧ (p.leader / 8 ≠ modNum s → OnItsWay t (p.leader / 8) (.view grp (.ack p.num (modNum s)))))
      ∧ ((p.num < g.pendN ∨ (g.pendN = p.num ∧ q.leader ≤ p.leader)) → exec (.propose grp p) s = .next s))
    ∧ (g.pendN ≠ p.num → exec (.viewCommit grp p) s = .next s)
    ∧ (∀ m, g.state = 1 → g.pendN = p.num → g.prop = some p → ¬ m ∈ g.acks →
      ((∃ k ∈ p.full, k / 8 ≠ m ∧ ¬ k / 8 ∈ g.acks) →
        exec (.ack grp p.num m) s = .next (s.setGroup grp { g with acks := m :: g.acks }))
      ∧ ((∀ k ∈ p.full, k / 8 = m ∨ k / 8 ∈ g.acks) → ∃ t, exec (.ack grp p.num m) s = .next t
        ∧ (t.group grp).viewN = p.num ∧ (t.group grp).full = p.full ∧ (t.group grp).joining = p.joining
        ∧ (t.group grp).leader = p.leader ∧ ∀ k ∈ p.full, (k / 8, grp, 2, p.num) ∈ t.net.sent))
    ∧ (g.state = 2 → g.pendN = p.num → ∃ t, exec (.viewCommit grp p) s = .next t
      ∧ (t.group grp).viewN = p.num ∧ (t.group grp).full = p.full ∧ (t.group grp).joining = p.joining
      ∧ (t.group grp).leader = p.leader)
    ∧ (g.state = 1 → g.deadline ≤ s.time → g.prop = some p →
      let there := p.full.filter fun m => g.acks.contains (m / 8) || isLocal s m
      (MayPropose g there → ∃ t, exec (.proposalTimeout grp) s = .next t ∧ Proposes s t grp (g.pendN + 1) there
        (p.joining.filter fun m => g.acks.contains (m / 8) || isLocal s m))
      ∧ (g.quorum = true → 2 * (there.filter fun m => g.full.contains m).length ≤ g.full.length → g.viewN ≠ 0 →
        ∃ t, exec (.proposalTimeout grp) s = .next t ∧ (t.group grp).state = 3))
    ∧ (g.state = 2 → g.deadline ≤ s.time → g.prop = some p → ∃ t, exec (.holdTimeout grp) s = .next t
      ∧ ∀ m, m / 8 = p.leader / 8 → m ∈ g.full → m ∈ (t.group grp).suspects)
    ∧ (g.state = 3 → ∃ t, exec (.force grp) s = .next t ∧ (t.group grp).state = 1 ∧ (t.group grp).pendN = g.viewN + 1)
    ∧ (∀ m, ¬ m ∈ g.full → ¬ m ∈ g.joining → ¬ m ∈ g.joinReq → ∃ t, exec (.joinreq grp m) s = .next t
      ∧ m ∈ (t.group grp).joinReq)
    ∧ (∀ m, m ∈ g.joining → ∃ t, exec (.joinack grp m) s = .next t ∧ m ∈ (t.group grp).joinAck)

/-- R312, R323: a created entry lists its members; the hub of its lowest full member proposes view 1; for each live die of
the module that is named as back and not listed, JOINREQ goes to the hubs of the full members. -/
def groupsCreated : Prop :=
  ∀ (s : State) (grp : Nat) (quorum : Bool) (full : List Nat) (rest : NotFull), hubReady s = true →
    full.length + rest.joining.length ≤ 1024 → ∃ t, exec (.groupEntryCreate grp quorum full rest) s = .next t
      ∧ (t.group grp).valid = true ∧ (t.group grp).quorum = quorum ∧ (t.group grp).full = sortMembers full
      ∧ (t.group grp).joining = sortMembers rest.joining ∧ (t.group grp).viewN = (s.group grp).viewN ∧ t.mem = s.mem
      ∧ (∀ m, (sortMembers full).head? = some m → isLocal s m = true → (s.group grp).state = 0 → (s.group grp).viewN = 0 →
          (s.group grp).suspects = [] → (t.group grp).state = 1 ∧ (t.group grp).pendN = 1)
      ∧ ∀ m ∈ rest.back, isLocal s m = true → (s.die (m % 8)).lost = false → ¬ m ∈ full → ¬ m ∈ rest.joining →
          ∀ k ∈ full, (k / 8, grp, 4, m) ∈ t.net.sent
            ∧ (k / 8 ≠ modNum s → OnItsWay t (k / 8) (.view grp (.joinReq m)))

/-- A byte of memory after a block of another module is placed at `a`: the bytes that the block has (R209, R210). -/
def blockByte (s : State) (a : Nat) (bytes : List (Option (Byte × Bool))) (k : Nat) : Byte :=
  if a ≤ k then (match bytes.getD (k - a) none with | some x => x.1 | none => s.mem.read k) else s.mem.read k

/-- R326, R327, R210: a flit with a bad CRC or out of order changes nothing; one in order is taken, and the block that it
carries is placed once, with its poison, however often it comes; replay; a port that goes down, whose flits move to another of
their route; one that comes back. -/
def ports : Prop :=
  ∀ (s : State) (n : Nat), hubReady s = true → (s.port n).up = true →
    (∀ f, (Flit.good f = false ∨ Flit.seq f ≠ ((s.port n).rxSeq + 1) % 2 ^ 16) → exec (.flitReceive n f) s = .next s)
    ∧ (∀ f, Flit.good f = true → Flit.seq f = ((s.port n).rxSeq + 1) % 2 ^ 16 → Flit.dmod f = modNum s →
      (f.msg = .idle → ∃ t, exec (.flitReceive n f) s = .next t ∧ (t.port n).rxSeq = Flit.seq f ∧ t.mem = s.mem)
      ∧ ∀ src q ident a b, f.msg = .block src q ident a b → Calm s → anyGroup s = false → s.net.inputs = [] →
        localOk a = true → localOk (a + b.length - 1) = true →
        ∃ t, exec (.flitReceive n f) s = .next t ∧ (t.port n).rxSeq = Flit.seq f ∧ wasApplied t src q = true
          ∧ (wasApplied s src q = false → (∀ k, t.mem.read k = blockByte s a b k)
            ∧ ∀ i x, b.getD i none = some (x, true) → fget t.poison false ((a + i) / 32) = true)
          ∧ (wasApplied s src q = true → t.mem = s.mem))
    ∧ (s.net.held = [] → ∀ pre b post q, (s.port n).buffer = pre ++ b :: post → Flit.seq b.flit = q →
      (∀ x ∈ pre, Flit.seq x.flit ≠ q) →
      exec (.linkReplay n q) s = .next (s.setPort n { s.port n with buffer := post, fails := 1 }))
    ∧ (s.net.held = [] → ∀ q, (s.port n).buffer ≠ [] → (∀ x ∈ (s.port n).buffer, Flit.seq x.flit ≠ q) →
      exec (.linkReplay n q) s = .next (s.setPort n { s.port n with fails := (s.port n).fails + 1 }))
    ∧ (16 ≤ (s.port n).fails → (∀ b ∈ (s.port n).buffer, b.err = none) →
      ∃ t, exec (.portDown n) s = .next t ∧ (t.port n).up = false ∧ (t.port n).buffer = []
        ∧ ∀ b k, (s.port n).buffer = [b] → b.flit.msg ≠ .idle →
            routeTo (s.setPort n { s.port n with up := false }) (Flit.dmod b.flit) = some k →
            ∃ f, (t.port k).buffer = (s.port k).buffer ++ [{ b with flit := f }] ∧ f.msg = b.flit.msg)
    ∧ (s.net.held = [] → ∀ k, (s.port k).up = false → exec (.portUp k) s = .next (s.setPort k Port.reset))

/-- R328, R329: the host reads a line of memory, a counter, the mailbox; it writes the selected bytes of a line; it adds to
a counter that a launch claims; what has no place is an error. -/
def hostAccess : Prop :=
  ∀ s : State, s.boot.powered = true → hubReady s = true →
    (∀ a n, a < 2 ^ 40 → Calm s → localOk a = true → ∃ t, exec (.hrd a n) s = .next t ∧ t.mem = s.mem
      ∧ t.net.hrdr = some ((upto a n).map s.mem.read, false))
    ∧ (∀ l i, l < 25600 → i < 64 → fget (s.core l).ctrBad false i = false → (s.die (dieOf l)).lost = false →
      ∃ t, exec (.hrd (2 ^ 40 + l * 0x200 + 8 * i) 8) s = .next t
        ∧ t.net.hrdr = some (leBytes 8 (fget (s.core l).ctr 0 i).toNat, false))
    ∧ (∀ n, ∃ t, exec (.hrd 0x1E000000000 n) s = .next t ∧ t.net.hrdr = some (List.replicate n 255, true)
      ∧ t.net.hostErr = s.net.hostErr + 1)
    ∧ (∀ (a : Nat) (v : BitVec 512) (m : BitVec 64), Calm s → anyGroup s = false → s.net.inputs = [] → a % 64 = 0 →
      (∀ x k, (x = HostTarget.hostMem a ∧ k = hostBase + a ∧ a < 2 ^ 52) ∨ (x = .window a ∧ k = a ∧ a < 2 ^ 40 ∧ localOk a = true) →
        ∃ t, exec (.hwr x v m) s = .next t ∧ ∀ b, t.mem.read b =
          if k ≤ b ∧ b < k + 64 ∧ m.getLsbD (b - k) = true then v.extractLsb' (8 * (b - k)) 8 else s.mem.read b))
    ∧ (∀ a v m, a % 64 ≠ 0 → ∃ t, exec (.hwr (.hostMem a) v m) s = .next t ∧ t.net.hostErr = s.net.hostErr + 1
      ∧ t.mem = s.mem)
    ∧ ∀ (h : Nat) (a : BitVec 32) (l i : Nat), handleOf (BitVec.ofNat 64 h) = some (l, i) → s.net.inputs = [] →
      addGroup s (BitVec.ofNat 64 h) = none → (s.die (dieOf l)).lost = false →
      (∀ ctx, coreContext s l = some ctx → AddTaken s ctx (BitVec.ofNat 64 h) →
        ∃ t, exec (.hcadd h a) s = .next t ∧ UnitAdds s t (BitVec.ofNat 64 h) a.toNat)
      ∧ (coreContext s l = none → ∃ t, exec (.hcadd h a) s = .next t ∧ t.net.hostErr = s.net.hostErr + 1)

/-- R256, R259, R262: a walk that finds a leaf changes no memory; the oldest notice leaves its record and its add; the
patrol corrects, counts and poisons. -/
def unitsOfMemory : Prop :=
  (∀ (s u : State) (l lid : Nat) (va : Word) (x : Leaf), (s.core l).claim = some lid →
    translate s l (ctxOf s lid) va = .ok (x, u) → exec (.pageWalk l va) s = .next u ∧ u.mem = s.mem
      ∧ ∃ v, translate u l (ctxOf s lid) va = .ok (x, v))
  ∧ (∀ (s : State) (d : Nat) (n : Notice) (rest : List Notice) (l i : Nat) (p : Spot), Calm s →
    (s.die d).notices = n :: rest → noticeGroup s n.ctx = none → handleOf (memWord s (n.ctx + 16)) = some (l, i) →
    ringSize (bits (memWord s (n.ctx + 24)) 15 0) = true → memWord s (n.ctx + 8) ≠ 0 →
    unitSpot s d n.ctx (memWord s (n.ctx + 8)
      + BitVec.ofNat 64 ((fget (s.core l).ctr 0 i).toNat % bits (memWord s (n.ctx + 24)) 15 0 * 32)) .write false = .ok p →
    PlainLeaf p.leaf → AddTaken s n.ctx (memWord s (n.ctx + 16)) →
    ∃ t, exec (.notificationRecord d) s = .next t ∧ (t.die d).notices = rest ∧ Wrote s t p.key (noticeBytes d n)
      ∧ UnitAdds s t (memWord s (n.ctx + 16)) 1)
  ∧ ∀ (s : State) (a : Nat), localOk a = true →
    exec (.patrolScrub a .clean) s = .next s
    ∧ exec (.patrolScrub a .uncorrectable) s = .next { s with poison := fset s.poison (a / 32) true }
    ∧ ∃ t, exec (.patrolScrub a .corrected) s = .next t ∧ t.mem = s.mem
      ∧ let p := siteCode s (.slice (a / dieStep) (sliceOf a))
        fget (t.die p.1).ce 0 p.2 = fget ((rollWindow s).die p.1).ce 0 p.2 + 1

end Sys2Proof.Claims

/-- R312, R317, R318, R323, R324, R366, Table 12.3: suspicion, proposals and views.
Model's choices among these: log entries 51, 53, 54, 55. -/
def Obligations.ViewEvents : Prop := suspicion ∧ viewStarts ∧ viewSteps ∧ groupsCreated

/-- R256, R259, R262, R326 to R329: flits, host messages, walks, notices, the patrol.
Model's choices among these: log entries 15, 19, 55, 56, 57, 58. -/
def Obligations.LinkAndHostEvents : Prop := ports ∧ hostAccess ∧ unitsOfMemory

/-! ## Events of launches (chapters 08, 10) -/

namespace Sys2Proof.Claims

/-- R38, R265, R268, R272, R281: an accepted record is a live launch under the next number, which has its cores with empty
pools and counter files. -/
def acceptance : Prop :=
  ∀ (s u : State) (x : Launch), acceptLaunch s x = some u →
    u.lu.nextLid = s.lu.nextLid + 1
    ∧ ∃ y, u.launch s.lu.nextLid = some y ∧ y.ctx = x.ctx ∧ y.recVA = x.recVA ∧ y.det = x.det ∧ y.anchor = x.anchor
      ∧ ∀ l ∈ acceptCores x, l ∈ y.cores ∧ (u.core l).claim = some s.lu.nextLid ∧ (u.core l).nstr = x.nstr
          ∧ (u.core l).nacc = x.nacc ∧ (u.core l).arms = [] ∧ (∀ k, poolByte u l k = 0) ∧ ∀ i, fget (u.core l).ctr 0 i = 0

/-- R267, R270, R272, R274, R290: a record is read and refused, accepted, or waits for its cores or its mode. -/
def recordsFetched : Prop :=
  ∀ (s : State) (q : Nat) (ds : List Word), q < 64 → recordWaits s q = true → queueOutranked s q (peekPrio s q) = false →
    let s1 := setQueue s q { s.queue q with fetched := (s.queue q).fetched + 1 }
    let r : Rec := ⟨some q, none, (queueDesc s q).ctxd, nextRecord s q, ds, s.time, none⟩
    readDwords s1 r.ctx r.va 32 = some ds →
    (∀ e v, checkRecord s1 r = .error e → writeState (if e = 0x14 then flagRecord s1 r else s1) r.ctx r.va 0 e = some v →
      ∃ t, exec (.recordFetch q) s = .next t ∧ (t.queue q).lastErr = e ∧ (t.queue q).errCount = (s.queue q).errCount + 1
        ∧ (t.queue q).fetched = (s.queue q).fetched + 1 ∧ (t.queue q).waitingRec = none
        ∧ (AddTaken v r.ctx (ds.getD 17 0) → UnitAdds v t (ds.getD 17 0) (bits (ds.getD 18 0) 31 0)))
    ∧ (∀ x u, checkRecord s1 r = .ok (some x) → modeDiffers s1 r = false → siteCheck s1 x = none → canAccept s1 x = true →
      acceptLaunch s1 x = some u → exec (.recordFetch q) s = .next (setWaiting u q none))
    ∧ (∀ x, checkRecord s1 r = .ok (some x) → modeDiffers s1 r = false → siteCheck s1 x = none → canAccept s1 x = false →
      exec (.recordFetch q) s = .next (setWaiting s1 q (some { r with body := some x })))
    ∧ ∀ b, checkRecord s1 r = .ok b → modeDiffers s1 r = true →
      exec (.recordFetch q) s = .next (setWaiting s1 q (some { r with body := b }))

/-- R272, R274, R281, R290: what waits goes on when its cores are free, or the launches before it have retired. -/
def recordsGoOn : Prop :=
  (∀ (s : State) (q : Nat) (r : Rec), (s.queue q).waitingRec = some r → q < 64 → queueOutranked s q r.prio = false →
    (∀ x u, r.body = some x → modeDiffers s r = false → siteCheck s x = none → canAccept s x = true →
      acceptLaunch s x = some u → exec (.footprintReserve q) s = .next (setWaiting u q none))
    ∧ (modeDiffers s r = true → (∀ p ∈ s.lu.launches, p.2.queue ≠ some q) →
      let s1 := setCtx s r.ctx { ctxCopy s r.ctx with det := r.det, steady := r.steady }
      (∀ u, r.body = none → retireMode s1 r = some u → exec (.modeChange q) s = .next (setWaiting u q none))
      ∧ ∀ x u, r.body = some x → siteCheck s1 x = none → canAccept s1 x = true → acceptLaunch s1 x = some u →
          exec (.modeChange q) s = .next (setWaiting u q none)))
  ∧ (∀ (s u : State) (k : Nat) (r : Rec) (x : Launch), s.lu.children[k]? = some r → r.det = 0 → r.body = some x →
    siteCheck s x = none → canAccept s x = true →
    acceptLaunch { s with lu := { s.lu with children := s.lu.children.erase r } } x = some u →
    exec (.footprintReserve (64 + k)) s = .next u)
  ∧ ∀ (s u : State) (n lid : Nat) (o : Op) (va : Word) (ds : List Word) (x : Launch), findOp s n = some o →
    o.rel = .launch va lid → freeOp s o = true → canArrive s o = true →
    readDwords (dropOp s n) o.ctx va 32 = some ds →
    checkRecord (dropOp s n) ⟨none, some lid, o.ctx, va, ds, s.time, none⟩ = .ok (some x) →
    canAccept (dropOp s n) x = true → acceptLaunch (dropOp s n) x = some u →
    exec (.recordFetch (64 + n)) s = .next u

/-- R375, R267: a queue that is not served or whose descriptor is invalid is read for the first time, 10 µs after the last
time, or once its submission counter has advanced; a valid one with EN = 1 is served and holds its counter's core, whose
counters are zero when the hold begins; LASTERR is 0x1A when one is first found invalid. -/
def queuesPolled : Prop :=
  ∀ (s : State) (q : Nat), let d := queueDesc s q
    q < 64 → hubReady s = true → ((s.queue q).served = false ∨ queueInvalid s d = true) →
    ((s.queue q).read = false ∨ (s.queue q).polled + 10000 ≤ s.time ∨ (s.queue q).seen < subCount s d) →
    ((d.en = false ∨ queueInvalid s d = true) → ∃ t, exec (.queuePoll q) s = .next t ∧ (t.queue q).served = false
      ∧ (t.queue q).polled = s.time ∧ (t.queue q).read = true ∧ (t.queue q).invalid = queueInvalid s d
      ∧ (queueInvalid s d = true → (s.queue q).invalid = false → (t.queue q).lastErr = 0x1A)
      ∧ ((queueInvalid s d = false ∨ (s.queue q).invalid = true) →
          (t.queue q).lastErr = (s.queue q).lastErr ∧ t.mem = s.mem))
    ∧ ∀ l i, d.en = true → queueInvalid s d = false → handleOf d.subctr = some (l, i) →
      ∃ t, exec (.queuePoll q) s = .next t ∧ (t.queue q).served = true ∧ (t.queue q).hold = some l
        ∧ (t.core l).hold = some d.ctxd ∧ t.mem = s.mem
        ∧ ((s.core l).hold ≠ some d.ctxd → ∀ k, fget (t.core l).ctr 0 k = 0)
        ∧ ((s.core l).hold = some d.ctxd → ∀ k, fget (t.core l).ctr 0 k = fget (s.core l).ctr 0 k)

/-- The progress of node `k` of a launch. -/
def nodeState (s : State) (lid k : Nat) : Option NodeState := (s.launch lid).bind fun x => x.nodes[k]?.map fun n => n.st

/-- R277: a due node reads its predicate once; R278: a launch that is done retires and frees its cores; the runtime can
end one before. -/
def launchesEnd : Prop :=
  ∀ (s : State) (lid : Nat) (x : Launch), s.launch lid = some x →
    (∀ k n, x.det = 0 → x.nodes[k]? = some n → n.st = .due →
      (n.pred = 0 → ∃ t, exec (.nodeReady lid k) s = .next t ∧ nodeState t lid k = some .ready ∧ t.mem = s.mem)
      ∧ (∀ bs, n.pred ≠ 0 → hubRead s x.ctx n.pred 4 = some bs → leNat bs ≠ 0 →
        ∃ t, exec (.nodeReady lid k) s = .next t ∧ nodeState t lid k = some .ready ∧ t.mem = s.mem)
      ∧ (∀ bs, n.pred ≠ 0 → hubRead s x.ctx n.pred 4 = some bs → leNat bs = 0 → fget (s.core x.anchor).ctrBad false n.dctr = false →
        ∃ t, exec (.nodeReady lid k) s = .next t ∧ nodeState t lid k = some .skipped
          ∧ CounterBecomes s t x.anchor n.dctr
              (min (2 ^ 64 - 1) ((fget (s.core x.anchor).ctr 0 n.dctr).toNat + n.count * n.damt))))
    ∧ (∀ u, x.det = 0 → canRetire s x = true → writeState s x.ctx x.recVA lid 2 = some u →
      ∃ t, exec (.launchRetire lid) s = .next t ∧ t.launch lid = none
        ∧ ∀ l ∈ x.cores, (s.core l).claim = some lid → (t.core l).claim = none)
    ∧ ∃ t, exec (.launchTerminate lid) s = .next t ∧ t.launch lid = none
        ∧ ∀ c : Sid, (s.strand c).run ≠ .none → (s.strand c).lid = lid → (t.strand c).run = .none

/-- R39, R276, R279, R280: the first entry of the pool that fits starts where the rules put it, a single strand with the
registers of R39. -/
def instancesStart : Prop :=
  ∀ (s : State) (lid k i l j : Nat) (x : Launch) (n : Node), s.launch lid = some x → x.det = 0 →
    x.nodes[k]? = some n → s.lu.throttled = false → i ∈ openInstances x n → (x.lev n.level).domain = 0 →
    (x.lev n.level).twin = false → s.dbg.replay = none → chooseUnit s x n i = some l → startsOn s x 0 l = some j →
    outranked s (keyOf s x k n i) [l] = false →
    ∃ t, exec (.instanceDispatch lid k i l j) s = .next t
      ∧ (t.strand ⟨l, j⟩).run = .ready ∧ (t.strand ⟨l, j⟩).lid = lid ∧ (t.strand ⟨l, j⟩).node = k
      ∧ (t.strand ⟨l, j⟩).inst = i ∧ (t.core l).claim = some lid
      ∧ (t.strand ⟨l, j⟩).arch.pc = n.entry ∧ (t.strand ⟨l, j⟩).arch.priv = false
      ∧ (∀ r, (t.strand ⟨l, j⟩).arch.rg r = if r = 1 then x.arg else 0) ∧ (∀ r, (t.strand ⟨l, j⟩).arch.rv r = 0)
      ∧ (t.strand ⟨l, j⟩).arch.cr' 4 = x.tvec &&& 0xFFFFFFFFFFFFFFFC

/-- R239, R288: the end of a quantum of a group that has nothing to place: every strand at its boundary goes on with a count
of zero, and nothing else of it changes. With one strand and one chunk of plain stores, that chunk commits at the end. -/
def quantaEnd : Prop :=
  ∀ (s : State) (g : Nat), Calm s → quantumEnds s g = true → s.eng.ops = [] → s.eng.copies = [] → s.eng.colls = [] →
    s.net.inputs = [] → s.lu.children = [] → s.dbg.reports = [] → (∀ d, (s.die d).notices = [] ∧ (s.die d).view = []) →
    (∀ p ∈ s.lu.launches, p.2.running ≠ [] ∧ ∀ n ∈ p.2.nodes, n.st ≠ .due ∧ n.st ≠ .ready) →
    (∀ l, (s.core l).arms = []) →
    (∀ c ∈ groupStrands s g, (s.strand c).run = .boundary ∧ (s.strand c).await = none ∧ (s.strand c).debugReq = none
      ∧ (s.strand c).parkReq = false ∧ (s.strand c).solo = none ∧ (s.strand c).twin = none) →
    ((∀ c ∈ groupStrands s g, (s.strand c).waiting = []) → ∃ t, exec (.quantumEnd g) s = .next t ∧ t.mem = s.mem
      ∧ ∀ c ∈ groupStrands s g, (t.strand c).run = .ready ∧ (t.strand c).quantum = 0
          ∧ (t.strand c).arch = (s.strand c).arch)
    ∧ ∀ c ch, groupStrands s g = [c] → (s.strand c).waiting = [ch] → ch.drained = true → ch.ops = [] → PlainWrites ch →
      ∃ t, exec (.quantumEnd g) s = .next t ∧ (t.strand c).waiting = [] ∧ (t.strand c).quantum = 0
        ∧ ∀ k, t.mem.read k = (ffind ch.writes k).getD (s.mem.read k)

/-- R283, R284, R286: a victim's strands are asked to leave, which squashes a chunk that has not requested its commit; once
they rest the occupancy is husked and its core is free, or stays where its husk cannot be written; when the core is free again
and no entry of the pool comes first, it resumes there. -/
def preemption : Prop :=
  (∀ (s : State) (lid victim l : Nat) (y : Launch), s.launch victim = some y → y.lid = victim → y.det = 0 →
    (s.core l).claim = some victim → (s.core l).bunch = none → strandsOn s victim l ≠ [] → bitOf s.dbg.trctl 0 = false →
    (preempts s lid victim l = true → (∃ c ∈ strandsOn s victim l, (s.strand c).preReq = false) →
      ∃ t, exec (.preempt lid victim l) s = .next t ∧ t.mem = s.mem
        ∧ ∀ c ∈ strandsOn s victim l, (t.strand c).preReq = true
          ∧ ∀ ch, (s.strand c).opened = some ch → (s.strand c).waiting = [] → ch.held = false → ch.solo = false →
              ch.drained = false → ch.badShadow = false → (t.strand c).opened = none ∧ (t.strand c).arch = ch.start)
    ∧ ((∀ c ∈ strandsOn s victim l, (s.strand c).preReq = true ∧ atRest s c = true) →
      (leaveWritable s l = true → ∀ u, huskCore s y l = some u →
        exec (.preempt lid victim l) s = .next (dropWaits u y.ctx))
      ∧ (leaveWritable s l = false → ∃ t, exec (.preempt lid victim l) s = .next t
        ∧ ∀ c ∈ strandsOn s victim l, (t.strand c).preReq = false)))
  ∧ (∀ (s u : State) (l : Nat) (y : Launch), s.launch y.lid = some y → huskCore s y l = some u →
    (∀ k, (u.strand ⟨l, k⟩).run = .none) ∧ (y.anchor ≠ l → (u.core l).claim = none)
    ∧ y.lid ∈ (u.core l).husked ∧ ∃ z h, u.launch y.lid = some z ∧ h ∈ z.husks ∧ h.core = l ∧ h.since = s.time)
  ∧ ∀ (s u : State) (lid l : Nat) (x : Launch) (h : Husk), s.launch lid = some x → x.lid = lid → x.husks = [h] → h.core = l →
    h.kept = none → resumeSet s x h = [(x, h)] → s.lu.throttled = false → resumable s x l = true →
    outranked s (huskKey s x h) [l] = false →
    reviveOn s x h = some u → exec (.huskResume lid l) s = .next u ∧ (u.core l).claim = some lid
      ∧ ∃ y, u.launch lid = some y ∧ y.husks = []

end Sys2Proof.Claims

/-- R38, R39, R239, R265 to R290, R375: queues, records, nodes, instances, quanta, pre-emption and resumption, the ends of
launches.
Model's choices among these: log entries 22, 33, 34, 36, 38, 39, 40, 49, 50, 92. -/
def Obligations.LaunchEvents : Prop :=
  acceptance ∧ recordsFetched ∧ recordsGoOn ∧ queuesPolled ∧ launchesEnd ∧ instancesStart ∧ quantaEnd ∧ preemption

/-! ## Repair, clocks, power, starts, management (chapters 13, 17) -/

namespace Sys2Proof.Claims

/-- The REASON of an entry: that of the retirement under way, else `r`. -/
def reasonOf (s : State) (u : RepairUnit) (r : Nat) : Nat := match moveOf s u with | some m => m.reason | none => r

/-- R343, R344: a core whose site has too many corrected errors, or that management retires, moves to a spare when its
strands rest: an entry in the repair map and the store; before that the retirement gets under way, and they are asked to rest;
one that is under way goes on, whatever the counts of errors have become; without a spare the core is marked for the next cold
start. -/
def retirements : Prop :=
  ∀ (s : State) (d c k : Nat), unitOk (.core d c k) = true →
    let u : RepairUnit := .core d c k
    let l := d * 3200 + c * 16 + k
    ∀ e ∈ [((.cethreshReached u : Instr), 2, rollWindow s,
            ceThresh s ≤ fget ((rollWindow s).die (siteCode s u).1).ce 0 (siteCode s u).2
              ∨ ∃ m, moveOf s u = some m ∧ m.reason = 2),
           (.liveRetirement u, 4, s, stateLost s u = false), (.liveRetirement u, 3, s, stateLost s u = true)], e.2.2.2 →
      let s1 := e.2.2.1
      let r := reasonOf s u e.2.1
      (∀ p j, placeFor s1 u = some p → readyToMove s1 u = true → (s1.core l).claim = none → freeEntry s1 d = some j →
        ∃ t, exec e.1 s = .next t ∧ t.mem = s.mem ∧ moveOf t u = none
          ∧ fget t.boot.repair 0 (d * 512 + j) = entryFor s1 u p.1 p.2.1 p.2.2 r false
          ∧ fget t.boot.repairStore 0 (d * 512 + j) = entryFor s1 u p.1 p.2.1 p.2.2 r false)
      ∧ (∀ p v w, placeFor s1 u = some p → readyToMove s1 u = true → movable s1 l = true → saveCore s1 l = some v →
        reloadCore (addEntry v d (entryFor s1 u p.1 p.2.1 p.2.2 r false)) l = some w →
        ∃ t, exec e.1 s = .next t ∧ t.mem = w.mem ∧ t.boot.repair = w.boot.repair ∧ moveOf t u = none
          ∧ ∀ x ∈ movingStrands s1 l, (t.strand x).preReq = false ∧ (t.strand x).arch = (w.strand x).arch)
      ∧ (∀ p, placeFor s1 u = some p → readyToMove s1 u = false →
        ∃ t m, exec e.1 s = .next t ∧ (∀ x ∈ movingStrands s1 l, (t.strand x).preReq = true)
          ∧ moveOf t u = some m ∧ m.reason = r)
      ∧ (placeFor s1 u = none → stateLost s1 u = false →
        let x := (d, entryFor s1 u (placeNow s1 u).1 (placeNow s1 u).2.1 (placeNow s1 u).2.2 r true)
        ¬ x ∈ s.boot.doomed → exec e.1 s = .next { s1 with boot := { s1.boot with doomed := s1.boot.doomed ++ [x] } })

/-- R292: after a second mismatch the chunk runs a third time, from the common start state of both copies; without a spare for
it both take TWINFAIL, SUB 0. When the third run requests its commit, its write-set hash decides: it agrees with no copy, and
both take TWINFAIL, SUB 1; or it agrees with one, and it commits as the first copy's chunk, while the other copy's strand takes
the state behind it. R343: the window of corrected errors. -/
def twinsAndWindows : Prop :=
  (∀ (s : State) (a b : Sid) (hash : BitVec 64), a ≠ b → twinPair s a = some (a, b) →
    (∀ x y, (s.strand a).third = none → twinHeads s a b = some (x, y) → twinsAgree s a b x y = false →
      (s.strand a).mismatch ≠ 0 →
      (twinSpare s a b = none → ∃ t, exec (.twinThirdRun a hash) s = .next t
        ∧ (t.strand a).sync = some ⟨0x15, 0, 0⟩ ∧ (t.strand b).sync = some ⟨0x15, 0, 0⟩)
      ∧ ∀ p, twinSpare s a b = some p → ∃ t, exec (.twinThirdRun a hash) s = .next t
        ∧ (t.strand a).third = some ⟨crc64 (writeSet s a x), crc64 (writeSet s b y), p⟩
        ∧ ∀ c ∈ [(a, x), (b, y)], (t.strand c.1).waiting = [] ∧ (t.strand c.1).opened = none
            ∧ ((∀ ch ∈ (s.strand c.1).chunks, ch.badShadow = false) → (t.strand c.1).arch = c.2.start))
    ∧ ∀ r ch rest, (s.strand a).third = some r → (s.strand a).waiting = ch :: rest → ch.drained = true →
      crc64 (writeSet s a ch) = hash →
      (r.first ≠ hash → r.second ≠ hash → ∃ t, exec (.twinThirdRun a hash) s = .next t
        ∧ (t.strand a).sync = some ⟨0x15, 1, 0⟩ ∧ (t.strand b).sync = some ⟨0x15, 1, 0⟩)
      ∧ (r.first = hash ∨ r.second = hash → Calm s → removalBlocks s a = false → grantBlocked s a ch = false →
        homeLost s ch = false → ch.ops = [] → (s.strand b).chunks = [] → ∃ t, exec (.twinThirdRun a hash) s = .next t
        ∧ (t.strand a).third = none ∧ (t.strand a).waiting = rest ∧ (t.strand b).arch = endArch (s.strand a)
        ∧ (t.strand a).mismatch = 0 ∧ (t.strand b).mismatch = 0
        ∧ (PlainWrites ch → ∀ k, t.mem.read k = (ffind ch.writes k).getD (s.mem.read k))))
  ∧ ∀ s : State, s.boot.window < s.time / 86400000000000 → ∃ t, exec .correctedErrorWindow s = .next t
    ∧ (∀ d k, fget (t.die d).ce 0 k = 0) ∧ t.boot.window = s.time / 86400000000000 ∧ t.mem = s.mem

/-- R345, R346: cluster `n` changes to steady and back, 2 µs each; a stretched cycle changes nothing. -/
def clocks : Prop :=
  ∀ (s : State) (n : Nat), s.boot.powered = true →
    let cl := s.cluster n
    exec (.droopStretch n) s = .next s
    ∧ (cl.steady = false → cl.changing = none → steadyHere s n = true →
      exec (.clockModeChange n) s = .next (s.setCluster n { cl with changing := some (s.time + 2000, true) }))
    ∧ (∀ at' m, cl.changing = some (at', m) → at' ≤ s.time → ∃ t, exec (.clockModeChangeEnd n) s = .next t
      ∧ (t.cluster n).steady = m ∧ (t.cluster n).changing = none ∧ (t.cluster n).cycle = cl.cycle ∧ t.cores = s.cores
      ∧ t.mem = s.mem)
    ∧ (∀ at', cl.idleSince = some at' → cl.steady = true → cl.changing = none → steadyHere s n = false →
      exec (.elasticReturn n) s = .next (s.setCluster n { cl with changing := some (at' + 2000, false), idleSince := none }))

/-- R372: samples lower the elastic clock of a die above PLIMIT, let dispatch go on 100 W below it; after 1 ms with every
die at 0.8 GHz dispatch stops. R368, R372: loss of power and a junction that is too hot leave nothing but host memory. -/
def power : Prop :=
  ∀ s : State, s.boot.powered = true →
    (∀ w h, w ≤ plimit s → exec (.powerSample w h) s = .next { s with
        boot := { s.boot with overSince := none },
        lu := { s.lu with throttled := s.lu.throttled && !decide (w < plimit s - 100) } })
    ∧ (∀ w h, plimit s < w → h < 8 → (s.die h).lost = false → 800 < (s.die h).mhz →
      exec (.powerSample w h) s = .next (s.setDie h { s.die h with mhz := (s.die h).mhz - 50 }))
    ∧ (∀ w h, plimit s < w → (∀ d < 8, (s.die d).lost = true ∨ (s.die d).mhz ≤ 800) → ∃ t, exec (.powerSample w h) s = .next t
      ∧ t.boot.overSince = some (s.boot.overSince.getD s.time) ∧ t.dies = s.dies)
    ∧ (∀ at', s.boot.overSince = some at' → at' + 1000000 ≤ s.time →
      exec .dispatchThrottle s = .next { s with lu := { s.lu with throttled := true } })
    ∧ ∀ d, ∀ i ∈ [Instr.powerLoss, .junctionTrip d], ∃ t, exec i s = .next t ∧ t.boot.powered = false
      ∧ t.boot.nextCold = true ∧ t.boot.keys = [] ∧ (∀ lid, t.launch lid = none) ∧ (∀ c, (t.strand c).run = .none)
      ∧ (s.Inv → ∀ k, t.mem.read k = if k < hostBase then 0 else s.mem.read k)

/-- BOOTSTAT shows a start (Table 17.2): RESULT, KIND, the number of starts, the stage. -/
def Shows (t : State) (result kind tries stage : Nat) : Prop :=
  bits t.boot.bootstat 11 8 = result % 16 ∧ bits t.boot.bootstat 15 12 = kind % 16 ∧ bits t.boot.bootstat 23 16 = tries % 256
  ∧ bits t.boot.bootstat 7 0 = stage % 256

/-- The start goes on to its next stage, and BOOTSTAT shows it running. -/
def GoesOn (t : State) (r : StartRun) : Prop :=
  t.boot.start = some { r with stage := r.stage + 1 } ∧ Shows t 0 r.kind r.tries (r.stage + 1)

/-- R367 to R370: a start abandons every context and runs; after a loss of power it is a cold one. -/
def startsBegin : Prop :=
  ∀ (s : State) (fails : List (List StartFailure)),
    (s.boot.nextCold = false → ∀ e ∈ [((.coldStart fails : Instr), 0, [0]), (.warmStart fails, 1, [0, 0]),
        (.keepMemoryWarmStart fails, 2, [0, 0])],
      ∃ t, exec e.1 s = .next t ∧ t.boot.start = some ⟨e.2.1, 1, 1, e.2.2, fails⟩ ∧ Shows t 0 e.2.1 1 1
        ∧ t.boot.powered = true ∧ (∀ lid, t.launch lid = none) ∧ (∀ c, (t.strand c).run = .none) ∧ t.mem = s.mem
        ∧ t.boot.keys = s.boot.keys ∧ t.time = s.time ∧ ∀ n, (t.cluster n).cycle = (s.cluster n).cycle)
    ∧ (s.boot.nextCold = true → exec (.warmStart fails) s = exec (.coldStart fails) s
        ∧ exec (.keepMemoryWarmStart fails) s = exec (.coldStart fails) s)

/-- R263, R367 to R371, R373, Table 17.1: the stages of a start that has no failures: firmware, repair map, HBM, key slots,
configuration; ready at the end of the last. -/
def stagesRun : Prop :=
  ∀ (s : State) (r : StartRun), s.boot.start = some r → r.fails.headD [] = [] → ∃ t, act s .stage = .next t
    ∧ (r.stage ∈ [1, 3, 4, 5, 6, 7] → GoesOn t r)
    ∧ (r.stage = 2 → (bootChoice s.boot.flash ≠ none → GoesOn t r ∧ t.boot.testLocked = true
          ∧ some t.boot.bootSlot = bootChoice s.boot.flash)
        ∧ (bootChoice s.boot.flash = none → r.retry = [] → t.boot.start = none ∧ Shows t 2 r.kind r.tries 2))
    ∧ (r.stage = 3 → t.boot.repair = s.boot.repairStore)
    ∧ (r.stage = 6 → s.Inv → (r.kind = 2 → t.mem = s.mem)
        ∧ (r.kind ≠ 2 → ∀ k, t.mem.read k = if k < hostBase then 0 else s.mem.read k))
    ∧ (r.stage = 7 → t.boot.keys = if r.kind = 2 then s.boot.keys else [])
    ∧ (r.stage = 8 → confBad s.boot.store = false → t.boot.start = none ∧ Shows t 1 r.kind r.tries 8
        ∧ t.boot.conf = s.boot.store ∧ t.lu.launches = s.lu.launches ∧ (∀ q < 64, (t.queue q).read = true)
        ∧ (r.kind = 0 → t.time = 0 ∧ (∀ n, (t.cluster n).cycle = 0) ∧ ∀ c, (t.strand c).run = .none)
        ∧ (r.kind ≠ 0 → t.time = s.time ∧ ∀ n, (t.cluster n).cycle = (s.cluster n).cycle))
    ∧ (r.stage = 8 → confBad s.boot.store = true → r.retry = [] → t.boot.start = none ∧ Shows t 2 r.kind r.tries 8)

/-- R370, Table 17.2: a failure that its stage stops at ends the start: BOOTSTAT names it, or the next kind is tried. -/
def startsFail : Prop :=
  ∀ (s : State) (r : StartRun) (f : StartFailure), s.boot.start = some r →
    (r.fails.headD []).find? (failsStage r.kind r.stage) = some f → ∃ t, act s .stage = .next t
    ∧ (r.retry = [] → t.boot.start = none ∧ Shows t 2 r.kind r.tries r.stage
        ∧ bits t.boot.bootstat 47 40 = f.unit % 256 ∧ bits t.boot.bootstat 39 32 = f.part % 256)
    ∧ ∀ k ks, r.retry = k :: ks → t.boot.start = some ⟨k, 1, r.tries + 1, ks, r.fails.drop 1⟩
        ∧ Shows t 0 k (r.tries + 1) 1

/-- R263, R341, R371, R373: what management writes. -/
def management : Prop :=
  ∀ s : State, s.boot.powered = true →
    (∀ k key, 1 ≤ k → k ≤ 255 → exec (.keySlotLoad k key) s
      = .next { s with boot := { s.boot with keys := fset s.boot.keys k key } })
    ∧ (∀ k, exec (.keySlotClear k) s
      = .next { s with boot := { s.boot with keys := fdel s.boot.keys k, flagged := fdel s.boot.flagged k } })
    ∧ (∀ k v, k < 4 → ∃ t, exec (.storeWrite (.config k v)) s = .next t ∧ t.boot.conf = s.boot.conf
      ∧ fget t.boot.store 0 k = v &&& (if k = 0 then 0x7F else if k = 1 then 0xFFFFFFFFFFFFFFFF
          else if k = 2 then 0x0000FFFFFFFFFFFF else 0xFFF))
    ∧ (∀ d k v, d < 8 → k < 512 → ∃ t, exec (.storeWrite (.repair d k v)) s = .next t ∧ t.boot.repair = s.boot.repair
      ∧ fget t.boot.repairStore 0 (d * 512 + k) = v &&& 0xFFFFFFFFFFFF8000)
    ∧ (exec (.unlockToken false) s = .next s ∧ exec (.unlockToken true) s
      = .next { s with boot := { s.boot with keys := [], flagged := [], testLocked := false } })
    ∧ (∀ k v b, k < 2 → k ≠ s.boot.bootSlot → exec (.flashSlotWrite k v b) s
      = .next { s with boot := { s.boot with flash := fset s.boot.flash k (v, b) } })
    ∧ ∀ v b, exec (.flashSlotWrite s.boot.bootSlot v b) s = .next s

end Sys2Proof.Claims

/-- R263, R292, R341 to R346, R367 to R373: repair, clocks, power, starts and what management writes.
Model's choices among these: log entries 7, 44, 45, 47, 48, 64, 65, 66, 67. -/
def Obligations.PowerAndStartEvents : Prop :=
  retirements ∧ twinsAndWindows ∧ clocks ∧ power ∧ startsBegin ∧ stagesRun ∧ startsFail ∧ management

/-! ## Debug (chapter 14) -/

namespace Sys2Proof.Claims

/-- The strand has stopped, or stops with this REASON at its next boundary (R351, R352). -/
def Stopping (t : State) (c : Sid) (reason : Nat) : Prop :=
  (t.strand c).stopped = true ∨ (t.strand c).debugReq = some reason

/-- R352, R354, R361: halts and resumptions of a core and of the cores of a launch; the end of a quiesced halt; replay: a
grant out of the logged order waits, and a run that leaves its log stops. -/
def stops : Prop :=
  ∀ s : State, hubReady s = true →
    (∀ l, ∃ t, exec (.debugHalt l) s = .next t ∧ (t.core l).dbgHalt = true
      ∧ ∀ c : Sid, c.core = l → (s.strand c).run ≠ .none → Stopping t c 0)
    ∧ (∀ l, s.eng.ops = [] → (∀ c, (s.strand c).written = []) → ∃ t, exec (.debugResume l) s = .next t ∧ (t.core l).dbgHalt = false ∧ t.mem = s.mem
      ∧ ∀ c : Sid, c.core = l → (t.strand c).stopped = false ∧ (t.strand c).arch = (s.strand c).arch)
    ∧ (∀ lid x, lid ≠ 0 → s.launch lid = some x →
      (∃ t, exec (.dbgstopStop lid) s = .next t ∧ t.dbg.stopLid = lid % 2 ^ 32
        ∧ ∀ c : Sid, c.core ∈ x.cores → (s.strand c).run ≠ .none → Stopping t c 0)
      ∧ (s.eng.ops = [] → (∀ c, (s.strand c).written = []) → ∃ t, exec (.dbgstopResume lid) s = .next t ∧ t.dbg.stopLid = lid % 2 ^ 32
        ∧ ∀ c : Sid, c.core ∈ x.cores → (t.strand c).stopped = false ∧ (t.strand c).arch = (s.strand c).arch))
    ∧ (∀ l at', (s.core l).quiesceSince = some at' → (s.core l).quiesce = true → (s.core l).qopen = false →
      coreJoined s l = false → at' + 1000000 ≤ s.time → (∀ p ∈ (s.core l).strands, p.2.run = .none ∨ p.2.stopped = true) →
      exec (.quiesceTimeout l) s = .next (s.setCore l { s.core l with qopen := true }))
    ∧ (∀ lid log, act s (.replay (some (lid, log))) = .next { s with dbg := { s.dbg with replay := some ⟨lid, log, s.time⟩ } })
    ∧ (∀ p x, s.dbg.replay = some p → s.launch p.lid = some x →
      ((p.log ≠ [] ∧ p.since + 10000000 ≤ s.time) ∨ strayEvent s p = true) → ∃ t, exec (.replayDivergence p.lid) s = .next t
      ∧ ∀ c : Sid, (s.strand c).run ≠ .none → (s.strand c).lid = p.lid → Stopping t c 4)
    ∧ ∀ p c ch rest, s.dbg.replay = some p → (s.strand c).lid = p.lid → (s.strand c).twin = none →
      (s.strand c).waiting = ch :: rest →
      (∀ r ∈ p.log, recordSource r = sourceCode (arbiterOf c.core ch.scope) → bits (r.getD 0 0) 49 35 ≠ c.core) →
      exec (.chunkGrant c) s = .next s

/-- R350, R354, R355, R358: records, watch reports, the state of a stopped strand, watchpoints. -/
def debugAccess : Prop :=
  ∀ s : State,
    (s.dbg.records = [] → exec .dbgrecRead s = .next { s with dbg := { s.dbg with lastRead := 0 } })
    ∧ (∀ r rest, s.dbg.records = r :: rest → ∃ t, exec .dbgrecRead s = .next t ∧ t.dbg.lastRead = r.getD s.dbg.recPos 0
      ∧ (s.dbg.recPos = 5 → t.dbg.records = rest ∧ t.dbg.recPos = 0)
      ∧ (s.dbg.recPos ≠ 5 → t.dbg.records = s.dbg.records ∧ t.dbg.recPos = s.dbg.recPos + 1))
    ∧ (exec .dbgstatRead s = .next { s with dbg := { s.dbg with
        lastRead := BitVec.ofNat 64 (min (2 ^ 32 - 1) s.dbg.rlost * 2 ^ 32 + s.dbg.records.length), rlost := 0 } })
    ∧ (∀ (c : Sid) (r : Report), (s.dbg.reports.find? fun r => r.core == c.core) = some r → bits r.ctl 25 24 = c.strand →
      (s.strand c).run ≠ .none → detOf s (s.strand c).lid = 0 →
      (bits r.ctl 27 26 = 0 → ∃ t, exec (.watchDelivery c) s = .next t ∧ t.dbg.reports = s.dbg.reports.erase r
        ∧ (t.strand c).pend = (s.strand c).pend ++ [⟨mkTrap 0x0C r.sub r.source, none⟩])
      ∧ (bits r.ctl 27 26 = 1 → ∃ t, exec (.watchDelivery c) s = .next t ∧ t.dbg.reports = s.dbg.reports.erase r
        ∧ Stopping t c 2))
    ∧ (∀ (c : Sid) (off : Nat) (v : Word), (s.strand c).stopped = true → off % 8 = 0 → off < 0x1000 →
      exec (.debugStateWrite c off v) s
        = .next (s.setStrand c { s.strand c with written := fset (s.strand c).written off v }))
    ∧ (∀ (l k : Nat) (st : Strand), hubReady s = true → (s.core l).strands = [(k, st)] → s.eng.ops = [] →
      ∀ off v, off % 8 = 0 → st.written = [(off, v)] → ∃ t, exec (.debugResume l) s = .next t
        ∧ (t.strand ⟨l, k⟩).stopped = false ∧ (t.strand ⟨l, k⟩).written = []
        ∧ (off = 0 → (t.strand ⟨l, k⟩).arch.pc = v &&& 0xFFFFFFFFFFFFFFFC)
        ∧ (off = 0x950 → (t.strand ⟨l, k⟩).arch.priv = v.getLsbD 0 ∧ (t.strand ⟨l, k⟩).arch.step = v.getLsbD 6)
        ∧ (off = 0x958 → (t.strand ⟨l, k⟩).chunkSeq = v.toNat)
        ∧ ∀ r : Reg, r ≠ 0 → (t.strand ⟨l, k⟩).arch.rg r = if off = 8 * r.toNat then v else st.arch.rg r)
    ∧ ∀ (l n : Nat) (v : Word), n < 4 →
      let w := fun (t : State) => fget (t.core l).watches Watch.reset n
      (v.getLsbD 31 = false → ∃ t, exec (.watchpointArm l n v) s = .next t ∧ (w t).base = (w s).base
        ∧ (w t).ctl = v &&& 0xFF0F00FF ∧ (w t).place = none ∧ (w t).pending = false)
      ∧ (v.getLsbD 31 = true → (s.core l).claim = none → ∃ t, exec (.watchpointArm l n v) s = .next t
        ∧ (w t).ctl = v &&& 0xFF0F00FF ∧ (w t).pending = true)
      ∧ ∀ lid off, v.getLsbD 31 = true → (s.core l).claim = some lid → bits v 19 16 ≤ 12 → bits v 27 26 ≠ 3 →
          (w s).base.toNat % 2 ^ bits v 19 16 = 0 → bits (w s).base 63 60 = 0 → placeOf (w s).base = .scratch off →
          ∃ t, exec (.watchpointArm l n v) s = .next t ∧ (w t).ctl = v &&& 0xFF0F00FF ∧ (w t).place = some (true, off)

/-- R350, R352, R359, R360, R363: tracing is armed and starts or stops with TIME; a dump writes its body, or stops at poison;
registers store their fields. -/
def traceAndDump : Prop :=
  (∀ (s : State) (v : Word), v.getLsbD 0 = true → (v.getLsbD 3 = true → s.dbg.trwait = []) →
    bits s.dbg.trstop 63 62 ≠ 1 → traceDue s.dbg.trstart s.time = false → traceDue s.dbg.trstop s.time = false →
    ∃ t, exec (.traceArm v) s = .next t ∧ t = { s with dbg := t.dbg } ∧ t.dbg.trctl = v &&& 0xFFFFFFFF0000000F
      ∧ t.dbg.trnext = 0 ∧ t.dbg.trlost = 0 ∧ t.dbg.traceOver = false
      ∧ (v.getLsbD 3 = false → (t.dbg.tracing = true ↔ bits s.dbg.trstart 63 62 = 1)))
  ∧ (∀ (s : State) (v : Word), v.getLsbD 0 = true → v.getLsbD 3 = false → bits s.dbg.trstart 63 62 = 1 →
    bits s.dbg.trstop 63 62 = 1 ∨ traceDue s.dbg.trstop s.time = true → s.dbg.trsize ≠ 0 →
    plainMemory s s.dbg.trbase.toNat 32 = true →
    ∃ t, exec (.traceArm v) s = .next t ∧ t.dbg.tracing = false ∧ t.dbg.traceOver = true ∧ t.dbg.trnext = 1)
  ∧ (∀ s : State, bitOf s.dbg.trctl 0 = true → bitOf s.dbg.trctl 3 = false → s.dbg.traceOver = false →
    (s.dbg.tracing = false → traceDue s.dbg.trstart s.time = true → traceDue s.dbg.trstop s.time = false →
      plainMemory s (s.dbg.trbase.toNat + s.dbg.trnext % s.dbg.trsize.toNat * 32) 32 = true →
      s.dbg.trnext < s.dbg.trsize.toNat → ∃ t, exec (.traceTrigger false) s = .next t ∧ t.dbg.tracing = true
        ∧ t.dbg.trnext = s.dbg.trnext + 1)
    ∧ (s.dbg.tracing = true → traceDue s.dbg.trstop s.time = true →
      ∃ t, exec (.traceTrigger true) s = .next t ∧ t.dbg.tracing = false ∧ t.dbg.traceOver = true ∧ t.mem = s.mem))
  ∧ (∀ (s : State) (v : Word), s.boot.powered = true →
    let s1 := { s with dbg := { s.dbg with dumpctl := v } }
    let a := s.dbg.dumpbuf.toNat
    let body := dumpBody s1
    (bits v 1 0 ≠ 3 → (plainMemory s a 256 = false ∨ ∃ k < 256, poisonedAt s (a + k) = true) →
      ∃ t, exec (.dumpRequest v) s = .next t ∧ t.dbg.dumpstat = 2 ∧ t.mem = s.mem)
    ∧ (Calm s → bits v 1 0 ≠ 3 → plainMemory s a (256 + body.length) = true → 256 + body.length ≤ s.dbg.dumplen.toNat →
      ∃ t, exec (.dumpRequest v) s = .next t ∧ Wrote s t a (dumpHeader s1 0 (256 + body.length) body.length ++ body)))
  ∧ ∀ (s : State) (v : Word), s.boot.powered = true →
    (∀ p ∈ [(DebugReg.trstart, { s.dbg with trstart := v }), (.trstop, { s.dbg with trstop := v }),
            (.trbase, { s.dbg with trbase := v }), (.trsize, { s.dbg with trsize := v }), (.dumpbuf, { s.dbg with dumpbuf := v }),
            (.dumplen, { s.dbg with dumplen := v }), (.dbgsel, { s.dbg with sel := v &&& 0x37FFF })],
      exec (.registerWrite p.1 v) s = .next { s with dbg := p.2 })
    ∧ (bits v 1 0 = 0 ∨ bits v 1 0 = 3 →
      exec (.registerWrite .dbgstop v) s = .next { s with dbg := { s.dbg with stopLid := bits v 63 32 } })
    ∧ (hubReady s = true →
      (bits v 1 0 = 1 → exec (.registerWrite .dbgstop v) s = exec (.dbgstopStop (bits v 63 32)) s)
      ∧ (bits v 1 0 = 2 → exec (.registerWrite .dbgstop v) s = exec (.dbgstopResume (bits v 63 32)) s))
    ∧ (∀ m < 128, ∃ t, exec (.registerWrite (.route m) v) s = .next t
      ∧ fget t.net.routes 0 m = bits v 15 0 ∧ t.mem = s.mem)
    ∧ (∀ n < 4, (selected s).core < 25600 → ∃ t, exec (.registerWrite (.wpbase n) v) s = .next t
      ∧ (fget (t.core (selected s).core).watches Watch.reset n).base = v)
    ∧ (∀ k < 8, (selected s).core < 25600 →
      ∃ t, exec (.registerWrite (.acct k) v) s = .next t ∧ t.mem = s.mem
        ∧ fget (t.core (selected s).core).acct 0 ((selected s).strand * 8 + k) = 0)
    ∧ (v.getLsbD 0 = false → ∃ t, exec (.registerWrite .trctl v) s = .next t ∧ t.dbg.tracing = false
      ∧ t.dbg.trctl = v &&& 0xFFFFFFFF0000000F)
    ∧ (v.getLsbD 1 = true → (selected s).core < 25600 → (s.core (selected s).core).dbgHalt = false →
      ∃ t, exec (.registerWrite .dbgcore v) s = .next t ∧ (t.core (selected s).core).dbgHalt = true
        ∧ (t.core (selected s).core).armBrk = v.getLsbD 0 ∧ (t.core (selected s).core).quiesce = v.getLsbD 2)

end Sys2Proof.Claims

/-- R350 to R363: what the debug unit does.
Model's choices among these: log entries 36, 60, 61, 62, 63, 110. -/
def Obligations.DebugEvents : Prop := stops ∧ debugAccess ∧ traceAndDump
end

