-- ==== Sys2Proof/Laws/Fields.lean ====
section
/-! SUPPORT. Fields of words that are put together from fields: taking a field of a concatenation, for any formats. -/

namespace Sys2Proof

/-- A field above the right part lies in the left part. -/
theorem field_left {n m : Nat} (x : BitVec n) (y : BitVec m) {s w : Nat} (h : m ≤ s) :
    (x ++ y).extractLsb' s w = x.extractLsb' (s - m) w := by
  ext i hi
  simp [BitVec.getLsbD_append, show ¬ s + i < m by omega, show s + i - m = s - m + i by omega]

/-- A field inside the right part. -/
theorem field_right {n m : Nat} (x : BitVec n) (y : BitVec m) {s w : Nat} (h : s + w ≤ m) :
    (x ++ y).extractLsb' s w = y.extractLsb' s w := by
  ext i hi
  simp [BitVec.getLsbD_append, show s + i < m by omega]

/-- The whole of a field. -/
theorem field_all {n : Nat} (x : BitVec n) : x.extractLsb' 0 n = x := by
  ext i hi
  simp

/-- A field that is just two parts. -/
theorem field_two {n m k : Nat} (x : BitVec n) (y : BitVec m) (z : BitVec k) :
    (x ++ y ++ z).extractLsb' 0 (m + k) = y ++ z := by
  ext i hi
  simp only [BitVec.getElem_extractLsb', BitVec.getLsbD_append, BitVec.getElem_append, Nat.zero_add]
  by_cases h : i < k
  · simp [h]
  · simp [h, show i - k < m by omega]

/-- A value split in two and put together again. -/
theorem split_join {n : Nat} (x : BitVec n) (k : Nat) {m : Nat} (h : m + k = n) :
    ((x.extractLsb' k m ++ x.extractLsb' 0 k).cast h) = x := by
  subst h
  ext i hi
  simp only [BitVec.getElem_cast, BitVec.getElem_append, BitVec.getElem_extractLsb']
  by_cases h : i < k
  · simp [h, BitVec.getLsbD_eq_getElem hi]
  · simp [h, show k + (i - k) = i by omega, BitVec.getLsbD_eq_getElem hi]

/-- A word with a field that is not zero is not zero. -/
theorem word_ne_zero {w : W32} {s n : Nat} (h : w.extractLsb' s n ≠ 0) : w ≠ 0 := by
  rintro rfl; exact h (by ext i hi; simp)

end Sys2Proof
end

