-- ==== Sys2Proof/Laws/Encoding.lean ====
section
/-! SUPPORT. The fields of a word of each format (Tables 2.2 to 2.11): what the decoder reads from what the encoder
wrote. -/

namespace Sys2Proof

/-! ## packR -/

section

variable (look : BitVec 4) (fn : BitVec 5) (b : BitVec 5) (a : BitVec 5) (d : BitVec 5) (mj : BitVec 6) (k : BitVec 2)

@[simp] theorem fld_kind_packR : fld_kind (packR look fn b a d mj k) = k :=
  (field_right _ _ (by decide)).trans ((field_all _))
@[simp] theorem fld_maj_packR : fld_maj (packR look fn b a d mj k) = mj :=
  (field_left _ _ (by decide)).trans ((field_right _ _ (by decide)).trans ((field_all _)))
@[simp] theorem fld_d_packR : fld_d (packR look fn b a d mj k) = d :=
  (field_left _ _ (by decide)).trans ((field_left _ _ (by decide)).trans ((field_right _ _ (by decide)).trans ((field_all _))))
@[simp] theorem fld_a_packR : fld_a (packR look fn b a d mj k) = a :=
  (field_left _ _ (by decide)).trans ((field_left _ _ (by decide)).trans ((field_left _ _ (by decide)).trans ((field_right _ _ (by decide)).trans ((field_all _)))))
@[simp] theorem fld_b_packR : fld_b (packR look fn b a d mj k) = b :=
  (field_left _ _ (by decide)).trans ((field_left _ _ (by decide)).trans ((field_left _ _ (by decide)).trans ((field_left _ _ (by decide)).trans ((field_right _ _ (by decide)).trans ((field_all _))))))
@[simp] theorem fld_fn_packR : fld_fn (packR look fn b a d mj k) = fn :=
  (field_left _ _ (by decide)).trans ((field_left _ _ (by decide)).trans ((field_left _ _ (by decide)).trans ((field_left _ _ (by decide)).trans ((field_left _ _ (by decide)).trans ((field_right _ _ (by decide)).trans ((field_all _)))))))
@[simp] theorem fld_look_packR : fld_look (packR look fn b a d mj k) = look :=
  (field_left _ _ (by decide)).trans ((field_left _ _ (by decide)).trans ((field_left _ _ (by decide)).trans ((field_left _ _ (by decide)).trans ((field_left _ _ (by decide)).trans ((field_left _ _ (by decide)).trans ((field_all _)))))))
@[simp] theorem fld_imm14_packR : fld_imm14 (packR look fn b a d mj k) = look ++ fn ++ b :=
  (field_left _ _ (by decide)).trans ((field_left _ _ (by decide)).trans ((field_left _ _ (by decide)).trans ((field_left _ _ (by decide)).trans ((field_all _)))))
@[simp] theorem fld_imm10_packR : fld_imm10 (packR look fn b a d mj k) = fn ++ b :=
  (field_left _ _ (by decide)).trans ((field_left _ _ (by decide)).trans ((field_left _ _ (by decide)).trans ((field_left _ _ (by decide)).trans ((field_two _ _ _)))))
@[simp] theorem fld_cond_packR : fld_cond (packR look fn b a d mj k) = b.extractLsb' 0 3 :=
  (field_left _ _ (by decide)).trans ((field_left _ _ (by decide)).trans ((field_left _ _ (by decide)).trans ((field_left _ _ (by decide)).trans ((field_right _ _ (by decide))))))
@[simp] theorem fld_vmask_packR : fld_vmask (packR look fn b a d mj k) = look.extractLsb' 1 3 :=
  (field_left _ _ (by decide)).trans ((field_left _ _ (by decide)).trans ((field_left _ _ (by decide)).trans ((field_left _ _ (by decide)).trans ((field_left _ _ (by decide)).trans ((field_left _ _ (by decide)))))))
@[simp] theorem fld_vmm_packR : fld_vmm (packR look fn b a d mj k) = look.extractLsb' 0 1 :=
  (field_left _ _ (by decide)).trans ((field_left _ _ (by decide)).trans ((field_left _ _ (by decide)).trans ((field_left _ _ (by decide)).trans ((field_left _ _ (by decide)).trans ((field_left _ _ (by decide)))))))
@[simp] theorem fld_vty_packR : fld_vty (packR look fn b a d mj k) = fn.extractLsb' 2 3 :=
  (field_left _ _ (by decide)).trans ((field_left _ _ (by decide)).trans ((field_left _ _ (by decide)).trans ((field_left _ _ (by decide)).trans ((field_left _ _ (by decide)).trans ((field_right _ _ (by decide)))))))
@[simp] theorem fld_vsub_packR : fld_vsub (packR look fn b a d mj k) = fn.extractLsb' 0 2 :=
  (field_left _ _ (by decide)).trans ((field_left _ _ (by decide)).trans ((field_left _ _ (by decide)).trans ((field_left _ _ (by decide)).trans ((field_left _ _ (by decide)).trans ((field_right _ _ (by decide)))))))
@[simp] theorem fld_mmask_packR : fld_mmask (packR look fn b a d mj k) = fn.extractLsb' 2 3 :=
  (field_left _ _ (by decide)).trans ((field_left _ _ (by decide)).trans ((field_left _ _ (by decide)).trans ((field_left _ _ (by decide)).trans ((field_left _ _ (by decide)).trans ((field_right _ _ (by decide)))))))
@[simp] theorem fld_mmm_packR : fld_mmm (packR look fn b a d mj k) = fn.extractLsb' 1 1 :=
  (field_left _ _ (by decide)).trans ((field_left _ _ (by decide)).trans ((field_left _ _ (by decide)).trans ((field_left _ _ (by decide)).trans ((field_left _ _ (by decide)).trans ((field_right _ _ (by decide)))))))
@[simp] theorem fld_num_packR : fld_num (packR look fn b a d mj k) = fn ++ b :=
  (field_left _ _ (by decide)).trans ((field_left _ _ (by decide)).trans ((field_left _ _ (by decide)).trans ((field_left _ _ (by decide)).trans ((field_two _ _ _)))))
@[simp] theorem fld_acc_packR : fld_acc (packR look fn b a d mj k) = fn.extractLsb' 1 4 :=
  (field_left _ _ (by decide)).trans ((field_left _ _ (by decide)).trans ((field_left _ _ (by decide)).trans ((field_left _ _ (by decide)).trans ((field_left _ _ (by decide)).trans ((field_right _ _ (by decide)))))))
@[simp] theorem fld_top2_packR : fld_top2 (packR look fn b a d mj k) = look.extractLsb' 2 2 :=
  (field_left _ _ (by decide)).trans ((field_left _ _ (by decide)).trans ((field_left _ _ (by decide)).trans ((field_left _ _ (by decide)).trans ((field_left _ _ (by decide)).trans ((field_left _ _ (by decide)))))))
@[simp] theorem fld_shop_packR : fld_shop (packR look fn b a d mj k) = fn.extractLsb' 1 2 :=
  (field_left _ _ (by decide)).trans ((field_left _ _ (by decide)).trans ((field_left _ _ (by decide)).trans ((field_left _ _ (by decide)).trans ((field_left _ _ (by decide)).trans ((field_right _ _ (by decide)))))))
@[simp] theorem fld_fsel_packR : fld_fsel (packR look fn b a d mj k) = look.extractLsb' 2 2 :=
  (field_left _ _ (by decide)).trans ((field_left _ _ (by decide)).trans ((field_left _ _ (by decide)).trans ((field_left _ _ (by decide)).trans ((field_left _ _ (by decide)).trans ((field_left _ _ (by decide)))))))
@[simp] theorem fld_b3_packR : fld_b3 (packR look fn b a d mj k) = b.extractLsb' 0 3 :=
  (field_left _ _ (by decide)).trans ((field_left _ _ (by decide)).trans ((field_left _ _ (by decide)).trans ((field_left _ _ (by decide)).trans ((field_right _ _ (by decide))))))
@[simp] theorem fld_bhi_packR : fld_bhi (packR look fn b a d mj k) = b.extractLsb' 3 2 :=
  (field_left _ _ (by decide)).trans ((field_left _ _ (by decide)).trans ((field_left _ _ (by decide)).trans ((field_left _ _ (by decide)).trans ((field_right _ _ (by decide))))))
@[simp] theorem fld_lsc_packR : fld_lsc (packR look fn b a d mj k) = fn.extractLsb' 0 3 :=
  (field_left _ _ (by decide)).trans ((field_left _ _ (by decide)).trans ((field_left _ _ (by decide)).trans ((field_left _ _ (by decide)).trans ((field_left _ _ (by decide)).trans ((field_right _ _ (by decide)))))))
@[simp] theorem fld_lhi_packR : fld_lhi (packR look fn b a d mj k) = fn.extractLsb' 3 2 :=
  (field_left _ _ (by decide)).trans ((field_left _ _ (by decide)).trans ((field_left _ _ (by decide)).trans ((field_left _ _ (by decide)).trans ((field_left _ _ (by decide)).trans ((field_right _ _ (by decide)))))))
@[simp] theorem fld_src4_packR : fld_src4 (packR look fn b a d mj k) = b.extractLsb' 0 4 :=
  (field_left _ _ (by decide)).trans ((field_left _ _ (by decide)).trans ((field_left _ _ (by decide)).trans ((field_left _ _ (by decide)).trans ((field_right _ _ (by decide))))))
@[simp] theorem fld_rop_packR : fld_rop (packR look fn b a d mj k) = fn.extractLsb' 0 3 :=
  (field_left _ _ (by decide)).trans ((field_left _ _ (by decide)).trans ((field_left _ _ (by decide)).trans ((field_left _ _ (by decide)).trans ((field_left _ _ (by decide)).trans ((field_right _ _ (by decide)))))))
@[simp] theorem fld_rw_packR : fld_rw (packR look fn b a d mj k) = fn.extractLsb' 3 2 :=
  (field_left _ _ (by decide)).trans ((field_left _ _ (by decide)).trans ((field_left _ _ (by decide)).trans ((field_left _ _ (by decide)).trans ((field_left _ _ (by decide)).trans ((field_right _ _ (by decide)))))))
@[simp] theorem fld_pop2_packR : fld_pop2 (packR look fn b a d mj k) = fn.extractLsb' 0 2 :=
  (field_left _ _ (by decide)).trans ((field_left _ _ (by decide)).trans ((field_left _ _ (by decide)).trans ((field_left _ _ (by decide)).trans ((field_left _ _ (by decide)).trans ((field_right _ _ (by decide)))))))
@[simp] theorem fld_pty_packR : fld_pty (packR look fn b a d mj k) = fn.extractLsb' 2 2 :=
  (field_left _ _ (by decide)).trans ((field_left _ _ (by decide)).trans ((field_left _ _ (by decide)).trans ((field_left _ _ (by decide)).trans ((field_left _ _ (by decide)).trans ((field_right _ _ (by decide)))))))
@[simp] theorem fld_ptop_packR : fld_ptop (packR look fn b a d mj k) = fn.extractLsb' 4 1 :=
  (field_left _ _ (by decide)).trans ((field_left _ _ (by decide)).trans ((field_left _ _ (by decide)).trans ((field_left _ _ (by decide)).trans ((field_left _ _ (by decide)).trans ((field_right _ _ (by decide)))))))
@[simp] theorem packR_eq_zero : packR look fn b a d mj k = 0#32 ↔ look = 0 ∧ fn = 0 ∧ b = 0 ∧ a = 0 ∧ d = 0 ∧ mj = 0 ∧ k = 0 := by
  constructor
  · intro h
    exact ⟨by simpa using congrArg fld_look h, by simpa using congrArg fld_fn h, by simpa using congrArg fld_b h, by simpa using congrArg fld_a h, by simpa using congrArg fld_d h, by simpa using congrArg fld_maj h, by simpa using congrArg fld_kind h⟩
  · rintro ⟨rfl, rfl, rfl, rfl, rfl, rfl, rfl⟩; decide

end

/-! ## packI -/

section

variable (imm : BitVec 14) (a : BitVec 5) (d : BitVec 5) (mj : BitVec 6) (k : BitVec 2)

@[simp] theorem fld_kind_packI : fld_kind (packI imm a d mj k) = k :=
  (field_right _ _ (by decide)).trans ((field_all _))
@[simp] theorem fld_maj_packI : fld_maj (packI imm a d mj k) = mj :=
  (field_left _ _ (by decide)).trans ((field_right _ _ (by decide)).trans ((field_all _)))
@[simp] theorem fld_d_packI : fld_d (packI imm a d mj k) = d :=
  (field_left _ _ (by decide)).trans ((field_left _ _ (by decide)).trans ((field_right _ _ (by decide)).trans ((field_all _))))
@[simp] theorem fld_a_packI : fld_a (packI imm a d mj k) = a :=
  (field_left _ _ (by decide)).trans ((field_left _ _ (by decide)).trans ((field_left _ _ (by decide)).trans ((field_right _ _ (by decide)).trans ((field_all _)))))
@[simp] theorem fld_b_packI : fld_b (packI imm a d mj k) = imm.extractLsb' 0 5 :=
  (field_left _ _ (by decide)).trans ((field_left _ _ (by decide)).trans ((field_left _ _ (by decide)).trans ((field_left _ _ (by decide)))))
@[simp] theorem fld_fn_packI : fld_fn (packI imm a d mj k) = imm.extractLsb' 5 5 :=
  (field_left _ _ (by decide)).trans ((field_left _ _ (by decide)).trans ((field_left _ _ (by decide)).trans ((field_left _ _ (by decide)))))
@[simp] theorem fld_look_packI : fld_look (packI imm a d mj k) = imm.extractLsb' 10 4 :=
  (field_left _ _ (by decide)).trans ((field_left _ _ (by decide)).trans ((field_left _ _ (by decide)).trans ((field_left _ _ (by decide)))))
@[simp] theorem fld_imm14_packI : fld_imm14 (packI imm a d mj k) = imm :=
  (field_left _ _ (by decide)).trans ((field_left _ _ (by decide)).trans ((field_left _ _ (by decide)).trans ((field_left _ _ (by decide)).trans ((field_all _)))))
@[simp] theorem fld_imm10_packI : fld_imm10 (packI imm a d mj k) = imm.extractLsb' 0 10 :=
  (field_left _ _ (by decide)).trans ((field_left _ _ (by decide)).trans ((field_left _ _ (by decide)).trans ((field_left _ _ (by decide)))))
@[simp] theorem fld_off11_packI : fld_off11 (packI imm a d mj k) = imm.extractLsb' 3 11 :=
  (field_left _ _ (by decide)).trans ((field_left _ _ (by decide)).trans ((field_left _ _ (by decide)).trans ((field_left _ _ (by decide)))))
@[simp] theorem fld_cond_packI : fld_cond (packI imm a d mj k) = imm.extractLsb' 0 3 :=
  (field_left _ _ (by decide)).trans ((field_left _ _ (by decide)).trans ((field_left _ _ (by decide)).trans ((field_left _ _ (by decide)))))
@[simp] theorem fld_vmask_packI : fld_vmask (packI imm a d mj k) = imm.extractLsb' 11 3 :=
  (field_left _ _ (by decide)).trans ((field_left _ _ (by decide)).trans ((field_left _ _ (by decide)).trans ((field_left _ _ (by decide)))))
@[simp] theorem fld_vmm_packI : fld_vmm (packI imm a d mj k) = imm.extractLsb' 10 1 :=
  (field_left _ _ (by decide)).trans ((field_left _ _ (by decide)).trans ((field_left _ _ (by decide)).trans ((field_left _ _ (by decide)))))
@[simp] theorem fld_vty_packI : fld_vty (packI imm a d mj k) = imm.extractLsb' 7 3 :=
  (field_left _ _ (by decide)).trans ((field_left _ _ (by decide)).trans ((field_left _ _ (by decide)).trans ((field_left _ _ (by decide)))))
@[simp] theorem fld_vsub_packI : fld_vsub (packI imm a d mj k) = imm.extractLsb' 5 2 :=
  (field_left _ _ (by decide)).trans ((field_left _ _ (by decide)).trans ((field_left _ _ (by decide)).trans ((field_left _ _ (by decide)))))
@[simp] theorem fld_mmask_packI : fld_mmask (packI imm a d mj k) = imm.extractLsb' 7 3 :=
  (field_left _ _ (by decide)).trans ((field_left _ _ (by decide)).trans ((field_left _ _ (by decide)).trans ((field_left _ _ (by decide)))))
@[simp] theorem fld_mmm_packI : fld_mmm (packI imm a d mj k) = imm.extractLsb' 6 1 :=
  (field_left _ _ (by decide)).trans ((field_left _ _ (by decide)).trans ((field_left _ _ (by decide)).trans ((field_left _ _ (by decide)))))
@[simp] theorem fld_imm6_packI : fld_imm6 (packI imm a d mj k) = imm.extractLsb' 0 6 :=
  (field_left _ _ (by decide)).trans ((field_left _ _ (by decide)).trans ((field_left _ _ (by decide)).trans ((field_left _ _ (by decide)))))
@[simp] theorem fld_num_packI : fld_num (packI imm a d mj k) = imm.extractLsb' 0 10 :=
  (field_left _ _ (by decide)).trans ((field_left _ _ (by decide)).trans ((field_left _ _ (by decide)).trans ((field_left _ _ (by decide)))))
@[simp] theorem fld_acc_packI : fld_acc (packI imm a d mj k) = imm.extractLsb' 6 4 :=
  (field_left _ _ (by decide)).trans ((field_left _ _ (by decide)).trans ((field_left _ _ (by decide)).trans ((field_left _ _ (by decide)))))
@[simp] theorem fld_fn6_packI : fld_fn6 (packI imm a d mj k) = imm.extractLsb' 0 6 :=
  (field_left _ _ (by decide)).trans ((field_left _ _ (by decide)).trans ((field_left _ _ (by decide)).trans ((field_left _ _ (by decide)))))
@[simp] theorem fld_ctl_packI : fld_ctl (packI imm a d mj k) = imm.extractLsb' 0 12 :=
  (field_left _ _ (by decide)).trans ((field_left _ _ (by decide)).trans ((field_left _ _ (by decide)).trans ((field_left _ _ (by decide)))))
@[simp] theorem fld_top2_packI : fld_top2 (packI imm a d mj k) = imm.extractLsb' 12 2 :=
  (field_left _ _ (by decide)).trans ((field_left _ _ (by decide)).trans ((field_left _ _ (by decide)).trans ((field_left _ _ (by decide)))))
@[simp] theorem fld_shn_packI : fld_shn (packI imm a d mj k) = imm.extractLsb' 0 6 :=
  (field_left _ _ (by decide)).trans ((field_left _ _ (by decide)).trans ((field_left _ _ (by decide)).trans ((field_left _ _ (by decide)))))
@[simp] theorem fld_shop_packI : fld_shop (packI imm a d mj k) = imm.extractLsb' 6 2 :=
  (field_left _ _ (by decide)).trans ((field_left _ _ (by decide)).trans ((field_left _ _ (by decide)).trans ((field_left _ _ (by decide)))))
@[simp] theorem fld_shtop_packI : fld_shtop (packI imm a d mj k) = imm.extractLsb' 8 6 :=
  (field_left _ _ (by decide)).trans ((field_left _ _ (by decide)).trans ((field_left _ _ (by decide)).trans ((field_left _ _ (by decide)))))
@[simp] theorem fld_fpos_packI : fld_fpos (packI imm a d mj k) = imm.extractLsb' 0 6 :=
  (field_left _ _ (by decide)).trans ((field_left _ _ (by decide)).trans ((field_left _ _ (by decide)).trans ((field_left _ _ (by decide)))))
@[simp] theorem fld_flen_packI : fld_flen (packI imm a d mj k) = imm.extractLsb' 6 6 :=
  (field_left _ _ (by decide)).trans ((field_left _ _ (by decide)).trans ((field_left _ _ (by decide)).trans ((field_left _ _ (by decide)))))
@[simp] theorem fld_fsel_packI : fld_fsel (packI imm a d mj k) = imm.extractLsb' 12 2 :=
  (field_left _ _ (by decide)).trans ((field_left _ _ (by decide)).trans ((field_left _ _ (by decide)).trans ((field_left _ _ (by decide)))))
@[simp] theorem fld_b3_packI : fld_b3 (packI imm a d mj k) = imm.extractLsb' 0 3 :=
  (field_left _ _ (by decide)).trans ((field_left _ _ (by decide)).trans ((field_left _ _ (by decide)).trans ((field_left _ _ (by decide)))))
@[simp] theorem fld_bhi_packI : fld_bhi (packI imm a d mj k) = imm.extractLsb' 3 2 :=
  (field_left _ _ (by decide)).trans ((field_left _ _ (by decide)).trans ((field_left _ _ (by decide)).trans ((field_left _ _ (by decide)))))
@[simp] theorem fld_lsc_packI : fld_lsc (packI imm a d mj k) = imm.extractLsb' 5 3 :=
  (field_left _ _ (by decide)).trans ((field_left _ _ (by decide)).trans ((field_left _ _ (by decide)).trans ((field_left _ _ (by decide)))))
@[simp] theorem fld_lhi_packI : fld_lhi (packI imm a d mj k) = imm.extractLsb' 8 2 :=
  (field_left _ _ (by decide)).trans ((field_left _ _ (by decide)).trans ((field_left _ _ (by decide)).trans ((field_left _ _ (by decide)))))
@[simp] theorem fld_src4_packI : fld_src4 (packI imm a d mj k) = imm.extractLsb' 0 4 :=
  (field_left _ _ (by decide)).trans ((field_left _ _ (by decide)).trans ((field_left _ _ (by decide)).trans ((field_left _ _ (by decide)))))
@[simp] theorem fld_fnlo_packI : fld_fnlo (packI imm a d mj k) = imm.extractLsb' 4 2 :=
  (field_left _ _ (by decide)).trans ((field_left _ _ (by decide)).trans ((field_left _ _ (by decide)).trans ((field_left _ _ (by decide)))))
@[simp] theorem fld_rop_packI : fld_rop (packI imm a d mj k) = imm.extractLsb' 5 3 :=
  (field_left _ _ (by decide)).trans ((field_left _ _ (by decide)).trans ((field_left _ _ (by decide)).trans ((field_left _ _ (by decide)))))
@[simp] theorem fld_rw_packI : fld_rw (packI imm a d mj k) = imm.extractLsb' 8 2 :=
  (field_left _ _ (by decide)).trans ((field_left _ _ (by decide)).trans ((field_left _ _ (by decide)).trans ((field_left _ _ (by decide)))))
@[simp] theorem fld_pop2_packI : fld_pop2 (packI imm a d mj k) = imm.extractLsb' 5 2 :=
  (field_left _ _ (by decide)).trans ((field_left _ _ (by decide)).trans ((field_left _ _ (by decide)).trans ((field_left _ _ (by decide)))))
@[simp] theorem fld_pty_packI : fld_pty (packI imm a d mj k) = imm.extractLsb' 7 2 :=
  (field_left _ _ (by decide)).trans ((field_left _ _ (by decide)).trans ((field_left _ _ (by decide)).trans ((field_left _ _ (by decide)))))
@[simp] theorem fld_ptop_packI : fld_ptop (packI imm a d mj k) = imm.extractLsb' 9 1 :=
  (field_left _ _ (by decide)).trans ((field_left _ _ (by decide)).trans ((field_left _ _ (by decide)).trans ((field_left _ _ (by decide)))))
@[simp] theorem fld_l11_packI : fld_l11 (packI imm a d mj k) = imm.extractLsb' 3 11 :=
  (field_left _ _ (by decide)).trans ((field_left _ _ (by decide)).trans ((field_left _ _ (by decide)).trans ((field_left _ _ (by decide)))))
@[simp] theorem fld_v7_packI : fld_v7 (packI imm a d mj k) = imm.extractLsb' 0 7 :=
  (field_left _ _ (by decide)).trans ((field_left _ _ (by decide)).trans ((field_left _ _ (by decide)).trans ((field_left _ _ (by decide)))))
@[simp] theorem packI_eq_zero : packI imm a d mj k = 0#32 ↔ imm = 0 ∧ a = 0 ∧ d = 0 ∧ mj = 0 ∧ k = 0 := by
  constructor
  · intro h
    exact ⟨by simpa using congrArg fld_imm14 h, by simpa using congrArg fld_a h, by simpa using congrArg fld_d h, by simpa using congrArg fld_maj h, by simpa using congrArg fld_kind h⟩
  · rintro ⟨rfl, rfl, rfl, rfl, rfl⟩; decide

end

/-! ## packIL -/

section

variable (look : BitVec 4) (imm : BitVec 10) (a : BitVec 5) (d : BitVec 5) (mj : BitVec 6) (k : BitVec 2)

@[simp] theorem fld_kind_packIL : fld_kind (packIL look imm a d mj k) = k :=
  (field_right _ _ (by decide)).trans ((field_all _))
@[simp] theorem fld_maj_packIL : fld_maj (packIL look imm a d mj k) = mj :=
  (field_left _ _ (by decide)).trans ((field_right _ _ (by decide)).trans ((field_all _)))
@[simp] theorem fld_d_packIL : fld_d (packIL look imm a d mj k) = d :=
  (field_left _ _ (by decide)).trans ((field_left _ _ (by decide)).trans ((field_right _ _ (by decide)).trans ((field_all _))))
@[simp] theorem fld_a_packIL : fld_a (packIL look imm a d mj k) = a :=
  (field_left _ _ (by decide)).trans ((field_left _ _ (by decide)).trans ((field_left _ _ (by decide)).trans ((field_right _ _ (by decide)).trans ((field_all _)))))
@[simp] theorem fld_b_packIL : fld_b (packIL look imm a d mj k) = imm.extractLsb' 0 5 :=
  (field_left _ _ (by decide)).trans ((field_left _ _ (by decide)).trans ((field_left _ _ (by decide)).trans ((field_left _ _ (by decide)).trans ((field_right _ _ (by decide))))))
@[simp] theorem fld_fn_packIL : fld_fn (packIL look imm a d mj k) = imm.extractLsb' 5 5 :=
  (field_left _ _ (by decide)).trans ((field_left _ _ (by decide)).trans ((field_left _ _ (by decide)).trans ((field_left _ _ (by decide)).trans ((field_right _ _ (by decide))))))
@[simp] theorem fld_look_packIL : fld_look (packIL look imm a d mj k) = look :=
  (field_left _ _ (by decide)).trans ((field_left _ _ (by decide)).trans ((field_left _ _ (by decide)).trans ((field_left _ _ (by decide)).trans ((field_left _ _ (by decide)).trans ((field_all _))))))
@[simp] theorem fld_imm14_packIL : fld_imm14 (packIL look imm a d mj k) = look ++ imm :=
  (field_left _ _ (by decide)).trans ((field_left _ _ (by decide)).trans ((field_left _ _ (by decide)).trans ((field_left _ _ (by decide)).trans ((field_all _)))))
@[simp] theorem fld_imm10_packIL : fld_imm10 (packIL look imm a d mj k) = imm :=
  (field_left _ _ (by decide)).trans ((field_left _ _ (by decide)).trans ((field_left _ _ (by decide)).trans ((field_left _ _ (by decide)).trans ((field_right _ _ (by decide)).trans ((field_all _))))))
@[simp] theorem fld_cond_packIL : fld_cond (packIL look imm a d mj k) = imm.extractLsb' 0 3 :=
  (field_left _ _ (by decide)).trans ((field_left _ _ (by decide)).trans ((field_left _ _ (by decide)).trans ((field_left _ _ (by decide)).trans ((field_right _ _ (by decide))))))
@[simp] theorem fld_vmask_packIL : fld_vmask (packIL look imm a d mj k) = look.extractLsb' 1 3 :=
  (field_left _ _ (by decide)).trans ((field_left _ _ (by decide)).trans ((field_left _ _ (by decide)).trans ((field_left _ _ (by decide)).trans ((field_left _ _ (by decide))))))
@[simp] theorem fld_vmm_packIL : fld_vmm (packIL look imm a d mj k) = look.extractLsb' 0 1 :=
  (field_left _ _ (by decide)).trans ((field_left _ _ (by decide)).trans ((field_left _ _ (by decide)).trans ((field_left _ _ (by decide)).trans ((field_left _ _ (by decide))))))
@[simp] theorem fld_vty_packIL : fld_vty (packIL look imm a d mj k) = imm.extractLsb' 7 3 :=
  (field_left _ _ (by decide)).trans ((field_left _ _ (by decide)).trans ((field_left _ _ (by decide)).trans ((field_left _ _ (by decide)).trans ((field_right _ _ (by decide))))))
@[simp] theorem fld_vsub_packIL : fld_vsub (packIL look imm a d mj k) = imm.extractLsb' 5 2 :=
  (field_left _ _ (by decide)).trans ((field_left _ _ (by decide)).trans ((field_left _ _ (by decide)).trans ((field_left _ _ (by decide)).trans ((field_right _ _ (by decide))))))
@[simp] theorem fld_mmask_packIL : fld_mmask (packIL look imm a d mj k) = imm.extractLsb' 7 3 :=
  (field_left _ _ (by decide)).trans ((field_left _ _ (by decide)).trans ((field_left _ _ (by decide)).trans ((field_left _ _ (by decide)).trans ((field_right _ _ (by decide))))))
@[simp] theorem fld_mmm_packIL : fld_mmm (packIL look imm a d mj k) = imm.extractLsb' 6 1 :=
  (field_left _ _ (by decide)).trans ((field_left _ _ (by decide)).trans ((field_left _ _ (by decide)).trans ((field_left _ _ (by decide)).trans ((field_right _ _ (by decide))))))
@[simp] theorem fld_imm6_packIL : fld_imm6 (packIL look imm a d mj k) = imm.extractLsb' 0 6 :=
  (field_left _ _ (by decide)).trans ((field_left _ _ (by decide)).trans ((field_left _ _ (by decide)).trans ((field_left _ _ (by decide)).trans ((field_right _ _ (by decide))))))
@[simp] theorem fld_num_packIL : fld_num (packIL look imm a d mj k) = imm :=
  (field_left _ _ (by decide)).trans ((field_left _ _ (by decide)).trans ((field_left _ _ (by decide)).trans ((field_left _ _ (by decide)).trans ((field_right _ _ (by decide)).trans ((field_all _))))))
@[simp] theorem fld_acc_packIL : fld_acc (packIL look imm a d mj k) = imm.extractLsb' 6 4 :=
  (field_left _ _ (by decide)).trans ((field_left _ _ (by decide)).trans ((field_left _ _ (by decide)).trans ((field_left _ _ (by decide)).trans ((field_right _ _ (by decide))))))
@[simp] theorem fld_fn6_packIL : fld_fn6 (packIL look imm a d mj k) = imm.extractLsb' 0 6 :=
  (field_left _ _ (by decide)).trans ((field_left _ _ (by decide)).trans ((field_left _ _ (by decide)).trans ((field_left _ _ (by decide)).trans ((field_right _ _ (by decide))))))
@[simp] theorem fld_top2_packIL : fld_top2 (packIL look imm a d mj k) = look.extractLsb' 2 2 :=
  (field_left _ _ (by decide)).trans ((field_left _ _ (by decide)).trans ((field_left _ _ (by decide)).trans ((field_left _ _ (by decide)).trans ((field_left _ _ (by decide))))))
@[simp] theorem fld_shn_packIL : fld_shn (packIL look imm a d mj k) = imm.extractLsb' 0 6 :=
  (field_left _ _ (by decide)).trans ((field_left _ _ (by decide)).trans ((field_left _ _ (by decide)).trans ((field_left _ _ (by decide)).trans ((field_right _ _ (by decide))))))
@[simp] theorem fld_shop_packIL : fld_shop (packIL look imm a d mj k) = imm.extractLsb' 6 2 :=
  (field_left _ _ (by decide)).trans ((field_left _ _ (by decide)).trans ((field_left _ _ (by decide)).trans ((field_left _ _ (by decide)).trans ((field_right _ _ (by decide))))))
@[simp] theorem fld_fpos_packIL : fld_fpos (packIL look imm a d mj k) = imm.extractLsb' 0 6 :=
  (field_left _ _ (by decide)).trans ((field_left _ _ (by decide)).trans ((field_left _ _ (by decide)).trans ((field_left _ _ (by decide)).trans ((field_right _ _ (by decide))))))
@[simp] theorem fld_fsel_packIL : fld_fsel (packIL look imm a d mj k) = look.extractLsb' 2 2 :=
  (field_left _ _ (by decide)).trans ((field_left _ _ (by decide)).trans ((field_left _ _ (by decide)).trans ((field_left _ _ (by decide)).trans ((field_left _ _ (by decide))))))
@[simp] theorem fld_b3_packIL : fld_b3 (packIL look imm a d mj k) = imm.extractLsb' 0 3 :=
  (field_left _ _ (by decide)).trans ((field_left _ _ (by decide)).trans ((field_left _ _ (by decide)).trans ((field_left _ _ (by decide)).trans ((field_right _ _ (by decide))))))
@[simp] theorem fld_bhi_packIL : fld_bhi (packIL look imm a d mj k) = imm.extractLsb' 3 2 :=
  (field_left _ _ (by decide)).trans ((field_left _ _ (by decide)).trans ((field_left _ _ (by decide)).trans ((field_left _ _ (by decide)).trans ((field_right _ _ (by decide))))))
@[simp] theorem fld_lsc_packIL : fld_lsc (packIL look imm a d mj k) = imm.extractLsb' 5 3 :=
  (field_left _ _ (by decide)).trans ((field_left _ _ (by decide)).trans ((field_left _ _ (by decide)).trans ((field_left _ _ (by decide)).trans ((field_right _ _ (by decide))))))
@[simp] theorem fld_lhi_packIL : fld_lhi (packIL look imm a d mj k) = imm.extractLsb' 8 2 :=
  (field_left _ _ (by decide)).trans ((field_left _ _ (by decide)).trans ((field_left _ _ (by decide)).trans ((field_left _ _ (by decide)).trans ((field_right _ _ (by decide))))))
@[simp] theorem fld_src4_packIL : fld_src4 (packIL look imm a d mj k) = imm.extractLsb' 0 4 :=
  (field_left _ _ (by decide)).trans ((field_left _ _ (by decide)).trans ((field_left _ _ (by decide)).trans ((field_left _ _ (by decide)).trans ((field_right _ _ (by decide))))))
@[simp] theorem fld_fnlo_packIL : fld_fnlo (packIL look imm a d mj k) = imm.extractLsb' 4 2 :=
  (field_left _ _ (by decide)).trans ((field_left _ _ (by decide)).trans ((field_left _ _ (by decide)).trans ((field_left _ _ (by decide)).trans ((field_right _ _ (by decide))))))
@[simp] theorem fld_rop_packIL : fld_rop (packIL look imm a d mj k) = imm.extractLsb' 5 3 :=
  (field_left _ _ (by decide)).trans ((field_left _ _ (by decide)).trans ((field_left _ _ (by decide)).trans ((field_left _ _ (by decide)).trans ((field_right _ _ (by decide))))))
@[simp] theorem fld_rw_packIL : fld_rw (packIL look imm a d mj k) = imm.extractLsb' 8 2 :=
  (field_left _ _ (by decide)).trans ((field_left _ _ (by decide)).trans ((field_left _ _ (by decide)).trans ((field_left _ _ (by decide)).trans ((field_right _ _ (by decide))))))
@[simp] theorem fld_pop2_packIL : fld_pop2 (packIL look imm a d mj k) = imm.extractLsb' 5 2 :=
  (field_left _ _ (by decide)).trans ((field_left _ _ (by decide)).trans ((field_left _ _ (by decide)).trans ((field_left _ _ (by decide)).trans ((field_right _ _ (by decide))))))
@[simp] theorem fld_pty_packIL : fld_pty (packIL look imm a d mj k) = imm.extractLsb' 7 2 :=
  (field_left _ _ (by decide)).trans ((field_left _ _ (by decide)).trans ((field_left _ _ (by decide)).trans ((field_left _ _ (by decide)).trans ((field_right _ _ (by decide))))))
@[simp] theorem fld_ptop_packIL : fld_ptop (packIL look imm a d mj k) = imm.extractLsb' 9 1 :=
  (field_left _ _ (by decide)).trans ((field_left _ _ (by decide)).trans ((field_left _ _ (by decide)).trans ((field_left _ _ (by decide)).trans ((field_right _ _ (by decide))))))
@[simp] theorem fld_v7_packIL : fld_v7 (packIL look imm a d mj k) = imm.extractLsb' 0 7 :=
  (field_left _ _ (by decide)).trans ((field_left _ _ (by decide)).trans ((field_left _ _ (by decide)).trans ((field_left _ _ (by decide)).trans ((field_right _ _ (by decide))))))
@[simp] theorem packIL_eq_zero : packIL look imm a d mj k = 0#32 ↔ look = 0 ∧ imm = 0 ∧ a = 0 ∧ d = 0 ∧ mj = 0 ∧ k = 0 := by
  constructor
  · intro h
    exact ⟨by simpa using congrArg fld_look h, by simpa using congrArg fld_imm10 h, by simpa using congrArg fld_a h, by simpa using congrArg fld_d h, by simpa using congrArg fld_maj h, by simpa using congrArg fld_kind h⟩
  · rintro ⟨rfl, rfl, rfl, rfl, rfl, rfl⟩; decide

end

/-! ## packB -/

section

variable (off : BitVec 11) (cond : BitVec 3) (a : BitVec 5) (b : BitVec 5) (mj : BitVec 6) (k : BitVec 2)

@[simp] theorem fld_kind_packB : fld_kind (packB off cond a b mj k) = k :=
  (field_right _ _ (by decide)).trans ((field_all _))
@[simp] theorem fld_maj_packB : fld_maj (packB off cond a b mj k) = mj :=
  (field_left _ _ (by decide)).trans ((field_right _ _ (by decide)).trans ((field_all _)))
@[simp] theorem fld_d_packB : fld_d (packB off cond a b mj k) = b :=
  (field_left _ _ (by decide)).trans ((field_left _ _ (by decide)).trans ((field_right _ _ (by decide)).trans ((field_all _))))
@[simp] theorem fld_a_packB : fld_a (packB off cond a b mj k) = a :=
  (field_left _ _ (by decide)).trans ((field_left _ _ (by decide)).trans ((field_left _ _ (by decide)).trans ((field_right _ _ (by decide)).trans ((field_all _)))))
@[simp] theorem fld_fn_packB : fld_fn (packB off cond a b mj k) = off.extractLsb' 2 5 :=
  (field_left _ _ (by decide)).trans ((field_left _ _ (by decide)).trans ((field_left _ _ (by decide)).trans ((field_left _ _ (by decide)).trans ((field_left _ _ (by decide))))))
@[simp] theorem fld_look_packB : fld_look (packB off cond a b mj k) = off.extractLsb' 7 4 :=
  (field_left _ _ (by decide)).trans ((field_left _ _ (by decide)).trans ((field_left _ _ (by decide)).trans ((field_left _ _ (by decide)).trans ((field_left _ _ (by decide))))))
@[simp] theorem fld_imm14_packB : fld_imm14 (packB off cond a b mj k) = off ++ cond :=
  (field_left _ _ (by decide)).trans ((field_left _ _ (by decide)).trans ((field_left _ _ (by decide)).trans ((field_left _ _ (by decide)).trans ((field_all _)))))
@[simp] theorem fld_off11_packB : fld_off11 (packB off cond a b mj k) = off :=
  (field_left _ _ (by decide)).trans ((field_left _ _ (by decide)).trans ((field_left _ _ (by decide)).trans ((field_left _ _ (by decide)).trans ((field_left _ _ (by decide)).trans ((field_all _))))))
@[simp] theorem fld_cond_packB : fld_cond (packB off cond a b mj k) = cond :=
  (field_left _ _ (by decide)).trans ((field_left _ _ (by decide)).trans ((field_left _ _ (by decide)).trans ((field_left _ _ (by decide)).trans ((field_right _ _ (by decide)).trans ((field_all _))))))
@[simp] theorem fld_vmask_packB : fld_vmask (packB off cond a b mj k) = off.extractLsb' 8 3 :=
  (field_left _ _ (by decide)).trans ((field_left _ _ (by decide)).trans ((field_left _ _ (by decide)).trans ((field_left _ _ (by decide)).trans ((field_left _ _ (by decide))))))
@[simp] theorem fld_vmm_packB : fld_vmm (packB off cond a b mj k) = off.extractLsb' 7 1 :=
  (field_left _ _ (by decide)).trans ((field_left _ _ (by decide)).trans ((field_left _ _ (by decide)).trans ((field_left _ _ (by decide)).trans ((field_left _ _ (by decide))))))
@[simp] theorem fld_vty_packB : fld_vty (packB off cond a b mj k) = off.extractLsb' 4 3 :=
  (field_left _ _ (by decide)).trans ((field_left _ _ (by decide)).trans ((field_left _ _ (by decide)).trans ((field_left _ _ (by decide)).trans ((field_left _ _ (by decide))))))
@[simp] theorem fld_vsub_packB : fld_vsub (packB off cond a b mj k) = off.extractLsb' 2 2 :=
  (field_left _ _ (by decide)).trans ((field_left _ _ (by decide)).trans ((field_left _ _ (by decide)).trans ((field_left _ _ (by decide)).trans ((field_left _ _ (by decide))))))
@[simp] theorem fld_mmask_packB : fld_mmask (packB off cond a b mj k) = off.extractLsb' 4 3 :=
  (field_left _ _ (by decide)).trans ((field_left _ _ (by decide)).trans ((field_left _ _ (by decide)).trans ((field_left _ _ (by decide)).trans ((field_left _ _ (by decide))))))
@[simp] theorem fld_mmm_packB : fld_mmm (packB off cond a b mj k) = off.extractLsb' 3 1 :=
  (field_left _ _ (by decide)).trans ((field_left _ _ (by decide)).trans ((field_left _ _ (by decide)).trans ((field_left _ _ (by decide)).trans ((field_left _ _ (by decide))))))
@[simp] theorem fld_acc_packB : fld_acc (packB off cond a b mj k) = off.extractLsb' 3 4 :=
  (field_left _ _ (by decide)).trans ((field_left _ _ (by decide)).trans ((field_left _ _ (by decide)).trans ((field_left _ _ (by decide)).trans ((field_left _ _ (by decide))))))
@[simp] theorem fld_top2_packB : fld_top2 (packB off cond a b mj k) = off.extractLsb' 9 2 :=
  (field_left _ _ (by decide)).trans ((field_left _ _ (by decide)).trans ((field_left _ _ (by decide)).trans ((field_left _ _ (by decide)).trans ((field_left _ _ (by decide))))))
@[simp] theorem fld_shop_packB : fld_shop (packB off cond a b mj k) = off.extractLsb' 3 2 :=
  (field_left _ _ (by decide)).trans ((field_left _ _ (by decide)).trans ((field_left _ _ (by decide)).trans ((field_left _ _ (by decide)).trans ((field_left _ _ (by decide))))))
@[simp] theorem fld_shtop_packB : fld_shtop (packB off cond a b mj k) = off.extractLsb' 5 6 :=
  (field_left _ _ (by decide)).trans ((field_left _ _ (by decide)).trans ((field_left _ _ (by decide)).trans ((field_left _ _ (by decide)).trans ((field_left _ _ (by decide))))))
@[simp] theorem fld_flen_packB : fld_flen (packB off cond a b mj k) = off.extractLsb' 3 6 :=
  (field_left _ _ (by decide)).trans ((field_left _ _ (by decide)).trans ((field_left _ _ (by decide)).trans ((field_left _ _ (by decide)).trans ((field_left _ _ (by decide))))))
@[simp] theorem fld_fsel_packB : fld_fsel (packB off cond a b mj k) = off.extractLsb' 9 2 :=
  (field_left _ _ (by decide)).trans ((field_left _ _ (by decide)).trans ((field_left _ _ (by decide)).trans ((field_left _ _ (by decide)).trans ((field_left _ _ (by decide))))))
@[simp] theorem fld_b3_packB : fld_b3 (packB off cond a b mj k) = cond :=
  (field_left _ _ (by decide)).trans ((field_left _ _ (by decide)).trans ((field_left _ _ (by decide)).trans ((field_left _ _ (by decide)).trans ((field_right _ _ (by decide)).trans ((field_all _))))))
@[simp] theorem fld_bhi_packB : fld_bhi (packB off cond a b mj k) = off.extractLsb' 0 2 :=
  (field_left _ _ (by decide)).trans ((field_left _ _ (by decide)).trans ((field_left _ _ (by decide)).trans ((field_left _ _ (by decide)).trans ((field_left _ _ (by decide))))))
@[simp] theorem fld_lsc_packB : fld_lsc (packB off cond a b mj k) = off.extractLsb' 2 3 :=
  (field_left _ _ (by decide)).trans ((field_left _ _ (by decide)).trans ((field_left _ _ (by decide)).trans ((field_left _ _ (by decide)).trans ((field_left _ _ (by decide))))))
@[simp] theorem fld_lhi_packB : fld_lhi (packB off cond a b mj k) = off.extractLsb' 5 2 :=
  (field_left _ _ (by decide)).trans ((field_left _ _ (by decide)).trans ((field_left _ _ (by decide)).trans ((field_left _ _ (by decide)).trans ((field_left _ _ (by decide))))))
@[simp] theorem fld_fnlo_packB : fld_fnlo (packB off cond a b mj k) = off.extractLsb' 1 2 :=
  (field_left _ _ (by decide)).trans ((field_left _ _ (by decide)).trans ((field_left _ _ (by decide)).trans ((field_left _ _ (by decide)).trans ((field_left _ _ (by decide))))))
@[simp] theorem fld_rop_packB : fld_rop (packB off cond a b mj k) = off.extractLsb' 2 3 :=
  (field_left _ _ (by decide)).trans ((field_left _ _ (by decide)).trans ((field_left _ _ (by decide)).trans ((field_left _ _ (by decide)).trans ((field_left _ _ (by decide))))))
@[simp] theorem fld_rw_packB : fld_rw (packB off cond a b mj k) = off.extractLsb' 5 2 :=
  (field_left _ _ (by decide)).trans ((field_left _ _ (by decide)).trans ((field_left _ _ (by decide)).trans ((field_left _ _ (by decide)).trans ((field_left _ _ (by decide))))))
@[simp] theorem fld_pop2_packB : fld_pop2 (packB off cond a b mj k) = off.extractLsb' 2 2 :=
  (field_left _ _ (by decide)).trans ((field_left _ _ (by decide)).trans ((field_left _ _ (by decide)).trans ((field_left _ _ (by decide)).trans ((field_left _ _ (by decide))))))
@[simp] theorem fld_pty_packB : fld_pty (packB off cond a b mj k) = off.extractLsb' 4 2 :=
  (field_left _ _ (by decide)).trans ((field_left _ _ (by decide)).trans ((field_left _ _ (by decide)).trans ((field_left _ _ (by decide)).trans ((field_left _ _ (by decide))))))
@[simp] theorem fld_ptop_packB : fld_ptop (packB off cond a b mj k) = off.extractLsb' 6 1 :=
  (field_left _ _ (by decide)).trans ((field_left _ _ (by decide)).trans ((field_left _ _ (by decide)).trans ((field_left _ _ (by decide)).trans ((field_left _ _ (by decide))))))
@[simp] theorem fld_l11_packB : fld_l11 (packB off cond a b mj k) = off :=
  (field_left _ _ (by decide)).trans ((field_left _ _ (by decide)).trans ((field_left _ _ (by decide)).trans ((field_left _ _ (by decide)).trans ((field_left _ _ (by decide)).trans ((field_all _))))))
@[simp] theorem packB_eq_zero : packB off cond a b mj k = 0#32 ↔ off = 0 ∧ cond = 0 ∧ a = 0 ∧ b = 0 ∧ mj = 0 ∧ k = 0 := by
  constructor
  · intro h
    exact ⟨by simpa using congrArg fld_off11 h, by simpa using congrArg fld_cond h, by simpa using congrArg fld_a h, by simpa using congrArg fld_d h, by simpa using congrArg fld_maj h, by simpa using congrArg fld_kind h⟩
  · rintro ⟨rfl, rfl, rfl, rfl, rfl, rfl⟩; decide

end

/-! ## packJ -/

section

variable (off : BitVec 24) (mj : BitVec 6) (k : BitVec 2)

@[simp] theorem fld_kind_packJ : fld_kind (packJ off mj k) = k :=
  (field_right _ _ (by decide)).trans ((field_all _))
@[simp] theorem fld_maj_packJ : fld_maj (packJ off mj k) = mj :=
  (field_left _ _ (by decide)).trans ((field_right _ _ (by decide)).trans ((field_all _)))
@[simp] theorem fld_d_packJ : fld_d (packJ off mj k) = off.extractLsb' 0 5 :=
  (field_left _ _ (by decide)).trans ((field_left _ _ (by decide)))
@[simp] theorem fld_a_packJ : fld_a (packJ off mj k) = off.extractLsb' 5 5 :=
  (field_left _ _ (by decide)).trans ((field_left _ _ (by decide)))
@[simp] theorem fld_b_packJ : fld_b (packJ off mj k) = off.extractLsb' 10 5 :=
  (field_left _ _ (by decide)).trans ((field_left _ _ (by decide)))
@[simp] theorem fld_fn_packJ : fld_fn (packJ off mj k) = off.extractLsb' 15 5 :=
  (field_left _ _ (by decide)).trans ((field_left _ _ (by decide)))
@[simp] theorem fld_look_packJ : fld_look (packJ off mj k) = off.extractLsb' 20 4 :=
  (field_left _ _ (by decide)).trans ((field_left _ _ (by decide)))
@[simp] theorem fld_imm14_packJ : fld_imm14 (packJ off mj k) = off.extractLsb' 10 14 :=
  (field_left _ _ (by decide)).trans ((field_left _ _ (by decide)))
@[simp] theorem fld_imm10_packJ : fld_imm10 (packJ off mj k) = off.extractLsb' 10 10 :=
  (field_left _ _ (by decide)).trans ((field_left _ _ (by decide)))
@[simp] theorem fld_off11_packJ : fld_off11 (packJ off mj k) = off.extractLsb' 13 11 :=
  (field_left _ _ (by decide)).trans ((field_left _ _ (by decide)))
@[simp] theorem fld_cond_packJ : fld_cond (packJ off mj k) = off.extractLsb' 10 3 :=
  (field_left _ _ (by decide)).trans ((field_left _ _ (by decide)))
@[simp] theorem fld_off24_packJ : fld_off24 (packJ off mj k) = off :=
  (field_left _ _ (by decide)).trans ((field_left _ _ (by decide)).trans ((field_all _)))
@[simp] theorem fld_off19_packJ : fld_off19 (packJ off mj k) = off.extractLsb' 5 19 :=
  (field_left _ _ (by decide)).trans ((field_left _ _ (by decide)))
@[simp] theorem fld_vmask_packJ : fld_vmask (packJ off mj k) = off.extractLsb' 21 3 :=
  (field_left _ _ (by decide)).trans ((field_left _ _ (by decide)))
@[simp] theorem fld_vmm_packJ : fld_vmm (packJ off mj k) = off.extractLsb' 20 1 :=
  (field_left _ _ (by decide)).trans ((field_left _ _ (by decide)))
@[simp] theorem fld_vty_packJ : fld_vty (packJ off mj k) = off.extractLsb' 17 3 :=
  (field_left _ _ (by decide)).trans ((field_left _ _ (by decide)))
@[simp] theorem fld_vsub_packJ : fld_vsub (packJ off mj k) = off.extractLsb' 15 2 :=
  (field_left _ _ (by decide)).trans ((field_left _ _ (by decide)))
@[simp] theorem fld_mmask_packJ : fld_mmask (packJ off mj k) = off.extractLsb' 17 3 :=
  (field_left _ _ (by decide)).trans ((field_left _ _ (by decide)))
@[simp] theorem fld_mmm_packJ : fld_mmm (packJ off mj k) = off.extractLsb' 16 1 :=
  (field_left _ _ (by decide)).trans ((field_left _ _ (by decide)))
@[simp] theorem fld_imm6_packJ : fld_imm6 (packJ off mj k) = off.extractLsb' 10 6 :=
  (field_left _ _ (by decide)).trans ((field_left _ _ (by decide)))
@[simp] theorem fld_num_packJ : fld_num (packJ off mj k) = off.extractLsb' 10 10 :=
  (field_left _ _ (by decide)).trans ((field_left _ _ (by decide)))
@[simp] theorem fld_acc_packJ : fld_acc (packJ off mj k) = off.extractLsb' 16 4 :=
  (field_left _ _ (by decide)).trans ((field_left _ _ (by decide)))
@[simp] theorem fld_fn6_packJ : fld_fn6 (packJ off mj k) = off.extractLsb' 10 6 :=
  (field_left _ _ (by decide)).trans ((field_left _ _ (by decide)))
@[simp] theorem fld_ctl_packJ : fld_ctl (packJ off mj k) = off.extractLsb' 10 12 :=
  (field_left _ _ (by decide)).trans ((field_left _ _ (by decide)))
@[simp] theorem fld_top2_packJ : fld_top2 (packJ off mj k) = off.extractLsb' 22 2 :=
  (field_left _ _ (by decide)).trans ((field_left _ _ (by decide)))
@[simp] theorem fld_shn_packJ : fld_shn (packJ off mj k) = off.extractLsb' 10 6 :=
  (field_left _ _ (by decide)).trans ((field_left _ _ (by decide)))
@[simp] theorem fld_shop_packJ : fld_shop (packJ off mj k) = off.extractLsb' 16 2 :=
  (field_left _ _ (by decide)).trans ((field_left _ _ (by decide)))
@[simp] theorem fld_shtop_packJ : fld_shtop (packJ off mj k) = off.extractLsb' 18 6 :=
  (field_left _ _ (by decide)).trans ((field_left _ _ (by decide)))
@[simp] theorem fld_fpos_packJ : fld_fpos (packJ off mj k) = off.extractLsb' 10 6 :=
  (field_left _ _ (by decide)).trans ((field_left _ _ (by decide)))
@[simp] theorem fld_flen_packJ : fld_flen (packJ off mj k) = off.extractLsb' 16 6 :=
  (field_left _ _ (by decide)).trans ((field_left _ _ (by decide)))
@[simp] theorem fld_fsel_packJ : fld_fsel (packJ off mj k) = off.extractLsb' 22 2 :=
  (field_left _ _ (by decide)).trans ((field_left _ _ (by decide)))
@[simp] theorem fld_b3_packJ : fld_b3 (packJ off mj k) = off.extractLsb' 10 3 :=
  (field_left _ _ (by decide)).trans ((field_left _ _ (by decide)))
@[simp] theorem fld_bhi_packJ : fld_bhi (packJ off mj k) = off.extractLsb' 13 2 :=
  (field_left _ _ (by decide)).trans ((field_left _ _ (by decide)))
@[simp] theorem fld_lsc_packJ : fld_lsc (packJ off mj k) = off.extractLsb' 15 3 :=
  (field_left _ _ (by decide)).trans ((field_left _ _ (by decide)))
@[simp] theorem fld_lhi_packJ : fld_lhi (packJ off mj k) = off.extractLsb' 18 2 :=
  (field_left _ _ (by decide)).trans ((field_left _ _ (by decide)))
@[simp] theorem fld_src4_packJ : fld_src4 (packJ off mj k) = off.extractLsb' 10 4 :=
  (field_left _ _ (by decide)).trans ((field_left _ _ (by decide)))
@[simp] theorem fld_fnlo_packJ : fld_fnlo (packJ off mj k) = off.extractLsb' 14 2 :=
  (field_left _ _ (by decide)).trans ((field_left _ _ (by decide)))
@[simp] theorem fld_rop_packJ : fld_rop (packJ off mj k) = off.extractLsb' 15 3 :=
  (field_left _ _ (by decide)).trans ((field_left _ _ (by decide)))
@[simp] theorem fld_rw_packJ : fld_rw (packJ off mj k) = off.extractLsb' 18 2 :=
  (field_left _ _ (by decide)).trans ((field_left _ _ (by decide)))
@[simp] theorem fld_pop2_packJ : fld_pop2 (packJ off mj k) = off.extractLsb' 15 2 :=
  (field_left _ _ (by decide)).trans ((field_left _ _ (by decide)))
@[simp] theorem fld_pty_packJ : fld_pty (packJ off mj k) = off.extractLsb' 17 2 :=
  (field_left _ _ (by decide)).trans ((field_left _ _ (by decide)))
@[simp] theorem fld_ptop_packJ : fld_ptop (packJ off mj k) = off.extractLsb' 19 1 :=
  (field_left _ _ (by decide)).trans ((field_left _ _ (by decide)))
@[simp] theorem fld_l11_packJ : fld_l11 (packJ off mj k) = off.extractLsb' 13 11 :=
  (field_left _ _ (by decide)).trans ((field_left _ _ (by decide)))
@[simp] theorem fld_l24_packJ : fld_l24 (packJ off mj k) = off :=
  (field_left _ _ (by decide)).trans ((field_left _ _ (by decide)).trans ((field_all _)))
@[simp] theorem fld_v7_packJ : fld_v7 (packJ off mj k) = off.extractLsb' 10 7 :=
  (field_left _ _ (by decide)).trans ((field_left _ _ (by decide)))
@[simp] theorem packJ_eq_zero : packJ off mj k = 0#32 ↔ off = 0 ∧ mj = 0 ∧ k = 0 := by
  constructor
  · intro h
    exact ⟨by simpa using congrArg fld_off24 h, by simpa using congrArg fld_maj h, by simpa using congrArg fld_kind h⟩
  · rintro ⟨rfl, rfl, rfl⟩; decide

end

/-! ## packL -/

section

variable (off : BitVec 19) (d : BitVec 5) (mj : BitVec 6) (k : BitVec 2)

@[simp] theorem fld_kind_packL : fld_kind (packL off d mj k) = k :=
  (field_right _ _ (by decide)).trans ((field_all _))
@[simp] theorem fld_maj_packL : fld_maj (packL off d mj k) = mj :=
  (field_left _ _ (by decide)).trans ((field_right _ _ (by decide)).trans ((field_all _)))
@[simp] theorem fld_d_packL : fld_d (packL off d mj k) = d :=
  (field_left _ _ (by decide)).trans ((field_left _ _ (by decide)).trans ((field_right _ _ (by decide)).trans ((field_all _))))
@[simp] theorem fld_a_packL : fld_a (packL off d mj k) = off.extractLsb' 0 5 :=
  (field_left _ _ (by decide)).trans ((field_left _ _ (by decide)).trans ((field_left _ _ (by decide))))
@[simp] theorem fld_b_packL : fld_b (packL off d mj k) = off.extractLsb' 5 5 :=
  (field_left _ _ (by decide)).trans ((field_left _ _ (by decide)).trans ((field_left _ _ (by decide))))
@[simp] theorem fld_fn_packL : fld_fn (packL off d mj k) = off.extractLsb' 10 5 :=
  (field_left _ _ (by decide)).trans ((field_left _ _ (by decide)).trans ((field_left _ _ (by decide))))
@[simp] theorem fld_look_packL : fld_look (packL off d mj k) = off.extractLsb' 15 4 :=
  (field_left _ _ (by decide)).trans ((field_left _ _ (by decide)).trans ((field_left _ _ (by decide))))
@[simp] theorem fld_imm14_packL : fld_imm14 (packL off d mj k) = off.extractLsb' 5 14 :=
  (field_left _ _ (by decide)).trans ((field_left _ _ (by decide)).trans ((field_left _ _ (by decide))))
@[simp] theorem fld_imm10_packL : fld_imm10 (packL off d mj k) = off.extractLsb' 5 10 :=
  (field_left _ _ (by decide)).trans ((field_left _ _ (by decide)).trans ((field_left _ _ (by decide))))
@[simp] theorem fld_off11_packL : fld_off11 (packL off d mj k) = off.extractLsb' 8 11 :=
  (field_left _ _ (by decide)).trans ((field_left _ _ (by decide)).trans ((field_left _ _ (by decide))))
@[simp] theorem fld_cond_packL : fld_cond (packL off d mj k) = off.extractLsb' 5 3 :=
  (field_left _ _ (by decide)).trans ((field_left _ _ (by decide)).trans ((field_left _ _ (by decide))))
@[simp] theorem fld_off19_packL : fld_off19 (packL off d mj k) = off :=
  (field_left _ _ (by decide)).trans ((field_left _ _ (by decide)).trans ((field_left _ _ (by decide)).trans ((field_all _))))
@[simp] theorem fld_vmask_packL : fld_vmask (packL off d mj k) = off.extractLsb' 16 3 :=
  (field_left _ _ (by decide)).trans ((field_left _ _ (by decide)).trans ((field_left _ _ (by decide))))
@[simp] theorem fld_vmm_packL : fld_vmm (packL off d mj k) = off.extractLsb' 15 1 :=
  (field_left _ _ (by decide)).trans ((field_left _ _ (by decide)).trans ((field_left _ _ (by decide))))
@[simp] theorem fld_vty_packL : fld_vty (packL off d mj k) = off.extractLsb' 12 3 :=
  (field_left _ _ (by decide)).trans ((field_left _ _ (by decide)).trans ((field_left _ _ (by decide))))
@[simp] theorem fld_vsub_packL : fld_vsub (packL off d mj k) = off.extractLsb' 10 2 :=
  (field_left _ _ (by decide)).trans ((field_left _ _ (by decide)).trans ((field_left _ _ (by decide))))
@[simp] theorem fld_mmask_packL : fld_mmask (packL off d mj k) = off.extractLsb' 12 3 :=
  (field_left _ _ (by decide)).trans ((field_left _ _ (by decide)).trans ((field_left _ _ (by decide))))
@[simp] theorem fld_mmm_packL : fld_mmm (packL off d mj k) = off.extractLsb' 11 1 :=
  (field_left _ _ (by decide)).trans ((field_left _ _ (by decide)).trans ((field_left _ _ (by decide))))
@[simp] theorem fld_imm6_packL : fld_imm6 (packL off d mj k) = off.extractLsb' 5 6 :=
  (field_left _ _ (by decide)).trans ((field_left _ _ (by decide)).trans ((field_left _ _ (by decide))))
@[simp] theorem fld_num_packL : fld_num (packL off d mj k) = off.extractLsb' 5 10 :=
  (field_left _ _ (by decide)).trans ((field_left _ _ (by decide)).trans ((field_left _ _ (by decide))))
@[simp] theorem fld_acc_packL : fld_acc (packL off d mj k) = off.extractLsb' 11 4 :=
  (field_left _ _ (by decide)).trans ((field_left _ _ (by decide)).trans ((field_left _ _ (by decide))))
@[simp] theorem fld_fn6_packL : fld_fn6 (packL off d mj k) = off.extractLsb' 5 6 :=
  (field_left _ _ (by decide)).trans ((field_left _ _ (by decide)).trans ((field_left _ _ (by decide))))
@[simp] theorem fld_ctl_packL : fld_ctl (packL off d mj k) = off.extractLsb' 5 12 :=
  (field_left _ _ (by decide)).trans ((field_left _ _ (by decide)).trans ((field_left _ _ (by decide))))
@[simp] theorem fld_top2_packL : fld_top2 (packL off d mj k) = off.extractLsb' 17 2 :=
  (field_left _ _ (by decide)).trans ((field_left _ _ (by decide)).trans ((field_left _ _ (by decide))))
@[simp] theorem fld_shn_packL : fld_shn (packL off d mj k) = off.extractLsb' 5 6 :=
  (field_left _ _ (by decide)).trans ((field_left _ _ (by decide)).trans ((field_left _ _ (by decide))))
@[simp] theorem fld_shop_packL : fld_shop (packL off d mj k) = off.extractLsb' 11 2 :=
  (field_left _ _ (by decide)).trans ((field_left _ _ (by decide)).trans ((field_left _ _ (by decide))))
@[simp] theorem fld_shtop_packL : fld_shtop (packL off d mj k) = off.extractLsb' 13 6 :=
  (field_left _ _ (by decide)).trans ((field_left _ _ (by decide)).trans ((field_left _ _ (by decide))))
@[simp] theorem fld_fpos_packL : fld_fpos (packL off d mj k) = off.extractLsb' 5 6 :=
  (field_left _ _ (by decide)).trans ((field_left _ _ (by decide)).trans ((field_left _ _ (by decide))))
@[simp] theorem fld_flen_packL : fld_flen (packL off d mj k) = off.extractLsb' 11 6 :=
  (field_left _ _ (by decide)).trans ((field_left _ _ (by decide)).trans ((field_left _ _ (by decide))))
@[simp] theorem fld_fsel_packL : fld_fsel (packL off d mj k) = off.extractLsb' 17 2 :=
  (field_left _ _ (by decide)).trans ((field_left _ _ (by decide)).trans ((field_left _ _ (by decide))))
@[simp] theorem fld_b3_packL : fld_b3 (packL off d mj k) = off.extractLsb' 5 3 :=
  (field_left _ _ (by decide)).trans ((field_left _ _ (by decide)).trans ((field_left _ _ (by decide))))
@[simp] theorem fld_bhi_packL : fld_bhi (packL off d mj k) = off.extractLsb' 8 2 :=
  (field_left _ _ (by decide)).trans ((field_left _ _ (by decide)).trans ((field_left _ _ (by decide))))
@[simp] theorem fld_lsc_packL : fld_lsc (packL off d mj k) = off.extractLsb' 10 3 :=
  (field_left _ _ (by decide)).trans ((field_left _ _ (by decide)).trans ((field_left _ _ (by decide))))
@[simp] theorem fld_lhi_packL : fld_lhi (packL off d mj k) = off.extractLsb' 13 2 :=
  (field_left _ _ (by decide)).trans ((field_left _ _ (by decide)).trans ((field_left _ _ (by decide))))
@[simp] theorem fld_src4_packL : fld_src4 (packL off d mj k) = off.extractLsb' 5 4 :=
  (field_left _ _ (by decide)).trans ((field_left _ _ (by decide)).trans ((field_left _ _ (by decide))))
@[simp] theorem fld_fnlo_packL : fld_fnlo (packL off d mj k) = off.extractLsb' 9 2 :=
  (field_left _ _ (by decide)).trans ((field_left _ _ (by decide)).trans ((field_left _ _ (by decide))))
@[simp] theorem fld_rop_packL : fld_rop (packL off d mj k) = off.extractLsb' 10 3 :=
  (field_left _ _ (by decide)).trans ((field_left _ _ (by decide)).trans ((field_left _ _ (by decide))))
@[simp] theorem fld_rw_packL : fld_rw (packL off d mj k) = off.extractLsb' 13 2 :=
  (field_left _ _ (by decide)).trans ((field_left _ _ (by decide)).trans ((field_left _ _ (by decide))))
@[simp] theorem fld_pop2_packL : fld_pop2 (packL off d mj k) = off.extractLsb' 10 2 :=
  (field_left _ _ (by decide)).trans ((field_left _ _ (by decide)).trans ((field_left _ _ (by decide))))
@[simp] theorem fld_pty_packL : fld_pty (packL off d mj k) = off.extractLsb' 12 2 :=
  (field_left _ _ (by decide)).trans ((field_left _ _ (by decide)).trans ((field_left _ _ (by decide))))
@[simp] theorem fld_ptop_packL : fld_ptop (packL off d mj k) = off.extractLsb' 14 1 :=
  (field_left _ _ (by decide)).trans ((field_left _ _ (by decide)).trans ((field_left _ _ (by decide))))
@[simp] theorem fld_l11_packL : fld_l11 (packL off d mj k) = off.extractLsb' 8 11 :=
  (field_left _ _ (by decide)).trans ((field_left _ _ (by decide)).trans ((field_left _ _ (by decide))))
@[simp] theorem fld_v7_packL : fld_v7 (packL off d mj k) = off.extractLsb' 5 7 :=
  (field_left _ _ (by decide)).trans ((field_left _ _ (by decide)).trans ((field_left _ _ (by decide))))
@[simp] theorem packL_eq_zero : packL off d mj k = 0#32 ↔ off = 0 ∧ d = 0 ∧ mj = 0 ∧ k = 0 := by
  constructor
  · intro h
    exact ⟨by simpa using congrArg fld_off19 h, by simpa using congrArg fld_d h, by simpa using congrArg fld_maj h, by simpa using congrArg fld_kind h⟩
  · rintro ⟨rfl, rfl, rfl, rfl⟩; decide

end

/-! ## packV -/

section

variable (mask : BitVec 3) (mm : BitVec 1) (ty : BitVec 3) (sub : BitVec 2) (b : BitVec 5) (a : BitVec 5) (d : BitVec 5) (mj : BitVec 6) (k : BitVec 2)

@[simp] theorem fld_kind_packV : fld_kind (packV mask mm ty sub b a d mj k) = k :=
  (field_right _ _ (by decide)).trans ((field_all _))
@[simp] theorem fld_maj_packV : fld_maj (packV mask mm ty sub b a d mj k) = mj :=
  (field_left _ _ (by decide)).trans ((field_right _ _ (by decide)).trans ((field_all _)))
@[simp] theorem fld_d_packV : fld_d (packV mask mm ty sub b a d mj k) = d :=
  (field_left _ _ (by decide)).trans ((field_left _ _ (by decide)).trans ((field_right _ _ (by decide)).trans ((field_all _))))
@[simp] theorem fld_a_packV : fld_a (packV mask mm ty sub b a d mj k) = a :=
  (field_left _ _ (by decide)).trans ((field_left _ _ (by decide)).trans ((field_left _ _ (by decide)).trans ((field_right _ _ (by decide)).trans ((field_all _)))))
@[simp] theorem fld_b_packV : fld_b (packV mask mm ty sub b a d mj k) = b :=
  (field_left _ _ (by decide)).trans ((field_left _ _ (by decide)).trans ((field_left _ _ (by decide)).trans ((field_left _ _ (by decide)).trans ((field_right _ _ (by decide)).trans ((field_all _))))))
@[simp] theorem fld_imm14_packV : fld_imm14 (packV mask mm ty sub b a d mj k) = mask ++ mm ++ ty ++ sub ++ b :=
  (field_left _ _ (by decide)).trans ((field_left _ _ (by decide)).trans ((field_left _ _ (by decide)).trans ((field_left _ _ (by decide)).trans ((field_all _)))))
@[simp] theorem fld_cond_packV : fld_cond (packV mask mm ty sub b a d mj k) = b.extractLsb' 0 3 :=
  (field_left _ _ (by decide)).trans ((field_left _ _ (by decide)).trans ((field_left _ _ (by decide)).trans ((field_left _ _ (by decide)).trans ((field_right _ _ (by decide))))))
@[simp] theorem fld_vmask_packV : fld_vmask (packV mask mm ty sub b a d mj k) = mask :=
  (field_left _ _ (by decide)).trans ((field_left _ _ (by decide)).trans ((field_left _ _ (by decide)).trans ((field_left _ _ (by decide)).trans ((field_left _ _ (by decide)).trans ((field_left _ _ (by decide)).trans ((field_left _ _ (by decide)).trans ((field_left _ _ (by decide)).trans ((field_all _)))))))))
@[simp] theorem fld_vmm_packV : fld_vmm (packV mask mm ty sub b a d mj k) = mm :=
  (field_left _ _ (by decide)).trans ((field_left _ _ (by decide)).trans ((field_left _ _ (by decide)).trans ((field_left _ _ (by decide)).trans ((field_left _ _ (by decide)).trans ((field_left _ _ (by decide)).trans ((field_left _ _ (by decide)).trans ((field_right _ _ (by decide)).trans ((field_all _)))))))))
@[simp] theorem fld_vty_packV : fld_vty (packV mask mm ty sub b a d mj k) = ty :=
  (field_left _ _ (by decide)).trans ((field_left _ _ (by decide)).trans ((field_left _ _ (by decide)).trans ((field_left _ _ (by decide)).trans ((field_left _ _ (by decide)).trans ((field_left _ _ (by decide)).trans ((field_right _ _ (by decide)).trans ((field_all _))))))))
@[simp] theorem fld_vsub_packV : fld_vsub (packV mask mm ty sub b a d mj k) = sub :=
  (field_left _ _ (by decide)).trans ((field_left _ _ (by decide)).trans ((field_left _ _ (by decide)).trans ((field_left _ _ (by decide)).trans ((field_left _ _ (by decide)).trans ((field_right _ _ (by decide)).trans ((field_all _)))))))
@[simp] theorem fld_mmask_packV : fld_mmask (packV mask mm ty sub b a d mj k) = ty :=
  (field_left _ _ (by decide)).trans ((field_left _ _ (by decide)).trans ((field_left _ _ (by decide)).trans ((field_left _ _ (by decide)).trans ((field_left _ _ (by decide)).trans ((field_left _ _ (by decide)).trans ((field_right _ _ (by decide)).trans ((field_all _))))))))
@[simp] theorem fld_mmm_packV : fld_mmm (packV mask mm ty sub b a d mj k) = sub.extractLsb' 1 1 :=
  (field_left _ _ (by decide)).trans ((field_left _ _ (by decide)).trans ((field_left _ _ (by decide)).trans ((field_left _ _ (by decide)).trans ((field_left _ _ (by decide)).trans ((field_right _ _ (by decide)))))))
@[simp] theorem fld_top2_packV : fld_top2 (packV mask mm ty sub b a d mj k) = mask.extractLsb' 1 2 :=
  (field_left _ _ (by decide)).trans ((field_left _ _ (by decide)).trans ((field_left _ _ (by decide)).trans ((field_left _ _ (by decide)).trans ((field_left _ _ (by decide)).trans ((field_left _ _ (by decide)).trans ((field_left _ _ (by decide)).trans ((field_left _ _ (by decide)))))))))
@[simp] theorem fld_fsel_packV : fld_fsel (packV mask mm ty sub b a d mj k) = mask.extractLsb' 1 2 :=
  (field_left _ _ (by decide)).trans ((field_left _ _ (by decide)).trans ((field_left _ _ (by decide)).trans ((field_left _ _ (by decide)).trans ((field_left _ _ (by decide)).trans ((field_left _ _ (by decide)).trans ((field_left _ _ (by decide)).trans ((field_left _ _ (by decide)))))))))
@[simp] theorem fld_b3_packV : fld_b3 (packV mask mm ty sub b a d mj k) = b.extractLsb' 0 3 :=
  (field_left _ _ (by decide)).trans ((field_left _ _ (by decide)).trans ((field_left _ _ (by decide)).trans ((field_left _ _ (by decide)).trans ((field_right _ _ (by decide))))))
@[simp] theorem fld_bhi_packV : fld_bhi (packV mask mm ty sub b a d mj k) = b.extractLsb' 3 2 :=
  (field_left _ _ (by decide)).trans ((field_left _ _ (by decide)).trans ((field_left _ _ (by decide)).trans ((field_left _ _ (by decide)).trans ((field_right _ _ (by decide))))))
@[simp] theorem fld_lhi_packV : fld_lhi (packV mask mm ty sub b a d mj k) = ty.extractLsb' 1 2 :=
  (field_left _ _ (by decide)).trans ((field_left _ _ (by decide)).trans ((field_left _ _ (by decide)).trans ((field_left _ _ (by decide)).trans ((field_left _ _ (by decide)).trans ((field_left _ _ (by decide)).trans ((field_right _ _ (by decide))))))))
@[simp] theorem fld_src4_packV : fld_src4 (packV mask mm ty sub b a d mj k) = b.extractLsb' 0 4 :=
  (field_left _ _ (by decide)).trans ((field_left _ _ (by decide)).trans ((field_left _ _ (by decide)).trans ((field_left _ _ (by decide)).trans ((field_right _ _ (by decide))))))
@[simp] theorem fld_rw_packV : fld_rw (packV mask mm ty sub b a d mj k) = ty.extractLsb' 1 2 :=
  (field_left _ _ (by decide)).trans ((field_left _ _ (by decide)).trans ((field_left _ _ (by decide)).trans ((field_left _ _ (by decide)).trans ((field_left _ _ (by decide)).trans ((field_left _ _ (by decide)).trans ((field_right _ _ (by decide))))))))
@[simp] theorem fld_pop2_packV : fld_pop2 (packV mask mm ty sub b a d mj k) = sub :=
  (field_left _ _ (by decide)).trans ((field_left _ _ (by decide)).trans ((field_left _ _ (by decide)).trans ((field_left _ _ (by decide)).trans ((field_left _ _ (by decide)).trans ((field_right _ _ (by decide)).trans ((field_all _)))))))
@[simp] theorem fld_pty_packV : fld_pty (packV mask mm ty sub b a d mj k) = ty.extractLsb' 0 2 :=
  (field_left _ _ (by decide)).trans ((field_left _ _ (by decide)).trans ((field_left _ _ (by decide)).trans ((field_left _ _ (by decide)).trans ((field_left _ _ (by decide)).trans ((field_left _ _ (by decide)).trans ((field_right _ _ (by decide))))))))
@[simp] theorem fld_ptop_packV : fld_ptop (packV mask mm ty sub b a d mj k) = ty.extractLsb' 2 1 :=
  (field_left _ _ (by decide)).trans ((field_left _ _ (by decide)).trans ((field_left _ _ (by decide)).trans ((field_left _ _ (by decide)).trans ((field_left _ _ (by decide)).trans ((field_left _ _ (by decide)).trans ((field_right _ _ (by decide))))))))
@[simp] theorem fld_v7_packV : fld_v7 (packV mask mm ty sub b a d mj k) = sub ++ b :=
  (field_left _ _ (by decide)).trans ((field_left _ _ (by decide)).trans ((field_left _ _ (by decide)).trans ((field_left _ _ (by decide)).trans ((field_two _ _ _)))))

end

/-! ## packVM -/

section

variable (look : BitVec 4) (mask : BitVec 3) (mm : BitVec 1) (imm : BitVec 6) (a : BitVec 5) (d : BitVec 5) (mj : BitVec 6) (k : BitVec 2)

@[simp] theorem fld_kind_packVM : fld_kind (packVM look mask mm imm a d mj k) = k :=
  (field_right _ _ (by decide)).trans ((field_all _))
@[simp] theorem fld_maj_packVM : fld_maj (packVM look mask mm imm a d mj k) = mj :=
  (field_left _ _ (by decide)).trans ((field_right _ _ (by decide)).trans ((field_all _)))
@[simp] theorem fld_d_packVM : fld_d (packVM look mask mm imm a d mj k) = d :=
  (field_left _ _ (by decide)).trans ((field_left _ _ (by decide)).trans ((field_right _ _ (by decide)).trans ((field_all _))))
@[simp] theorem fld_a_packVM : fld_a (packVM look mask mm imm a d mj k) = a :=
  (field_left _ _ (by decide)).trans ((field_left _ _ (by decide)).trans ((field_left _ _ (by decide)).trans ((field_right _ _ (by decide)).trans ((field_all _)))))
@[simp] theorem fld_b_packVM : fld_b (packVM look mask mm imm a d mj k) = imm.extractLsb' 0 5 :=
  (field_left _ _ (by decide)).trans ((field_left _ _ (by decide)).trans ((field_left _ _ (by decide)).trans ((field_left _ _ (by decide)).trans ((field_right _ _ (by decide))))))
@[simp] theorem fld_look_packVM : fld_look (packVM look mask mm imm a d mj k) = look :=
  (field_left _ _ (by decide)).trans ((field_left _ _ (by decide)).trans ((field_left _ _ (by decide)).trans ((field_left _ _ (by decide)).trans ((field_left _ _ (by decide)).trans ((field_left _ _ (by decide)).trans ((field_left _ _ (by decide)).trans ((field_all _))))))))
@[simp] theorem fld_imm14_packVM : fld_imm14 (packVM look mask mm imm a d mj k) = look ++ mask ++ mm ++ imm :=
  (field_left _ _ (by decide)).trans ((field_left _ _ (by decide)).trans ((field_left _ _ (by decide)).trans ((field_left _ _ (by decide)).trans ((field_all _)))))
@[simp] theorem fld_cond_packVM : fld_cond (packVM look mask mm imm a d mj k) = imm.extractLsb' 0 3 :=
  (field_left _ _ (by decide)).trans ((field_left _ _ (by decide)).trans ((field_left _ _ (by decide)).trans ((field_left _ _ (by decide)).trans ((field_right _ _ (by decide))))))
@[simp] theorem fld_vmask_packVM : fld_vmask (packVM look mask mm imm a d mj k) = look.extractLsb' 1 3 :=
  (field_left _ _ (by decide)).trans ((field_left _ _ (by decide)).trans ((field_left _ _ (by decide)).trans ((field_left _ _ (by decide)).trans ((field_left _ _ (by decide)).trans ((field_left _ _ (by decide)).trans ((field_left _ _ (by decide))))))))
@[simp] theorem fld_vmm_packVM : fld_vmm (packVM look mask mm imm a d mj k) = look.extractLsb' 0 1 :=
  (field_left _ _ (by decide)).trans ((field_left _ _ (by decide)).trans ((field_left _ _ (by decide)).trans ((field_left _ _ (by decide)).trans ((field_left _ _ (by decide)).trans ((field_left _ _ (by decide)).trans ((field_left _ _ (by decide))))))))
@[simp] theorem fld_vty_packVM : fld_vty (packVM look mask mm imm a d mj k) = mask :=
  (field_left _ _ (by decide)).trans ((field_left _ _ (by decide)).trans ((field_left _ _ (by decide)).trans ((field_left _ _ (by decide)).trans ((field_left _ _ (by decide)).trans ((field_left _ _ (by decide)).trans ((field_right _ _ (by decide)).trans ((field_all _))))))))
@[simp] theorem fld_mmask_packVM : fld_mmask (packVM look mask mm imm a d mj k) = mask :=
  (field_left _ _ (by decide)).trans ((field_left _ _ (by decide)).trans ((field_left _ _ (by decide)).trans ((field_left _ _ (by decide)).trans ((field_left _ _ (by decide)).trans ((field_left _ _ (by decide)).trans ((field_right _ _ (by decide)).trans ((field_all _))))))))
@[simp] theorem fld_mmm_packVM : fld_mmm (packVM look mask mm imm a d mj k) = mm :=
  (field_left _ _ (by decide)).trans ((field_left _ _ (by decide)).trans ((field_left _ _ (by decide)).trans ((field_left _ _ (by decide)).trans ((field_left _ _ (by decide)).trans ((field_right _ _ (by decide)).trans ((field_all _)))))))
@[simp] theorem fld_imm6_packVM : fld_imm6 (packVM look mask mm imm a d mj k) = imm :=
  (field_left _ _ (by decide)).trans ((field_left _ _ (by decide)).trans ((field_left _ _ (by decide)).trans ((field_left _ _ (by decide)).trans ((field_right _ _ (by decide)).trans ((field_all _))))))
@[simp] theorem fld_fn6_packVM : fld_fn6 (packVM look mask mm imm a d mj k) = imm :=
  (field_left _ _ (by decide)).trans ((field_left _ _ (by decide)).trans ((field_left _ _ (by decide)).trans ((field_left _ _ (by decide)).trans ((field_right _ _ (by decide)).trans ((field_all _))))))
@[simp] theorem fld_top2_packVM : fld_top2 (packVM look mask mm imm a d mj k) = look.extractLsb' 2 2 :=
  (field_left _ _ (by decide)).trans ((field_left _ _ (by decide)).trans ((field_left _ _ (by decide)).trans ((field_left _ _ (by decide)).trans ((field_left _ _ (by decide)).trans ((field_left _ _ (by decide)).trans ((field_left _ _ (by decide))))))))
@[simp] theorem fld_shn_packVM : fld_shn (packVM look mask mm imm a d mj k) = imm :=
  (field_left _ _ (by decide)).trans ((field_left _ _ (by decide)).trans ((field_left _ _ (by decide)).trans ((field_left _ _ (by decide)).trans ((field_right _ _ (by decide)).trans ((field_all _))))))
@[simp] theorem fld_fpos_packVM : fld_fpos (packVM look mask mm imm a d mj k) = imm :=
  (field_left _ _ (by decide)).trans ((field_left _ _ (by decide)).trans ((field_left _ _ (by decide)).trans ((field_left _ _ (by decide)).trans ((field_right _ _ (by decide)).trans ((field_all _))))))
@[simp] theorem fld_fsel_packVM : fld_fsel (packVM look mask mm imm a d mj k) = look.extractLsb' 2 2 :=
  (field_left _ _ (by decide)).trans ((field_left _ _ (by decide)).trans ((field_left _ _ (by decide)).trans ((field_left _ _ (by decide)).trans ((field_left _ _ (by decide)).trans ((field_left _ _ (by decide)).trans ((field_left _ _ (by decide))))))))
@[simp] theorem fld_b3_packVM : fld_b3 (packVM look mask mm imm a d mj k) = imm.extractLsb' 0 3 :=
  (field_left _ _ (by decide)).trans ((field_left _ _ (by decide)).trans ((field_left _ _ (by decide)).trans ((field_left _ _ (by decide)).trans ((field_right _ _ (by decide))))))
@[simp] theorem fld_bhi_packVM : fld_bhi (packVM look mask mm imm a d mj k) = imm.extractLsb' 3 2 :=
  (field_left _ _ (by decide)).trans ((field_left _ _ (by decide)).trans ((field_left _ _ (by decide)).trans ((field_left _ _ (by decide)).trans ((field_right _ _ (by decide))))))
@[simp] theorem fld_lhi_packVM : fld_lhi (packVM look mask mm imm a d mj k) = mask.extractLsb' 1 2 :=
  (field_left _ _ (by decide)).trans ((field_left _ _ (by decide)).trans ((field_left _ _ (by decide)).trans ((field_left _ _ (by decide)).trans ((field_left _ _ (by decide)).trans ((field_left _ _ (by decide)).trans ((field_right _ _ (by decide))))))))
@[simp] theorem fld_src4_packVM : fld_src4 (packVM look mask mm imm a d mj k) = imm.extractLsb' 0 4 :=
  (field_left _ _ (by decide)).trans ((field_left _ _ (by decide)).trans ((field_left _ _ (by decide)).trans ((field_left _ _ (by decide)).trans ((field_right _ _ (by decide))))))
@[simp] theorem fld_fnlo_packVM : fld_fnlo (packVM look mask mm imm a d mj k) = imm.extractLsb' 4 2 :=
  (field_left _ _ (by decide)).trans ((field_left _ _ (by decide)).trans ((field_left _ _ (by decide)).trans ((field_left _ _ (by decide)).trans ((field_right _ _ (by decide))))))
@[simp] theorem fld_rw_packVM : fld_rw (packVM look mask mm imm a d mj k) = mask.extractLsb' 1 2 :=
  (field_left _ _ (by decide)).trans ((field_left _ _ (by decide)).trans ((field_left _ _ (by decide)).trans ((field_left _ _ (by decide)).trans ((field_left _ _ (by decide)).trans ((field_left _ _ (by decide)).trans ((field_right _ _ (by decide))))))))
@[simp] theorem fld_pty_packVM : fld_pty (packVM look mask mm imm a d mj k) = mask.extractLsb' 0 2 :=
  (field_left _ _ (by decide)).trans ((field_left _ _ (by decide)).trans ((field_left _ _ (by decide)).trans ((field_left _ _ (by decide)).trans ((field_left _ _ (by decide)).trans ((field_left _ _ (by decide)).trans ((field_right _ _ (by decide))))))))
@[simp] theorem fld_ptop_packVM : fld_ptop (packVM look mask mm imm a d mj k) = mask.extractLsb' 2 1 :=
  (field_left _ _ (by decide)).trans ((field_left _ _ (by decide)).trans ((field_left _ _ (by decide)).trans ((field_left _ _ (by decide)).trans ((field_left _ _ (by decide)).trans ((field_left _ _ (by decide)).trans ((field_right _ _ (by decide))))))))
@[simp] theorem fld_v7_packVM : fld_v7 (packVM look mask mm imm a d mj k) = mm ++ imm :=
  (field_left _ _ (by decide)).trans ((field_left _ _ (by decide)).trans ((field_left _ _ (by decide)).trans ((field_left _ _ (by decide)).trans ((field_two _ _ _)))))

end

/-! ## packX -/

section

variable (look : BitVec 4) (acc : BitVec 4) (fn6 : BitVec 6) (a : BitVec 5) (d : BitVec 5) (mj : BitVec 6) (k : BitVec 2)

@[simp] theorem fld_kind_packX : fld_kind (packX look acc fn6 a d mj k) = k :=
  (field_right _ _ (by decide)).trans ((field_all _))
@[simp] theorem fld_maj_packX : fld_maj (packX look acc fn6 a d mj k) = mj :=
  (field_left _ _ (by decide)).trans ((field_right _ _ (by decide)).trans ((field_all _)))
@[simp] theorem fld_d_packX : fld_d (packX look acc fn6 a d mj k) = d :=
  (field_left _ _ (by decide)).trans ((field_left _ _ (by decide)).trans ((field_right _ _ (by decide)).trans ((field_all _))))
@[simp] theorem fld_a_packX : fld_a (packX look acc fn6 a d mj k) = a :=
  (field_left _ _ (by decide)).trans ((field_left _ _ (by decide)).trans ((field_left _ _ (by decide)).trans ((field_right _ _ (by decide)).trans ((field_all _)))))
@[simp] theorem fld_b_packX : fld_b (packX look acc fn6 a d mj k) = fn6.extractLsb' 0 5 :=
  (field_left _ _ (by decide)).trans ((field_left _ _ (by decide)).trans ((field_left _ _ (by decide)).trans ((field_left _ _ (by decide)).trans ((field_right _ _ (by decide))))))
@[simp] theorem fld_look_packX : fld_look (packX look acc fn6 a d mj k) = look :=
  (field_left _ _ (by decide)).trans ((field_left _ _ (by decide)).trans ((field_left _ _ (by decide)).trans ((field_left _ _ (by decide)).trans ((field_left _ _ (by decide)).trans ((field_left _ _ (by decide)).trans ((field_all _)))))))
@[simp] theorem fld_imm14_packX : fld_imm14 (packX look acc fn6 a d mj k) = look ++ acc ++ fn6 :=
  (field_left _ _ (by decide)).trans ((field_left _ _ (by decide)).trans ((field_left _ _ (by decide)).trans ((field_left _ _ (by decide)).trans ((field_all _)))))
@[simp] theorem fld_imm10_packX : fld_imm10 (packX look acc fn6 a d mj k) = acc ++ fn6 :=
  (field_left _ _ (by decide)).trans ((field_left _ _ (by decide)).trans ((field_left _ _ (by decide)).trans ((field_left _ _ (by decide)).trans ((field_two _ _ _)))))
@[simp] theorem fld_cond_packX : fld_cond (packX look acc fn6 a d mj k) = fn6.extractLsb' 0 3 :=
  (field_left _ _ (by decide)).trans ((field_left _ _ (by decide)).trans ((field_left _ _ (by decide)).trans ((field_left _ _ (by decide)).trans ((field_right _ _ (by decide))))))
@[simp] theorem fld_vmask_packX : fld_vmask (packX look acc fn6 a d mj k) = look.extractLsb' 1 3 :=
  (field_left _ _ (by decide)).trans ((field_left _ _ (by decide)).trans ((field_left _ _ (by decide)).trans ((field_left _ _ (by decide)).trans ((field_left _ _ (by decide)).trans ((field_left _ _ (by decide)))))))
@[simp] theorem fld_vmm_packX : fld_vmm (packX look acc fn6 a d mj k) = look.extractLsb' 0 1 :=
  (field_left _ _ (by decide)).trans ((field_left _ _ (by decide)).trans ((field_left _ _ (by decide)).trans ((field_left _ _ (by decide)).trans ((field_left _ _ (by decide)).trans ((field_left _ _ (by decide)))))))
@[simp] theorem fld_vty_packX : fld_vty (packX look acc fn6 a d mj k) = acc.extractLsb' 1 3 :=
  (field_left _ _ (by decide)).trans ((field_left _ _ (by decide)).trans ((field_left _ _ (by decide)).trans ((field_left _ _ (by decide)).trans ((field_left _ _ (by decide)).trans ((field_right _ _ (by decide)))))))
@[simp] theorem fld_mmask_packX : fld_mmask (packX look acc fn6 a d mj k) = acc.extractLsb' 1 3 :=
  (field_left _ _ (by decide)).trans ((field_left _ _ (by decide)).trans ((field_left _ _ (by decide)).trans ((field_left _ _ (by decide)).trans ((field_left _ _ (by decide)).trans ((field_right _ _ (by decide)))))))
@[simp] theorem fld_mmm_packX : fld_mmm (packX look acc fn6 a d mj k) = acc.extractLsb' 0 1 :=
  (field_left _ _ (by decide)).trans ((field_left _ _ (by decide)).trans ((field_left _ _ (by decide)).trans ((field_left _ _ (by decide)).trans ((field_left _ _ (by decide)).trans ((field_right _ _ (by decide)))))))
@[simp] theorem fld_imm6_packX : fld_imm6 (packX look acc fn6 a d mj k) = fn6 :=
  (field_left _ _ (by decide)).trans ((field_left _ _ (by decide)).trans ((field_left _ _ (by decide)).trans ((field_left _ _ (by decide)).trans ((field_right _ _ (by decide)).trans ((field_all _))))))
@[simp] theorem fld_num_packX : fld_num (packX look acc fn6 a d mj k) = acc ++ fn6 :=
  (field_left _ _ (by decide)).trans ((field_left _ _ (by decide)).trans ((field_left _ _ (by decide)).trans ((field_left _ _ (by decide)).trans ((field_two _ _ _)))))
@[simp] theorem fld_acc_packX : fld_acc (packX look acc fn6 a d mj k) = acc :=
  (field_left _ _ (by decide)).trans ((field_left _ _ (by decide)).trans ((field_left _ _ (by decide)).trans ((field_left _ _ (by decide)).trans ((field_left _ _ (by decide)).trans ((field_right _ _ (by decide)).trans ((field_all _)))))))
@[simp] theorem fld_fn6_packX : fld_fn6 (packX look acc fn6 a d mj k) = fn6 :=
  (field_left _ _ (by decide)).trans ((field_left _ _ (by decide)).trans ((field_left _ _ (by decide)).trans ((field_left _ _ (by decide)).trans ((field_right _ _ (by decide)).trans ((field_all _))))))
@[simp] theorem fld_top2_packX : fld_top2 (packX look acc fn6 a d mj k) = look.extractLsb' 2 2 :=
  (field_left _ _ (by decide)).trans ((field_left _ _ (by decide)).trans ((field_left _ _ (by decide)).trans ((field_left _ _ (by decide)).trans ((field_left _ _ (by decide)).trans ((field_left _ _ (by decide)))))))
@[simp] theorem fld_shn_packX : fld_shn (packX look acc fn6 a d mj k) = fn6 :=
  (field_left _ _ (by decide)).trans ((field_left _ _ (by decide)).trans ((field_left _ _ (by decide)).trans ((field_left _ _ (by decide)).trans ((field_right _ _ (by decide)).trans ((field_all _))))))
@[simp] theorem fld_shop_packX : fld_shop (packX look acc fn6 a d mj k) = acc.extractLsb' 0 2 :=
  (field_left _ _ (by decide)).trans ((field_left _ _ (by decide)).trans ((field_left _ _ (by decide)).trans ((field_left _ _ (by decide)).trans ((field_left _ _ (by decide)).trans ((field_right _ _ (by decide)))))))
@[simp] theorem fld_fpos_packX : fld_fpos (packX look acc fn6 a d mj k) = fn6 :=
  (field_left _ _ (by decide)).trans ((field_left _ _ (by decide)).trans ((field_left _ _ (by decide)).trans ((field_left _ _ (by decide)).trans ((field_right _ _ (by decide)).trans ((field_all _))))))
@[simp] theorem fld_fsel_packX : fld_fsel (packX look acc fn6 a d mj k) = look.extractLsb' 2 2 :=
  (field_left _ _ (by decide)).trans ((field_left _ _ (by decide)).trans ((field_left _ _ (by decide)).trans ((field_left _ _ (by decide)).trans ((field_left _ _ (by decide)).trans ((field_left _ _ (by decide)))))))
@[simp] theorem fld_b3_packX : fld_b3 (packX look acc fn6 a d mj k) = fn6.extractLsb' 0 3 :=
  (field_left _ _ (by decide)).trans ((field_left _ _ (by decide)).trans ((field_left _ _ (by decide)).trans ((field_left _ _ (by decide)).trans ((field_right _ _ (by decide))))))
@[simp] theorem fld_bhi_packX : fld_bhi (packX look acc fn6 a d mj k) = fn6.extractLsb' 3 2 :=
  (field_left _ _ (by decide)).trans ((field_left _ _ (by decide)).trans ((field_left _ _ (by decide)).trans ((field_left _ _ (by decide)).trans ((field_right _ _ (by decide))))))
@[simp] theorem fld_lhi_packX : fld_lhi (packX look acc fn6 a d mj k) = acc.extractLsb' 2 2 :=
  (field_left _ _ (by decide)).trans ((field_left _ _ (by decide)).trans ((field_left _ _ (by decide)).trans ((field_left _ _ (by decide)).trans ((field_left _ _ (by decide)).trans ((field_right _ _ (by decide)))))))
@[simp] theorem fld_src4_packX : fld_src4 (packX look acc fn6 a d mj k) = fn6.extractLsb' 0 4 :=
  (field_left _ _ (by decide)).trans ((field_left _ _ (by decide)).trans ((field_left _ _ (by decide)).trans ((field_left _ _ (by decide)).trans ((field_right _ _ (by decide))))))
@[simp] theorem fld_fnlo_packX : fld_fnlo (packX look acc fn6 a d mj k) = fn6.extractLsb' 4 2 :=
  (field_left _ _ (by decide)).trans ((field_left _ _ (by decide)).trans ((field_left _ _ (by decide)).trans ((field_left _ _ (by decide)).trans ((field_right _ _ (by decide))))))
@[simp] theorem fld_rw_packX : fld_rw (packX look acc fn6 a d mj k) = acc.extractLsb' 2 2 :=
  (field_left _ _ (by decide)).trans ((field_left _ _ (by decide)).trans ((field_left _ _ (by decide)).trans ((field_left _ _ (by decide)).trans ((field_left _ _ (by decide)).trans ((field_right _ _ (by decide)))))))
@[simp] theorem fld_pty_packX : fld_pty (packX look acc fn6 a d mj k) = acc.extractLsb' 1 2 :=
  (field_left _ _ (by decide)).trans ((field_left _ _ (by decide)).trans ((field_left _ _ (by decide)).trans ((field_left _ _ (by decide)).trans ((field_left _ _ (by decide)).trans ((field_right _ _ (by decide)))))))
@[simp] theorem fld_ptop_packX : fld_ptop (packX look acc fn6 a d mj k) = acc.extractLsb' 3 1 :=
  (field_left _ _ (by decide)).trans ((field_left _ _ (by decide)).trans ((field_left _ _ (by decide)).trans ((field_left _ _ (by decide)).trans ((field_left _ _ (by decide)).trans ((field_right _ _ (by decide)))))))

end

/-! ## Other layouts -/

@[simp] theorem fld_kind_packC (n : BitVec 12) (a d : BitVec 5) (mj : BitVec 6) (k : BitVec 2) : fld_kind (packC n a d mj k) = k :=
  (field_right _ _ (by decide)).trans ((field_all _))
@[simp] theorem fld_maj_packC (n : BitVec 12) (a d : BitVec 5) (mj : BitVec 6) (k : BitVec 2) : fld_maj (packC n a d mj k) = mj :=
  (field_left _ _ (by decide)).trans ((field_right _ _ (by decide)).trans ((field_all _)))
@[simp] theorem fld_d_packC (n : BitVec 12) (a d : BitVec 5) (mj : BitVec 6) (k : BitVec 2) : fld_d (packC n a d mj k) = d :=
  (field_left _ _ (by decide)).trans ((field_left _ _ (by decide)).trans ((field_right _ _ (by decide)).trans ((field_all _))))
@[simp] theorem fld_a_packC (n : BitVec 12) (a d : BitVec 5) (mj : BitVec 6) (k : BitVec 2) : fld_a (packC n a d mj k) = a :=
  (field_left _ _ (by decide)).trans ((field_left _ _ (by decide)).trans ((field_left _ _ (by decide)).trans ((field_right _ _ (by decide)).trans ((field_all _)))))
@[simp] theorem fld_ctl_packC (n : BitVec 12) (a d : BitVec 5) (mj : BitVec 6) (k : BitVec 2) : fld_ctl (packC n a d mj k) = n :=
  (field_left _ _ (by decide)).trans ((field_left _ _ (by decide)).trans ((field_left _ _ (by decide)).trans ((field_left _ _ (by decide)).trans ((field_right _ _ (by decide)).trans ((field_all _))))))
@[simp] theorem fld_top2_packC (n : BitVec 12) (a d : BitVec 5) (mj : BitVec 6) (k : BitVec 2) : fld_top2 (packC n a d mj k) = 0 :=
  (field_left _ _ (by decide)).trans ((field_left _ _ (by decide)).trans ((field_left _ _ (by decide)).trans ((field_left _ _ (by decide)).trans ((field_left _ _ (by decide)).trans ((field_all _))))))
@[simp] theorem fld_kind_packP (r : BitVec 3) (sat : BitVec 1) (fmt : BitVec 3) (ftz : BitVec 1) (te : BitVec 4) : fld_kind (packP r sat fmt ftz te) = 2 :=
  (field_right _ _ (by decide)).trans ((field_all _))
@[simp] theorem fld_maj_packP (r : BitVec 3) (sat : BitVec 1) (fmt : BitVec 3) (ftz : BitVec 1) (te : BitVec 4) : fld_maj (packP r sat fmt ftz te) = 0 :=
  (field_left _ _ (by decide)).trans ((field_right _ _ (by decide)).trans ((field_all _)))
@[simp] theorem fld_pres_packP (r : BitVec 3) (sat : BitVec 1) (fmt : BitVec 3) (ftz : BitVec 1) (te : BitVec 4) : fld_pres (packP r sat fmt ftz te) = 0 :=
  (field_left _ _ (by decide)).trans ((field_left _ _ (by decide)).trans ((field_right _ _ (by decide)).trans ((field_all _))))
@[simp] theorem fld_pte_packP (r : BitVec 3) (sat : BitVec 1) (fmt : BitVec 3) (ftz : BitVec 1) (te : BitVec 4) : fld_pte (packP r sat fmt ftz te) = te :=
  (field_left _ _ (by decide)).trans ((field_left _ _ (by decide)).trans ((field_left _ _ (by decide)).trans ((field_right _ _ (by decide)).trans ((field_all _)))))
@[simp] theorem fld_pftz_packP (r : BitVec 3) (sat : BitVec 1) (fmt : BitVec 3) (ftz : BitVec 1) (te : BitVec 4) : fld_pftz (packP r sat fmt ftz te) = ftz :=
  (field_left _ _ (by decide)).trans ((field_left _ _ (by decide)).trans ((field_left _ _ (by decide)).trans ((field_left _ _ (by decide)).trans ((field_right _ _ (by decide)).trans ((field_all _))))))
@[simp] theorem fld_pfmt_packP (r : BitVec 3) (sat : BitVec 1) (fmt : BitVec 3) (ftz : BitVec 1) (te : BitVec 4) : fld_pfmt (packP r sat fmt ftz te) = fmt :=
  (field_left _ _ (by decide)).trans ((field_left _ _ (by decide)).trans ((field_left _ _ (by decide)).trans ((field_left _ _ (by decide)).trans ((field_left _ _ (by decide)).trans ((field_right _ _ (by decide)).trans ((field_all _)))))))
@[simp] theorem fld_psat_packP (r : BitVec 3) (sat : BitVec 1) (fmt : BitVec 3) (ftz : BitVec 1) (te : BitVec 4) : fld_psat (packP r sat fmt ftz te) = sat :=
  (field_left _ _ (by decide)).trans ((field_left _ _ (by decide)).trans ((field_left _ _ (by decide)).trans ((field_left _ _ (by decide)).trans ((field_left _ _ (by decide)).trans ((field_left _ _ (by decide)).trans ((field_right _ _ (by decide)).trans ((field_all _))))))))
@[simp] theorem fld_prnd_packP (r : BitVec 3) (sat : BitVec 1) (fmt : BitVec 3) (ftz : BitVec 1) (te : BitVec 4) : fld_prnd (packP r sat fmt ftz te) = r :=
  (field_left _ _ (by decide)).trans ((field_left _ _ (by decide)).trans ((field_left _ _ (by decide)).trans ((field_left _ _ (by decide)).trans ((field_left _ _ (by decide)).trans ((field_left _ _ (by decide)).trans ((field_left _ _ (by decide)).trans ((field_all _))))))))

/-! ## Fields put together by the encoder itself -/

@[simp] theorem low3_of_pad2 (z : BitVec 2) (k : BitVec 3) : (z ++ k : BitVec 5).extractLsb' 0 3 = k :=
  (field_right _ _ (by decide)).trans (field_all _)
@[simp] theorem high2_of_pad2 (z : BitVec 2) (k : BitVec 3) : (z ++ k : BitVec 5).extractLsb' 3 2 = z :=
  (field_left _ _ (by decide)).trans (field_all _)
@[simp] theorem low4_of_pad2 (z : BitVec 2) (k : BitVec 4) : (z ++ k : BitVec 6).extractLsb' 0 4 = k :=
  (field_right _ _ (by decide)).trans (field_all _)
@[simp] theorem high2_of_src (z : BitVec 2) (k : BitVec 4) : (z ++ k : BitVec 6).extractLsb' 4 2 = z :=
  (field_left _ _ (by decide)).trans (field_all _)
@[simp] theorem shift_amount (x : BitVec 6) (y : BitVec 2) (n : BitVec 6) : (x ++ y ++ n : BitVec 14).extractLsb' 0 6 = n :=
  (field_right _ _ (by decide)).trans (field_all _)
@[simp] theorem shift_op (x : BitVec 6) (y : BitVec 2) (n : BitVec 6) : (x ++ y ++ n : BitVec 14).extractLsb' 6 2 = y :=
  (field_left _ _ (by decide)).trans ((field_right _ _ (by decide)).trans (field_all _))
@[simp] theorem shift_top (x : BitVec 6) (y : BitVec 2) (n : BitVec 6) : (x ++ y ++ n : BitVec 14).extractLsb' 8 6 = x :=
  (field_left _ _ (by decide)).trans ((field_left _ _ (by decide)).trans (field_all _))
@[simp] theorem bits_pos (x : BitVec 2) (l p : BitVec 6) : (x ++ l ++ p : BitVec 14).extractLsb' 0 6 = p :=
  (field_right _ _ (by decide)).trans (field_all _)
@[simp] theorem bits_len (x : BitVec 2) (l p : BitVec 6) : (x ++ l ++ p : BitVec 14).extractLsb' 6 6 = l :=
  (field_left _ _ (by decide)).trans ((field_right _ _ (by decide)).trans (field_all _))
@[simp] theorem bits_sel (x : BitVec 2) (l p : BitVec 6) : (x ++ l ++ p : BitVec 14).extractLsb' 12 2 = x :=
  (field_left _ _ (by decide)).trans ((field_left _ _ (by decide)).trans (field_all _))
@[simp] theorem posted_op (z : BitVec 1) (t o : BitVec 2) : (z ++ t ++ o : BitVec 5).extractLsb' 0 2 = o :=
  (field_right _ _ (by decide)).trans (field_all _)
@[simp] theorem posted_type (z : BitVec 1) (t o : BitVec 2) : (z ++ t ++ o : BitVec 5).extractLsb' 2 2 = t :=
  (field_left _ _ (by decide)).trans ((field_right _ _ (by decide)).trans (field_all _))
@[simp] theorem posted_top (z : BitVec 1) (t o : BitVec 2) : (z ++ t ++ o : BitVec 5).extractLsb' 4 1 = z :=
  (field_left _ _ (by decide)).trans ((field_left _ _ (by decide)).trans (field_all _))
@[simp] theorem li_join (imm : BitVec 46) : (imm.extractLsb' 14 32 ++ imm.extractLsb' 0 14 : BitVec 46) = imm :=
  split_join imm 14 (m := 32) rfl

/-! ## Codes -/

@[simp] theorem VTy.ofCode_code (t : VTy) : VTy.ofCode t.code = t := by cases t <;> rfl
@[simp] theorem Cond.ofCode_code (c : Cond) : Cond.ofCode c.code = some c := by cases c <;> rfl
@[simp] theorem VCond.ofCode_code (c : VCond) : VCond.ofCode c.code = c := by cases c <;> rfl
@[simp] theorem Size.ofCode_code (w : Size) : Size.ofCode w.code = w := by cases w <;> rfl
@[simp] theorem PTy.ofCode_code (t : PTy) : PTy.ofCode t.code = some t := by cases t <;> rfl
@[simp] theorem bit_eq_one (b : Bool) : (bit b == 1) = b := by cases b <;> rfl
@[simp] theorem bit_eq_one' (b : Bool) : (bit b = 1#1) ↔ b = true := by cases b <;> decide

@[simp] theorem bit_beq_one (b : Bool) : (bit b == 1#1) = b := by cases b <;> rfl
@[simp] theorem bit_false_eq : bit false = 0#1 := rfl
@[simp] theorem mask_eta (m : Mask) : (⟨m.reg, m.zero⟩ : Mask) = m := rfl
/-- A six-bit count below a field of eight bits: the count, the bits of the field above its low two, and the field. -/
theorem shift_low (k : BitVec 8) (n : BitVec 6) : (k ++ n).extractLsb' 0 6 = n :=
  (field_right _ _ (by decide)).trans (field_all _)
theorem shift_high (k : BitVec 8) (n : BitVec 6) : (k ++ n).extractLsb' 8 6 = k.extractLsb' 2 6 :=
  field_left _ _ (by decide)

end Sys2Proof
end

