-- ==== Sys2Proof/Laws/Maps.lean ====
section
/-! SUPPORT. Finite maps and memory: reading after writing, what a write leaves alone, the canonical form. -/

namespace Sys2Proof.Machine

/-! ## Finite maps -/

section
variable {α : Type}

@[simp] theorem ffind_nil (k : Nat) : ffind ([] : FMap α) k = none := rfl

@[simp] theorem fget_nil (d : α) (k : Nat) : fget ([] : FMap α) d k = d := rfl

@[simp] theorem ffind_fset_same (m : FMap α) (k : Nat) (v : α) : ffind (fset m k v) k = some v := by
  induction m with
  | nil => simp [fset, ffind]
  | cons c t ih =>
    simp only [fset]
    split
    · simp [ffind]
    · split
      · simp [ffind]
      · next h1 h2 => simp [ffind, h2, ih]

theorem ffind_fset_ne (m : FMap α) {k j : Nat} (v : α) (h : j ≠ k) : ffind (fset m k v) j = ffind m j := by
  induction m with
  | nil => simp [fset, ffind, Ne.symm h]
  | cons c t ih =>
    simp only [fset]
    split
    · simp [ffind, Ne.symm h]
    · split
      · next h1 h2 => subst h2; simp [ffind, Ne.symm h]
      · simp [ffind, ih]

theorem ffind_fset (m : FMap α) (k j : Nat) (v : α) :
    ffind (fset m k v) j = if j = k then some v else ffind m j := by
  split
  · next h => subst h; simp
  · next h => exact ffind_fset_ne m v h

@[simp] theorem fget_fset_same (m : FMap α) (d : α) (k : Nat) (v : α) : fget (fset m k v) d k = v := by
  simp [fget]

theorem fget_fset_ne (m : FMap α) (d : α) {k j : Nat} (v : α) (h : j ≠ k) : fget (fset m k v) d j = fget m d j := by
  simp [fget, ffind_fset_ne m v h]

theorem fget_fset (m : FMap α) (d : α) (k j : Nat) (v : α) :
    fget (fset m k v) d j = if j = k then v else fget m d j := by
  split
  · next h => subst h; simp
  · next h => exact fget_fset_ne m d v h

theorem ffind_fdel_ne (m : FMap α) {k j : Nat} (h : j ≠ k) : ffind (fdel m k) j = ffind m j := by
  induction m with
  | nil => rfl
  | cons c t ih =>
    simp only [fdel]
    split
    · next h1 => subst h1; simp [ffind, Ne.symm h]
    · simp [ffind, ih]

theorem fget_fdel_ne (m : FMap α) (d : α) {k j : Nat} (h : j ≠ k) : fget (fdel m k) d j = fget m d j := by
  simp [fget, ffind_fdel_ne m h]

/-! ## The order of the keys -/

theorem risingFrom_mono {lo lo' : Nat} {m : FMap α} (h : risingFrom lo m = true) (hl : lo' ≤ lo) :
    risingFrom lo' m = true := by
  cases m with
  | nil => rfl
  | cons c t => simp [risingFrom] at h ⊢; exact ⟨by omega, h.2⟩

theorem ffind_below {lo k : Nat} {m : FMap α} (h : risingFrom lo m = true) (hk : k < lo) : ffind m k = none := by
  induction m generalizing lo with
  | nil => rfl
  | cons c t ih =>
    simp [risingFrom] at h
    have : c.1 ≠ k := by omega
    simp [ffind, this]
    exact ih h.2 (by omega)

theorem risingFrom_fset {lo k : Nat} {m : FMap α} (v : α) (h : risingFrom lo m = true) (hk : lo ≤ k) :
    risingFrom lo (fset m k v) = true := by
  induction m generalizing lo with
  | nil => simp [fset, risingFrom, hk]
  | cons c t ih =>
    simp [risingFrom] at h
    simp only [fset]
    split
    · simp [risingFrom, hk, h.2]; omega
    · split
      · simp [risingFrom, hk]; exact risingFrom_mono h.2 (by omega)
      · simp [risingFrom, h.1]; exact ih h.2 (by omega)

theorem risingFrom_fdel {lo k : Nat} {m : FMap α} (h : risingFrom lo m = true) : risingFrom lo (fdel m k) = true := by
  induction m generalizing lo with
  | nil => rfl
  | cons c t ih =>
    simp [risingFrom] at h
    simp only [fdel]
    split
    · exact risingFrom_mono h.2 (by omega)
    · simp [risingFrom, h.1]; exact ih h.2

theorem ffind_fdel_same {lo k : Nat} {m : FMap α} (h : risingFrom lo m = true) : ffind (fdel m k) k = none := by
  induction m generalizing lo with
  | nil => rfl
  | cons c t ih =>
    simp [risingFrom] at h
    simp only [fdel]
    split
    · next hc => exact ffind_below h.2 (by omega)
    · next hc => simp [ffind, hc]; exact ih h.2

theorem fget_fdel_same {lo k : Nat} {m : FMap α} (d : α) (h : risingFrom lo m = true) : fget (fdel m k) d k = d := by
  simp [fget, ffind_fdel_same h]

theorem mem_fset {m : FMap α} {k : Nat} {v : α} {c : Nat × α} (h : c ∈ fset m k v) : c = (k, v) ∨ c ∈ m := by
  induction m with
  | nil => simp [fset] at h; exact .inl h
  | cons x t ih =>
    simp only [fset] at h
    split at h
    · simpa using h
    · split at h
      · rcases List.mem_cons.1 h with h | h
        · exact .inl h
        · exact .inr (List.mem_cons_of_mem _ h)
      · rcases List.mem_cons.1 h with h | h
        · exact .inr (by rw [h]; exact List.mem_cons_self ..)
        · exact (ih h).imp id (List.mem_cons_of_mem _)

theorem mem_fdel {m : FMap α} {k : Nat} {c : Nat × α} (h : c ∈ fdel m k) : c ∈ m := by
  induction m with
  | nil => exact h
  | cons x t ih =>
    simp only [fdel] at h
    split at h
    · exact List.mem_cons_of_mem _ h
    · rcases List.mem_cons.1 h with h | h
      · rw [h]; exact List.mem_cons_self ..
      · exact List.mem_cons_of_mem _ (ih h)

theorem risingFrom_filter {lo : Nat} {m : FMap α} (p : Nat × α → Bool) (h : risingFrom lo m = true) :
    risingFrom lo (m.filter p) = true := by
  induction m generalizing lo with
  | nil => rfl
  | cons c t ih =>
    simp [risingFrom] at h
    simp only [List.filter]
    split
    · simp [risingFrom, h.1]; exact ih h.2
    · exact risingFrom_mono (ih h.2) (by omega)

end

/-! ## Memory: the canonical form -/

theorem Mem.wf_iff (m : Mem) : m.wf = true ↔ risingFrom 0 m = true ∧ ∀ c ∈ m, c.2 ≠ Mem.unlisted := by
  simp [Mem.wf]

theorem Mem.wf_rising {m : Mem} (h : m.wf = true) : risingFrom 0 m = true := (m.wf_iff.1 h).1

@[simp] theorem Mem.wf_nil : Mem.wf [] = true := rfl

/-- A write keeps the canonical form. -/
theorem Mem.wf_write {m : Mem} (h : m.wf = true) (a : Nat) (b : Byte) : (m.write a b).wf = true := by
  rw [Mem.wf_iff] at h ⊢
  unfold Mem.write
  split
  · exact ⟨risingFrom_fdel h.1, fun c hc => h.2 c (mem_fdel hc)⟩
  · next hb =>
    refine ⟨risingFrom_fset _ h.1 (Nat.zero_le _), fun c hc => ?_⟩
    rcases mem_fset hc with rfl | hc
    · exact hb
    · exact h.2 c hc

theorem Mem.wf_store {m : Mem} (h : m.wf = true) (a : Nat) (l : List Byte) : (m.store a l).wf = true := by
  induction l generalizing m a with
  | nil => exact h
  | cons b t ih => exact ih (Mem.wf_write h a b) (a + 1)

theorem Mem.wf_apply {m : Mem} (h : m.wf = true) (w : FMap Byte) : (m.apply w).wf = true := by
  induction w generalizing m with
  | nil => exact h
  | cons c t ih => exact ih (Mem.wf_write h c.1 c.2)

theorem Mem.wf_filter {m : Mem} (h : m.wf = true) (p : Host.Cell → Bool) : Mem.wf (m.filter p) = true := by
  rw [Mem.wf_iff] at h ⊢
  exact ⟨risingFrom_filter p h.1, fun c hc => h.2 c (List.mem_filter.1 hc).1⟩

/-! ## Memory: reading after writing -/

theorem Mem.read_write_same {m : Mem} (h : m.wf = true) (a : Nat) (b : Byte) : (m.write a b).read a = b := by
  unfold Mem.write Mem.read
  split
  · next hb => rw [fget_fdel_same _ (Mem.wf_rising h), hb]
  · simp

theorem Mem.read_write_ne (m : Mem) {a x : Nat} (b : Byte) (h : x ≠ a) : (m.write a b).read x = m.read x := by
  unfold Mem.write Mem.read
  split
  · exact fget_fdel_ne m _ h
  · exact fget_fset_ne m _ _ h

/-- A store leaves every byte outside its own alone. -/
theorem Mem.read_store_out (m : Mem) (a : Nat) (l : List Byte) {x : Nat} (h : x < a ∨ a + l.length ≤ x) :
    (m.store a l).read x = m.read x := by
  induction l generalizing m a with
  | nil => rfl
  | cons b t ih =>
    simp only [Mem.store, List.length_cons] at *
    rw [ih _ _ (by omega), Mem.read_write_ne m b (by omega)]

/-- A store is read back, byte by byte. -/
theorem Mem.read_store_in {m : Mem} (h : m.wf = true) (a : Nat) (l : List Byte) {i : Nat} (hi : i < l.length) :
    (m.store a l).read (a + i) = l[i] := by
  induction l generalizing m a i with
  | nil => simp at hi
  | cons b t ih =>
    simp only [Mem.store]
    cases i with
    | zero =>
      rw [Mem.read_store_out _ _ _ (by omega)]; exact Mem.read_write_same h a b
    | succ j =>
      have := ih (Mem.wf_write h a b) (a + 1) (i := j) (by simpa using hi)
      rw [show a + (j + 1) = a + 1 + j by omega, this]; rfl

@[simp] theorem Mem.bytes_length (m : Mem) (a n : Nat) : (m.bytes a n).length = n := by
  induction n generalizing a with
  | zero => rfl
  | succ k ih => simp [Mem.bytes, ih]

theorem Mem.bytes_congr {m m' : Mem} {a n : Nat} (h : ∀ i < n, m.read (a + i) = m'.read (a + i)) :
    m.bytes a n = m'.bytes a n := by
  induction n generalizing a with
  | zero => rfl
  | succ k ih =>
    simp only [Mem.bytes]
    rw [ih fun i hi => by rw [show a + 1 + i = a + (i + 1) by omega]; exact h (i + 1) (by omega)]
    rw [show m.read a = m'.read a from h 0 (by omega)]

/-- Bytes stored are read back (R2). -/
theorem Mem.bytes_store {m : Mem} (h : m.wf = true) (a : Nat) (l : List Byte) : (m.store a l).bytes a l.length = l := by
  induction l generalizing m a with
  | nil => rfl
  | cons b t ih =>
    simp only [Mem.store, List.length_cons, Mem.bytes]
    rw [ih (Mem.wf_write h a b), Mem.read_store_out _ _ _ (by omega), Mem.read_write_same h]

/-! ## Ranges and byte order -/

@[simp] theorem upto_length (lo n : Nat) : (upto lo n).length = n := by
  induction n generalizing lo with
  | zero => rfl
  | succ k ih => simp [upto, ih]

@[simp] theorem mem_upto {lo n x : Nat} : x ∈ upto lo n ↔ lo ≤ x ∧ x < lo + n := by
  induction n generalizing lo with
  | zero => simp [upto]
  | succ k ih => simp [upto, ih]; omega

theorem getElem?_upto {lo n i : Nat} : (upto lo n)[i]? = if i < n then some (lo + i) else none := by
  induction n generalizing lo i with
  | zero => simp [upto]
  | succ k ih =>
    cases i with
    | zero => simp [upto]
    | succ j => simp [upto, ih, show lo + 1 + j = lo + (j + 1) by omega]

@[simp] theorem leBytes_length (n x : Nat) : (leBytes n x).length = n := by
  induction n generalizing x with
  | zero => rfl
  | succ k ih => simp [leBytes, ih]

/-- Little-endian bytes read back as the number they came from (R2). -/
theorem leNat_leBytes (n x : Nat) : leNat (leBytes n x) = x % 256 ^ n := by
  induction n generalizing x with
  | zero => simp [leBytes, leNat, Nat.mod_one]
  | succ k ih =>
    simp only [leBytes, leNat, ih, BitVec.toNat_ofNat]
    rw [show (256 : Nat) ^ (k + 1) = 256 * 256 ^ k by rw [Nat.pow_succ, Nat.mul_comm], Nat.mod_mul]

theorem leWord_leBytes (x : Word) : leWord (leBytes 8 x.toNat) = x := by
  unfold leWord
  rw [leNat_leBytes]
  apply BitVec.eq_of_toNat_eq
  have := x.isLt
  simp; omega

end Sys2Proof.Machine
end

