-- ==== Sys2Proof/Laws/State.lean ====
section
/-! SUPPORT. One lemma per field per update of the state, each true by unfolding, so that no proof opens a record
update. -/

namespace Sys2Proof.Machine

variable (s : State)

/-! ## State.setCore -/

@[simp] theorem State.setCore_cur (l : Nat) (c : Core) : (s.setCore l c).cur = s.cur := rfl
@[simp] theorem State.setCore_agenda (l : Nat) (c : Core) : (s.setCore l c).agenda = s.agenda := rfl
@[simp] theorem State.setCore_draws (l : Nat) (c : Core) : (s.setCore l c).draws = s.draws := rfl
@[simp] theorem State.setCore_time (l : Nat) (c : Core) : (s.setCore l c).time = s.time := rfl
@[simp] theorem State.setCore_mem (l : Nat) (c : Core) : (s.setCore l c).mem = s.mem := rfl
@[simp] theorem State.setCore_poison (l : Nat) (c : Core) : (s.setCore l c).poison = s.poison := rfl
@[simp] theorem State.setCore_tags (l : Nat) (c : Core) : (s.setCore l c).tags = s.tags := rfl
@[simp] theorem State.setCore_clusters (l : Nat) (c : Core) : (s.setCore l c).clusters = s.clusters := rfl
@[simp] theorem State.setCore_dies (l : Nat) (c : Core) : (s.setCore l c).dies = s.dies := rfl
@[simp] theorem State.setCore_solo (l : Nat) (c : Core) : (s.setCore l c).solo = s.solo := rfl
@[simp] theorem State.setCore_lu (l : Nat) (c : Core) : (s.setCore l c).lu = s.lu := rfl
@[simp] theorem State.setCore_eng (l : Nat) (c : Core) : (s.setCore l c).eng = s.eng := rfl
@[simp] theorem State.setCore_net (l : Nat) (c : Core) : (s.setCore l c).net = s.net := rfl
@[simp] theorem State.setCore_dbg (l : Nat) (c : Core) : (s.setCore l c).dbg = s.dbg := rfl
@[simp] theorem State.setCore_boot (l : Nat) (c : Core) : (s.setCore l c).boot = s.boot := rfl

/-! ## State.setCluster -/

@[simp] theorem State.setCluster_cur (n : Nat) (c : Cluster) : (s.setCluster n c).cur = s.cur := rfl
@[simp] theorem State.setCluster_agenda (n : Nat) (c : Cluster) : (s.setCluster n c).agenda = s.agenda := rfl
@[simp] theorem State.setCluster_draws (n : Nat) (c : Cluster) : (s.setCluster n c).draws = s.draws := rfl
@[simp] theorem State.setCluster_time (n : Nat) (c : Cluster) : (s.setCluster n c).time = s.time := rfl
@[simp] theorem State.setCluster_mem (n : Nat) (c : Cluster) : (s.setCluster n c).mem = s.mem := rfl
@[simp] theorem State.setCluster_poison (n : Nat) (c : Cluster) : (s.setCluster n c).poison = s.poison := rfl
@[simp] theorem State.setCluster_tags (n : Nat) (c : Cluster) : (s.setCluster n c).tags = s.tags := rfl
@[simp] theorem State.setCluster_cores (n : Nat) (c : Cluster) : (s.setCluster n c).cores = s.cores := rfl
@[simp] theorem State.setCluster_dies (n : Nat) (c : Cluster) : (s.setCluster n c).dies = s.dies := rfl
@[simp] theorem State.setCluster_solo (n : Nat) (c : Cluster) : (s.setCluster n c).solo = s.solo := rfl
@[simp] theorem State.setCluster_lu (n : Nat) (c : Cluster) : (s.setCluster n c).lu = s.lu := rfl
@[simp] theorem State.setCluster_eng (n : Nat) (c : Cluster) : (s.setCluster n c).eng = s.eng := rfl
@[simp] theorem State.setCluster_net (n : Nat) (c : Cluster) : (s.setCluster n c).net = s.net := rfl
@[simp] theorem State.setCluster_dbg (n : Nat) (c : Cluster) : (s.setCluster n c).dbg = s.dbg := rfl
@[simp] theorem State.setCluster_boot (n : Nat) (c : Cluster) : (s.setCluster n c).boot = s.boot := rfl

/-! ## State.setDie -/

@[simp] theorem State.setDie_cur (d : Nat) (x : Die) : (s.setDie d x).cur = s.cur := rfl
@[simp] theorem State.setDie_agenda (d : Nat) (x : Die) : (s.setDie d x).agenda = s.agenda := rfl
@[simp] theorem State.setDie_draws (d : Nat) (x : Die) : (s.setDie d x).draws = s.draws := rfl
@[simp] theorem State.setDie_time (d : Nat) (x : Die) : (s.setDie d x).time = s.time := rfl
@[simp] theorem State.setDie_mem (d : Nat) (x : Die) : (s.setDie d x).mem = s.mem := rfl
@[simp] theorem State.setDie_poison (d : Nat) (x : Die) : (s.setDie d x).poison = s.poison := rfl
@[simp] theorem State.setDie_tags (d : Nat) (x : Die) : (s.setDie d x).tags = s.tags := rfl
@[simp] theorem State.setDie_cores (d : Nat) (x : Die) : (s.setDie d x).cores = s.cores := rfl
@[simp] theorem State.setDie_clusters (d : Nat) (x : Die) : (s.setDie d x).clusters = s.clusters := rfl
@[simp] theorem State.setDie_solo (d : Nat) (x : Die) : (s.setDie d x).solo = s.solo := rfl
@[simp] theorem State.setDie_lu (d : Nat) (x : Die) : (s.setDie d x).lu = s.lu := rfl
@[simp] theorem State.setDie_eng (d : Nat) (x : Die) : (s.setDie d x).eng = s.eng := rfl
@[simp] theorem State.setDie_net (d : Nat) (x : Die) : (s.setDie d x).net = s.net := rfl
@[simp] theorem State.setDie_dbg (d : Nat) (x : Die) : (s.setDie d x).dbg = s.dbg := rfl
@[simp] theorem State.setDie_boot (d : Nat) (x : Die) : (s.setDie d x).boot = s.boot := rfl

/-! ## State.setLaunch -/

@[simp] theorem State.setLaunch_cur (lid : Nat) (x : Launch) : (s.setLaunch lid x).cur = s.cur := rfl
@[simp] theorem State.setLaunch_agenda (lid : Nat) (x : Launch) : (s.setLaunch lid x).agenda = s.agenda := rfl
@[simp] theorem State.setLaunch_draws (lid : Nat) (x : Launch) : (s.setLaunch lid x).draws = s.draws := rfl
@[simp] theorem State.setLaunch_time (lid : Nat) (x : Launch) : (s.setLaunch lid x).time = s.time := rfl
@[simp] theorem State.setLaunch_mem (lid : Nat) (x : Launch) : (s.setLaunch lid x).mem = s.mem := rfl
@[simp] theorem State.setLaunch_poison (lid : Nat) (x : Launch) : (s.setLaunch lid x).poison = s.poison := rfl
@[simp] theorem State.setLaunch_tags (lid : Nat) (x : Launch) : (s.setLaunch lid x).tags = s.tags := rfl
@[simp] theorem State.setLaunch_cores (lid : Nat) (x : Launch) : (s.setLaunch lid x).cores = s.cores := rfl
@[simp] theorem State.setLaunch_clusters (lid : Nat) (x : Launch) : (s.setLaunch lid x).clusters = s.clusters := rfl
@[simp] theorem State.setLaunch_dies (lid : Nat) (x : Launch) : (s.setLaunch lid x).dies = s.dies := rfl
@[simp] theorem State.setLaunch_solo (lid : Nat) (x : Launch) : (s.setLaunch lid x).solo = s.solo := rfl
@[simp] theorem State.setLaunch_eng (lid : Nat) (x : Launch) : (s.setLaunch lid x).eng = s.eng := rfl
@[simp] theorem State.setLaunch_net (lid : Nat) (x : Launch) : (s.setLaunch lid x).net = s.net := rfl
@[simp] theorem State.setLaunch_dbg (lid : Nat) (x : Launch) : (s.setLaunch lid x).dbg = s.dbg := rfl
@[simp] theorem State.setLaunch_boot (lid : Nat) (x : Launch) : (s.setLaunch lid x).boot = s.boot := rfl

/-! ## State.setStrand -/

@[simp] theorem State.setStrand_cur (c : Sid) (st : Strand) : (s.setStrand c st).cur = s.cur := rfl
@[simp] theorem State.setStrand_agenda (c : Sid) (st : Strand) : (s.setStrand c st).agenda = s.agenda := rfl
@[simp] theorem State.setStrand_draws (c : Sid) (st : Strand) : (s.setStrand c st).draws = s.draws := rfl
@[simp] theorem State.setStrand_time (c : Sid) (st : Strand) : (s.setStrand c st).time = s.time := rfl
@[simp] theorem State.setStrand_mem (c : Sid) (st : Strand) : (s.setStrand c st).mem = s.mem := rfl
@[simp] theorem State.setStrand_poison (c : Sid) (st : Strand) : (s.setStrand c st).poison = s.poison := rfl
@[simp] theorem State.setStrand_tags (c : Sid) (st : Strand) : (s.setStrand c st).tags = s.tags := rfl
@[simp] theorem State.setStrand_clusters (c : Sid) (st : Strand) : (s.setStrand c st).clusters = s.clusters := rfl
@[simp] theorem State.setStrand_dies (c : Sid) (st : Strand) : (s.setStrand c st).dies = s.dies := rfl
@[simp] theorem State.setStrand_solo (c : Sid) (st : Strand) : (s.setStrand c st).solo = s.solo := rfl
@[simp] theorem State.setStrand_lu (c : Sid) (st : Strand) : (s.setStrand c st).lu = s.lu := rfl
@[simp] theorem State.setStrand_eng (c : Sid) (st : Strand) : (s.setStrand c st).eng = s.eng := rfl
@[simp] theorem State.setStrand_net (c : Sid) (st : Strand) : (s.setStrand c st).net = s.net := rfl
@[simp] theorem State.setStrand_dbg (c : Sid) (st : Strand) : (s.setStrand c st).dbg = s.dbg := rfl
@[simp] theorem State.setStrand_boot (c : Sid) (st : Strand) : (s.setStrand c st).boot = s.boot := rfl

/-! ## State.setMe -/

@[simp] theorem State.setMe_cur (st : Strand) : (s.setMe st).cur = s.cur := rfl
@[simp] theorem State.setMe_agenda (st : Strand) : (s.setMe st).agenda = s.agenda := rfl
@[simp] theorem State.setMe_draws (st : Strand) : (s.setMe st).draws = s.draws := rfl
@[simp] theorem State.setMe_time (st : Strand) : (s.setMe st).time = s.time := rfl
@[simp] theorem State.setMe_mem (st : Strand) : (s.setMe st).mem = s.mem := rfl
@[simp] theorem State.setMe_poison (st : Strand) : (s.setMe st).poison = s.poison := rfl
@[simp] theorem State.setMe_tags (st : Strand) : (s.setMe st).tags = s.tags := rfl
@[simp] theorem State.setMe_clusters (st : Strand) : (s.setMe st).clusters = s.clusters := rfl
@[simp] theorem State.setMe_dies (st : Strand) : (s.setMe st).dies = s.dies := rfl
@[simp] theorem State.setMe_solo (st : Strand) : (s.setMe st).solo = s.solo := rfl
@[simp] theorem State.setMe_lu (st : Strand) : (s.setMe st).lu = s.lu := rfl
@[simp] theorem State.setMe_eng (st : Strand) : (s.setMe st).eng = s.eng := rfl
@[simp] theorem State.setMe_net (st : Strand) : (s.setMe st).net = s.net := rfl
@[simp] theorem State.setMe_dbg (st : Strand) : (s.setMe st).dbg = s.dbg := rfl
@[simp] theorem State.setMe_boot (st : Strand) : (s.setMe st).boot = s.boot := rfl

/-! ## State.setArch -/

@[simp] theorem State.setArch_cur (a : Arch) : (s.setArch a).cur = s.cur := rfl
@[simp] theorem State.setArch_agenda (a : Arch) : (s.setArch a).agenda = s.agenda := rfl
@[simp] theorem State.setArch_draws (a : Arch) : (s.setArch a).draws = s.draws := rfl
@[simp] theorem State.setArch_time (a : Arch) : (s.setArch a).time = s.time := rfl
@[simp] theorem State.setArch_mem (a : Arch) : (s.setArch a).mem = s.mem := rfl
@[simp] theorem State.setArch_poison (a : Arch) : (s.setArch a).poison = s.poison := rfl
@[simp] theorem State.setArch_tags (a : Arch) : (s.setArch a).tags = s.tags := rfl
@[simp] theorem State.setArch_clusters (a : Arch) : (s.setArch a).clusters = s.clusters := rfl
@[simp] theorem State.setArch_dies (a : Arch) : (s.setArch a).dies = s.dies := rfl
@[simp] theorem State.setArch_solo (a : Arch) : (s.setArch a).solo = s.solo := rfl
@[simp] theorem State.setArch_lu (a : Arch) : (s.setArch a).lu = s.lu := rfl
@[simp] theorem State.setArch_eng (a : Arch) : (s.setArch a).eng = s.eng := rfl
@[simp] theorem State.setArch_net (a : Arch) : (s.setArch a).net = s.net := rfl
@[simp] theorem State.setArch_dbg (a : Arch) : (s.setArch a).dbg = s.dbg := rfl
@[simp] theorem State.setArch_boot (a : Arch) : (s.setArch a).boot = s.boot := rfl

/-! ## State.setChunk -/

@[simp] theorem State.setChunk_cur (c : Sid) (ch : Chunk) : (s.setChunk c ch).cur = s.cur := rfl
@[simp] theorem State.setChunk_agenda (c : Sid) (ch : Chunk) : (s.setChunk c ch).agenda = s.agenda := rfl
@[simp] theorem State.setChunk_draws (c : Sid) (ch : Chunk) : (s.setChunk c ch).draws = s.draws := rfl
@[simp] theorem State.setChunk_time (c : Sid) (ch : Chunk) : (s.setChunk c ch).time = s.time := rfl
@[simp] theorem State.setChunk_mem (c : Sid) (ch : Chunk) : (s.setChunk c ch).mem = s.mem := rfl
@[simp] theorem State.setChunk_poison (c : Sid) (ch : Chunk) : (s.setChunk c ch).poison = s.poison := rfl
@[simp] theorem State.setChunk_tags (c : Sid) (ch : Chunk) : (s.setChunk c ch).tags = s.tags := rfl
@[simp] theorem State.setChunk_clusters (c : Sid) (ch : Chunk) : (s.setChunk c ch).clusters = s.clusters := rfl
@[simp] theorem State.setChunk_dies (c : Sid) (ch : Chunk) : (s.setChunk c ch).dies = s.dies := rfl
@[simp] theorem State.setChunk_solo (c : Sid) (ch : Chunk) : (s.setChunk c ch).solo = s.solo := rfl
@[simp] theorem State.setChunk_lu (c : Sid) (ch : Chunk) : (s.setChunk c ch).lu = s.lu := rfl
@[simp] theorem State.setChunk_eng (c : Sid) (ch : Chunk) : (s.setChunk c ch).eng = s.eng := rfl
@[simp] theorem State.setChunk_net (c : Sid) (ch : Chunk) : (s.setChunk c ch).net = s.net := rfl
@[simp] theorem State.setChunk_dbg (c : Sid) (ch : Chunk) : (s.setChunk c ch).dbg = s.dbg := rfl
@[simp] theorem State.setChunk_boot (c : Sid) (ch : Chunk) : (s.setChunk c ch).boot = s.boot := rfl

/-! ## State.setCh -/

@[simp] theorem State.setCh_cur (ch : Chunk) : (s.setCh ch).cur = s.cur := rfl
@[simp] theorem State.setCh_agenda (ch : Chunk) : (s.setCh ch).agenda = s.agenda := rfl
@[simp] theorem State.setCh_draws (ch : Chunk) : (s.setCh ch).draws = s.draws := rfl
@[simp] theorem State.setCh_time (ch : Chunk) : (s.setCh ch).time = s.time := rfl
@[simp] theorem State.setCh_mem (ch : Chunk) : (s.setCh ch).mem = s.mem := rfl
@[simp] theorem State.setCh_poison (ch : Chunk) : (s.setCh ch).poison = s.poison := rfl
@[simp] theorem State.setCh_tags (ch : Chunk) : (s.setCh ch).tags = s.tags := rfl
@[simp] theorem State.setCh_clusters (ch : Chunk) : (s.setCh ch).clusters = s.clusters := rfl
@[simp] theorem State.setCh_dies (ch : Chunk) : (s.setCh ch).dies = s.dies := rfl
@[simp] theorem State.setCh_solo (ch : Chunk) : (s.setCh ch).solo = s.solo := rfl
@[simp] theorem State.setCh_lu (ch : Chunk) : (s.setCh ch).lu = s.lu := rfl
@[simp] theorem State.setCh_eng (ch : Chunk) : (s.setCh ch).eng = s.eng := rfl
@[simp] theorem State.setCh_net (ch : Chunk) : (s.setCh ch).net = s.net := rfl
@[simp] theorem State.setCh_dbg (ch : Chunk) : (s.setCh ch).dbg = s.dbg := rfl
@[simp] theorem State.setCh_boot (ch : Chunk) : (s.setCh ch).boot = s.boot := rfl

/-! ## State.setGroup -/

@[simp] theorem State.setGroup_cur (g : Nat) (x : Group) : (s.setGroup g x).cur = s.cur := rfl
@[simp] theorem State.setGroup_agenda (g : Nat) (x : Group) : (s.setGroup g x).agenda = s.agenda := rfl
@[simp] theorem State.setGroup_draws (g : Nat) (x : Group) : (s.setGroup g x).draws = s.draws := rfl
@[simp] theorem State.setGroup_time (g : Nat) (x : Group) : (s.setGroup g x).time = s.time := rfl
@[simp] theorem State.setGroup_mem (g : Nat) (x : Group) : (s.setGroup g x).mem = s.mem := rfl
@[simp] theorem State.setGroup_poison (g : Nat) (x : Group) : (s.setGroup g x).poison = s.poison := rfl
@[simp] theorem State.setGroup_tags (g : Nat) (x : Group) : (s.setGroup g x).tags = s.tags := rfl
@[simp] theorem State.setGroup_cores (g : Nat) (x : Group) : (s.setGroup g x).cores = s.cores := rfl
@[simp] theorem State.setGroup_clusters (g : Nat) (x : Group) : (s.setGroup g x).clusters = s.clusters := rfl
@[simp] theorem State.setGroup_dies (g : Nat) (x : Group) : (s.setGroup g x).dies = s.dies := rfl
@[simp] theorem State.setGroup_solo (g : Nat) (x : Group) : (s.setGroup g x).solo = s.solo := rfl
@[simp] theorem State.setGroup_lu (g : Nat) (x : Group) : (s.setGroup g x).lu = s.lu := rfl
@[simp] theorem State.setGroup_eng (g : Nat) (x : Group) : (s.setGroup g x).eng = s.eng := rfl
@[simp] theorem State.setGroup_dbg (g : Nat) (x : Group) : (s.setGroup g x).dbg = s.dbg := rfl
@[simp] theorem State.setGroup_boot (g : Nat) (x : Group) : (s.setGroup g x).boot = s.boot := rfl

/-! ## State.setPort -/

@[simp] theorem State.setPort_cur (n : Nat) (p : Port) : (s.setPort n p).cur = s.cur := rfl
@[simp] theorem State.setPort_agenda (n : Nat) (p : Port) : (s.setPort n p).agenda = s.agenda := rfl
@[simp] theorem State.setPort_draws (n : Nat) (p : Port) : (s.setPort n p).draws = s.draws := rfl
@[simp] theorem State.setPort_time (n : Nat) (p : Port) : (s.setPort n p).time = s.time := rfl
@[simp] theorem State.setPort_mem (n : Nat) (p : Port) : (s.setPort n p).mem = s.mem := rfl
@[simp] theorem State.setPort_poison (n : Nat) (p : Port) : (s.setPort n p).poison = s.poison := rfl
@[simp] theorem State.setPort_tags (n : Nat) (p : Port) : (s.setPort n p).tags = s.tags := rfl
@[simp] theorem State.setPort_cores (n : Nat) (p : Port) : (s.setPort n p).cores = s.cores := rfl
@[simp] theorem State.setPort_clusters (n : Nat) (p : Port) : (s.setPort n p).clusters = s.clusters := rfl
@[simp] theorem State.setPort_dies (n : Nat) (p : Port) : (s.setPort n p).dies = s.dies := rfl
@[simp] theorem State.setPort_solo (n : Nat) (p : Port) : (s.setPort n p).solo = s.solo := rfl
@[simp] theorem State.setPort_lu (n : Nat) (p : Port) : (s.setPort n p).lu = s.lu := rfl
@[simp] theorem State.setPort_eng (n : Nat) (p : Port) : (s.setPort n p).eng = s.eng := rfl
@[simp] theorem State.setPort_dbg (n : Nat) (p : Port) : (s.setPort n p).dbg = s.dbg := rfl
@[simp] theorem State.setPort_boot (n : Nat) (p : Port) : (s.setPort n p).boot = s.boot := rfl

/-! ## openFor -/

@[simp] theorem openFor_cur (c : Sid) : (openFor s c).cur = s.cur := rfl
@[simp] theorem openFor_agenda (c : Sid) : (openFor s c).agenda = s.agenda := rfl
@[simp] theorem openFor_draws (c : Sid) : (openFor s c).draws = s.draws := rfl
@[simp] theorem openFor_time (c : Sid) : (openFor s c).time = s.time := rfl
@[simp] theorem openFor_mem (c : Sid) : (openFor s c).mem = s.mem := rfl
@[simp] theorem openFor_poison (c : Sid) : (openFor s c).poison = s.poison := rfl
@[simp] theorem openFor_tags (c : Sid) : (openFor s c).tags = s.tags := rfl
@[simp] theorem openFor_clusters (c : Sid) : (openFor s c).clusters = s.clusters := rfl
@[simp] theorem openFor_dies (c : Sid) : (openFor s c).dies = s.dies := rfl
@[simp] theorem openFor_solo (c : Sid) : (openFor s c).solo = s.solo := rfl
@[simp] theorem openFor_lu (c : Sid) : (openFor s c).lu = s.lu := rfl
@[simp] theorem openFor_eng (c : Sid) : (openFor s c).eng = s.eng := rfl
@[simp] theorem openFor_net (c : Sid) : (openFor s c).net = s.net := rfl
@[simp] theorem openFor_dbg (c : Sid) : (openFor s c).dbg = s.dbg := rfl
@[simp] theorem openFor_boot (c : Sid) : (openFor s c).boot = s.boot := rfl

/-! ## wg -/

@[simp] theorem wg_cur (r : Reg) (x : Word) : (wg s r x).cur = s.cur := rfl
@[simp] theorem wg_agenda (r : Reg) (x : Word) : (wg s r x).agenda = s.agenda := rfl
@[simp] theorem wg_draws (r : Reg) (x : Word) : (wg s r x).draws = s.draws := rfl
@[simp] theorem wg_time (r : Reg) (x : Word) : (wg s r x).time = s.time := rfl
@[simp] theorem wg_mem (r : Reg) (x : Word) : (wg s r x).mem = s.mem := rfl
@[simp] theorem wg_poison (r : Reg) (x : Word) : (wg s r x).poison = s.poison := rfl
@[simp] theorem wg_tags (r : Reg) (x : Word) : (wg s r x).tags = s.tags := rfl
@[simp] theorem wg_clusters (r : Reg) (x : Word) : (wg s r x).clusters = s.clusters := rfl
@[simp] theorem wg_dies (r : Reg) (x : Word) : (wg s r x).dies = s.dies := rfl
@[simp] theorem wg_solo (r : Reg) (x : Word) : (wg s r x).solo = s.solo := rfl
@[simp] theorem wg_lu (r : Reg) (x : Word) : (wg s r x).lu = s.lu := rfl
@[simp] theorem wg_eng (r : Reg) (x : Word) : (wg s r x).eng = s.eng := rfl
@[simp] theorem wg_net (r : Reg) (x : Word) : (wg s r x).net = s.net := rfl
@[simp] theorem wg_dbg (r : Reg) (x : Word) : (wg s r x).dbg = s.dbg := rfl
@[simp] theorem wg_boot (r : Reg) (x : Word) : (wg s r x).boot = s.boot := rfl

/-! ## wv -/

@[simp] theorem wv_cur (r : Reg) (x : V512) : (wv s r x).cur = s.cur := rfl
@[simp] theorem wv_agenda (r : Reg) (x : V512) : (wv s r x).agenda = s.agenda := rfl
@[simp] theorem wv_draws (r : Reg) (x : V512) : (wv s r x).draws = s.draws := rfl
@[simp] theorem wv_time (r : Reg) (x : V512) : (wv s r x).time = s.time := rfl
@[simp] theorem wv_mem (r : Reg) (x : V512) : (wv s r x).mem = s.mem := rfl
@[simp] theorem wv_poison (r : Reg) (x : V512) : (wv s r x).poison = s.poison := rfl
@[simp] theorem wv_tags (r : Reg) (x : V512) : (wv s r x).tags = s.tags := rfl
@[simp] theorem wv_clusters (r : Reg) (x : V512) : (wv s r x).clusters = s.clusters := rfl
@[simp] theorem wv_dies (r : Reg) (x : V512) : (wv s r x).dies = s.dies := rfl
@[simp] theorem wv_solo (r : Reg) (x : V512) : (wv s r x).solo = s.solo := rfl
@[simp] theorem wv_lu (r : Reg) (x : V512) : (wv s r x).lu = s.lu := rfl
@[simp] theorem wv_eng (r : Reg) (x : V512) : (wv s r x).eng = s.eng := rfl
@[simp] theorem wv_net (r : Reg) (x : V512) : (wv s r x).net = s.net := rfl
@[simp] theorem wv_dbg (r : Reg) (x : V512) : (wv s r x).dbg = s.dbg := rfl
@[simp] theorem wv_boot (r : Reg) (x : V512) : (wv s r x).boot = s.boot := rfl

/-! ## release -/

@[simp] theorem release_cur (r : Rel) : (release s r).cur = s.cur := rfl
@[simp] theorem release_agenda (r : Rel) : (release s r).agenda = s.agenda := rfl
@[simp] theorem release_draws (r : Rel) : (release s r).draws = s.draws := rfl
@[simp] theorem release_time (r : Rel) : (release s r).time = s.time := rfl
@[simp] theorem release_mem (r : Rel) : (release s r).mem = s.mem := rfl
@[simp] theorem release_poison (r : Rel) : (release s r).poison = s.poison := rfl
@[simp] theorem release_tags (r : Rel) : (release s r).tags = s.tags := rfl
@[simp] theorem release_clusters (r : Rel) : (release s r).clusters = s.clusters := rfl
@[simp] theorem release_dies (r : Rel) : (release s r).dies = s.dies := rfl
@[simp] theorem release_solo (r : Rel) : (release s r).solo = s.solo := rfl
@[simp] theorem release_lu (r : Rel) : (release s r).lu = s.lu := rfl
@[simp] theorem release_eng (r : Rel) : (release s r).eng = s.eng := rfl
@[simp] theorem release_net (r : Rel) : (release s r).net = s.net := rfl
@[simp] theorem release_dbg (r : Rel) : (release s r).dbg = s.dbg := rfl
@[simp] theorem release_boot (r : Rel) : (release s r).boot = s.boot := rfl

/-! ## begun -/

@[simp] theorem begun_cur : (begun s).cur = s.cur := rfl
@[simp] theorem begun_agenda : (begun s).agenda = s.agenda := rfl
@[simp] theorem begun_time : (begun s).time = s.time := rfl
@[simp] theorem begun_mem : (begun s).mem = s.mem := rfl
@[simp] theorem begun_poison : (begun s).poison = s.poison := rfl
@[simp] theorem begun_tags : (begun s).tags = s.tags := rfl
@[simp] theorem begun_clusters : (begun s).clusters = s.clusters := rfl
@[simp] theorem begun_dies : (begun s).dies = s.dies := rfl
@[simp] theorem begun_solo : (begun s).solo = s.solo := rfl
@[simp] theorem begun_lu : (begun s).lu = s.lu := rfl
@[simp] theorem begun_eng : (begun s).eng = s.eng := rfl
@[simp] theorem begun_net : (begun s).net = s.net := rfl
@[simp] theorem begun_dbg : (begun s).dbg = s.dbg := rfl
@[simp] theorem begun_boot : (begun s).boot = s.boot := rfl
@[simp] theorem begun_draws : (begun s).draws = s.draws + 1 := rfl

end Sys2Proof.Machine
end

