-- ==== Sys2Proof/Laws/Strands.lean ====
section
/-! SUPPORT. Getting at cores, strands, chunks and registers after an update, and running one instruction: what
`runBody` answers from what the body answers. -/

namespace Sys2Proof.Machine

/-! ## Cores and strands -/

theorem State.core_setCore (s : State) (l k : Nat) (c : Core) :
    (s.setCore l c).core k = if k = l then c else s.core k := by
  simp [State.core, State.setCore, fget_fset]

@[simp] theorem State.core_setCore_same (s : State) (l : Nat) (c : Core) : (s.setCore l c).core l = c := by
  simp [State.core_setCore]

theorem State.core_setStrand (s : State) (c : Sid) (st : Strand) (k : Nat) :
    (s.setStrand c st).core k
      = if k = c.core then { s.core c.core with strands := fset (s.core c.core).strands c.strand st } else s.core k := by
  simp [State.setStrand, State.core_setCore]

theorem State.strand_setStrand (s : State) (c d : Sid) (st : Strand) :
    (s.setStrand c st).strand d = if d = c then st else s.strand d := by
  obtain ⟨cc, ck⟩ := c
  obtain ⟨dc, dk⟩ := d
  simp only [State.strand, State.core_setStrand, Sid.mk.injEq]
  by_cases h : dc = cc
  · subst h; simp [fget_fset]
  · simp [h]

@[simp] theorem State.strand_setStrand_same (s : State) (c : Sid) (st : Strand) : (s.setStrand c st).strand c = st := by
  simp [State.strand_setStrand]

theorem State.strand_setStrand_ne (s : State) {c d : Sid} (st : Strand) (h : d ≠ c) :
    (s.setStrand c st).strand d = s.strand d := by
  simp [State.strand_setStrand, h]

/-- A strand is not changed by an update of its core that leaves the core's strands alone. -/
theorem State.strand_setCore (s : State) (l : Nat) (c : Core) (h : c.strands = (s.core l).strands) (d : Sid) :
    (s.setCore l c).strand d = s.strand d := by
  simp only [State.strand, State.core_setCore]
  split
  · next hd => rw [hd, h]
  · rfl

@[simp] theorem State.strand_setCluster (s : State) (n : Nat) (c : Cluster) (d : Sid) :
    (s.setCluster n c).strand d = s.strand d := rfl

@[simp] theorem State.strand_setDie (s : State) (n : Nat) (x : Die) (d : Sid) : (s.setDie n x).strand d = s.strand d := rfl

@[simp] theorem State.strand_setLaunch (s : State) (lid : Nat) (x : Launch) (d : Sid) : (s.setLaunch lid x).strand d = s.strand d := rfl

@[simp] theorem State.me_setMe (s : State) (st : Strand) : (s.setMe st).me = st := by
  simp [State.me, State.setMe]

@[simp] theorem State.arch_setArch (s : State) (a : Arch) : (s.setArch a).arch = a := by
  simp [State.arch, State.setArch]

@[simp] theorem State.me_setArch (s : State) (a : Arch) : (s.setArch a).me = { s.me with arch := a } := by
  simp [State.setArch]

@[simp] theorem State.me_setCh (s : State) (ch : Chunk) : (s.setCh ch).me = { s.me with opened := some ch } := by
  simp [State.me, State.setCh, State.setChunk]

@[simp] theorem State.arch_setCh (s : State) (ch : Chunk) : (s.setCh ch).arch = s.arch := by
  simp [State.arch]

@[simp] theorem State.chunk_setCh (s : State) (ch : Chunk) : (s.setCh ch).chunk = ch := by
  simp [State.chunk, State.setCh, State.setChunk, chunkOf]

/-- Registers do not concern a chunk that is open. -/
theorem State.chunk_setArch (s : State) (a : Arch) (h : s.me.opened.isSome = true) : (s.setArch a).chunk = s.chunk := by
  obtain ⟨ch, hc⟩ := Option.isSome_iff_exists.1 h
  have h1 : (s.strand s.cur).opened = some ch := hc
  simp [State.chunk, State.setArch, State.setMe, chunkOf, State.me, h1]

/-! ## The state in which a body works -/

theorem begun_strand (s : State) (d : Sid) :
    (begun s).strand d = if d = s.cur then { s.me with opened := some (chunkOf s s.cur), blocked := none } else s.strand d := by
  show (openFor s s.cur).strand d = _
  simp [openFor, State.strand_setStrand, State.me]

@[simp] theorem begun_me (s : State) : (begun s).me = { s.me with opened := some (chunkOf s s.cur), blocked := none } := by
  simp [State.me, begun_strand]

@[simp] theorem begun_arch (s : State) : (begun s).arch = s.arch := by
  simp [State.arch]

@[simp] theorem begun_chunk (s : State) : (begun s).chunk = chunkOf s s.cur := by
  simp [State.chunk, chunkOf, begun_strand]

theorem begun_core (s : State) (l : Nat) (h : l ≠ s.cur.core) : (begun s).core l = s.core l := by
  show (openFor s s.cur).core l = _
  simp [openFor, State.core_setStrand, h]

theorem begun_core_cur (s : State) :
    (begun s).core s.cur.core
      = { s.core s.cur.core with
          strands := fset (s.core s.cur.core).strands s.cur.strand { s.me with opened := some (chunkOf s s.cur), blocked := none } } := by
  show (openFor s s.cur).core s.cur.core = _
  simp [openFor, State.core_setStrand, State.me]

@[simp] theorem pfxOf_begun (s : State) : pfxOf (begun s) = ((chunkOf s s.cur).pfx.getD ⟨0, false, 0, false, 0⟩) := by
  simp [pfxOf]

/-! ## Reading registers -/

theorem rg_ok {s : State} {r : Reg} (h : Readable s r) : rg s r = .ok (s.arch.rg r) := by
  unfold rg
  rcases h with rfl | h
  · simp
  · simp [h]

theorem rv_ok {s : State} {r : Reg} (h : VReadable s r) : rv s r = .ok (s.arch.rv r) := by
  unfold rv; simp [show s.arch.poisoned (32 + r.toNat) = false from h]

@[simp] theorem readable_begun (s : State) (r : Reg) : Readable (begun s) r ↔ Readable s r := by
  simp [Readable]

@[simp] theorem vReadable_begun (s : State) (r : Reg) : VReadable (begun s) r ↔ VReadable s r := by
  simp [VReadable]

/-- A poisoned register that an instruction reads raises MCHK (R338). -/
theorem rg_poisoned {s : State} {r : Reg} (h : ¬ Readable s r) : rg s r = raise 0x12 0 (BitVec.ofNat 64 r.toNat) := by
  unfold Readable at h
  have h1 : r ≠ 0 := fun e => h (.inl e)
  have h2 : s.arch.poisoned r.toNat = true := by
    cases hp : s.arch.poisoned r.toNat
    · exact absurd (.inr hp) h
    · rfl
  unfold rg
  rw [h2, if_pos (by simpa [bne_iff_ne] using h1)]

/-! ## General and vector registers -/

@[simp] theorem Arch.rg_zero (a : Arch) : a.rg 0 = 0 := by simp [Arch.rg]

@[simp] theorem Arch.rg_zero' (a : Arch) : a.rg 0#5 = 0 := Arch.rg_zero a

@[simp] theorem Arch.wg_zero (a : Arch) (x : Word) : a.wg 0 x = a := by simp [Arch.wg]

theorem Arch.rg_wg (a : Arch) (r q : Reg) (x : Word) :
    (a.wg r x).rg q = if q = r ∧ r ≠ 0 then x else a.rg q := by
  unfold Arch.wg
  by_cases h : r = 0
  · simp [h]
  · simp only [h, if_false, ne_eq, not_false_eq_true, and_true]
    unfold Arch.rg
    by_cases hq : q = r
    · subst hq; rw [if_neg h, if_pos rfl]; simp
    · have : q.toNat ≠ r.toNat := fun e => hq (BitVec.eq_of_toNat_eq e)
      simp [fget_fset, this, hq]

@[simp] theorem Arch.rv_wg (a : Arch) (r q : Reg) (x : Word) : (a.wg r x).rv q = a.rv q := by
  unfold Arch.wg Arch.rv; split <;> rfl

@[simp] theorem Arch.rg_wv (a : Arch) (r q : Reg) (x : V512) : (a.wv r x).rg q = a.rg q := rfl

theorem Arch.rv_wv (a : Arch) (r q : Reg) (x : V512) : (a.wv r x).rv q = if q = r then x else a.rv q := by
  unfold Arch.wv Arch.rv
  by_cases hq : q = r
  · subst hq; simp
  · have : q.toNat ≠ r.toNat := fun e => hq (BitVec.eq_of_toNat_eq e)
    simp [fget_fset, this, hq]

@[simp] theorem Arch.cr_wg (a : Arch) (r : Reg) (x : Word) : (a.wg r x).cr = a.cr := by unfold Arch.wg; split <;> rfl
@[simp] theorem Arch.eng_wg (a : Arch) (r : Reg) (x : Word) : (a.wg r x).eng = a.eng := by unfold Arch.wg; split <;> rfl
@[simp] theorem Arch.priv_wg (a : Arch) (r : Reg) (x : Word) : (a.wg r x).priv = a.priv := by unfold Arch.wg; split <;> rfl
@[simp] theorem Arch.step_wg (a : Arch) (r : Reg) (x : Word) : (a.wg r x).step = a.step := by unfold Arch.wg; split <;> rfl
@[simp] theorem Arch.pc_wg (a : Arch) (r : Reg) (x : Word) : (a.wg r x).pc = a.pc := by unfold Arch.wg; split <;> rfl
@[simp] theorem Arch.cr_wv (a : Arch) (r : Reg) (x : V512) : (a.wv r x).cr = a.cr := rfl
@[simp] theorem Arch.eng_wv (a : Arch) (r : Reg) (x : V512) : (a.wv r x).eng = a.eng := rfl
@[simp] theorem Arch.priv_wv (a : Arch) (r : Reg) (x : V512) : (a.wv r x).priv = a.priv := rfl
@[simp] theorem Arch.step_wv (a : Arch) (r : Reg) (x : V512) : (a.wv r x).step = a.step := rfl
@[simp] theorem Arch.pc_wv (a : Arch) (r : Reg) (x : V512) : (a.wv r x).pc = a.pc := rfl

theorem wg_me (s : State) (r : Reg) (x : Word) :
    (wg s r x).me = { s.me with
      arch := s.arch.wg r x,
      opened := some { (s.setArch (s.arch.wg r x)).chunk with
        late := voidLate (s.setArch (s.arch.wg r x)).chunk.late [r.toNat] } } := by
  simp [wg]

@[simp] theorem wg_arch (s : State) (r : Reg) (x : Word) : (wg s r x).arch = s.arch.wg r x := by
  simp [wg]

@[simp] theorem wv_arch (s : State) (r : Reg) (x : V512) : (wv s r x).arch = s.arch.wv r x := by
  simp [wv]

/-! ## Running one instruction -/

/-- An instruction whose body completes retires (R11, R45). -/
theorem runBody_ok {s : State} {len : Nat} {body : State → Ex Fx} {x : Fx} (h : Runs s) (hb : body (begun s) = .ok x) :
    runBody s len body = .next (retire x s.cur len) := by
  have hc : chunkOf (begun s) s.cur = chunkOf s s.cur := begun_chunk s
  unfold runBody
  rw [if_neg h.1]
  have h2 : ¬ ((chunkOf s s.cur).held = true ∧ 1024 ≤ (chunkOf s s.cur).retired) := by
    rintro ⟨ha, hb⟩; exact absurd (h.2 ha) (by omega)
  show (if (chunkOf (begun s) s.cur).held = true ∧ 1024 ≤ (chunkOf (begun s) s.cur).retired then _ else _) = _
  rw [hc, if_neg h2]
  show (match body (begun s) with | .ok x => _ | .error e => _) = _
  rw [hb]; rfl

/-- An instruction whose body stops leaves what `stopped` says (R331). -/
theorem runBody_error {s : State} {len : Nat} {body : State → Ex Fx} {e : Stop} (h : Runs s)
    (hb : body (begun s) = .error e) : runBody s len body = .next (stopped (begun s) s.cur e) := by
  have hc : chunkOf (begun s) s.cur = chunkOf s s.cur := begun_chunk s
  unfold runBody
  rw [if_neg h.1]
  have h2 : ¬ ((chunkOf s s.cur).held = true ∧ 1024 ≤ (chunkOf s s.cur).retired) := by
    rintro ⟨ha, hb⟩; exact absurd (h.2 ha) (by omega)
  show (if (chunkOf (begun s) s.cur).held = true ∧ 1024 ≤ (chunkOf (begun s) s.cur).retired then _ else _) = _
  rw [hc, if_neg h2]
  show (match body (begun s) with | .ok x => _ | .error e => _) = _
  rw [hb]; rfl

/-- An instruction of a strand that exists always answers a next state. -/
theorem runBody_next {s : State} (len : Nat) (body : State → Ex Fx) (h : s.me.run ≠ .none) :
    ∃ t, runBody s len body = .next t := by
  unfold runBody
  rw [if_neg h]
  dsimp only
  split
  · exact ⟨_, rfl⟩
  · split <;> exact ⟨_, rfl⟩

/-- Without a strand an instruction faults. -/
theorem runBody_none {s : State} (len : Nat) (body : State → Ex Fx) (h : s.me.run = .none) :
    runBody s len body = .fault .noStrand := by
  unfold runBody; rw [if_pos h]

end Sys2Proof.Machine
end

