-- ==== Sys2Proof/Laws/Retire.lean ====
section
/-! SUPPORT. What retiring an instruction can do: nothing but the strand that retires it, its chunk and a debug
record; what its registers are then. -/

namespace Sys2Proof.Machine

/-- `t` differs from `s` in strand `c`, and else only in the debug unit. -/
structure OnlyStrand (s t : State) (c : Sid) : Prop where
  cur : t.cur = s.cur
  agenda : t.agenda = s.agenda
  draws : t.draws = s.draws
  time : t.time = s.time
  mem : t.mem = s.mem
  poison : t.poison = s.poison
  tags : t.tags = s.tags
  clusters : t.clusters = s.clusters
  dies : t.dies = s.dies
  solo : t.solo = s.solo
  lu : t.lu = s.lu
  eng : t.eng = s.eng
  net : t.net = s.net
  boot : t.boot = s.boot
  core : ∀ l, { t.core l with strands := [] } = { s.core l with strands := [] }
  strand : ∀ d, d ≠ c → t.strand d = s.strand d

theorem OnlyStrand.refl (s : State) (c : Sid) : OnlyStrand s s c :=
  ⟨rfl, rfl, rfl, rfl, rfl, rfl, rfl, rfl, rfl, rfl, rfl, rfl, rfl, rfl, fun _ => rfl, fun _ _ => rfl⟩

theorem OnlyStrand.trans {s t u : State} {c : Sid} (h : OnlyStrand s t c) (k : OnlyStrand t u c) : OnlyStrand s u c :=
  ⟨k.cur.trans h.cur, k.agenda.trans h.agenda, k.draws.trans h.draws, k.time.trans h.time, k.mem.trans h.mem,
    k.poison.trans h.poison, k.tags.trans h.tags, k.clusters.trans h.clusters, k.dies.trans h.dies,
    k.solo.trans h.solo, k.lu.trans h.lu, k.eng.trans h.eng, k.net.trans h.net, k.boot.trans h.boot,
    fun l => (k.core l).trans (h.core l), fun d hd => (k.strand d hd).trans (h.strand d hd)⟩

theorem OnlyStrand.setStrand (s : State) (c : Sid) (st : Strand) : OnlyStrand s (s.setStrand c st) c :=
  ⟨rfl, rfl, rfl, rfl, rfl, rfl, rfl, rfl, rfl, rfl, rfl, rfl, rfl, rfl,
    fun l => by rw [State.core_setStrand]; split <;> simp_all,
    fun d hd => State.strand_setStrand_ne s st hd⟩

theorem OnlyStrand.debugRecord (s : State) (c : Sid) (reason wp sub : Nat) (addr source : Word) :
    OnlyStrand s (debugRecord s c reason wp sub addr source) c := by
  unfold Machine.debugRecord
  dsimp only
  split <;> exact ⟨rfl, rfl, rfl, rfl, rfl, rfl, rfl, rfl, rfl, rfl, rfl, rfl, rfl, rfl, fun _ => rfl, fun _ _ => rfl⟩

/-- A pool, a counter or any other part of a core but its strands. -/
theorem OnlyStrand.pool {s t : State} {c : Sid} (h : OnlyStrand s t c) (l : Nat) : (t.core l).pool = (s.core l).pool :=
  by have := congrArg Core.pool (h.core l); exact this

theorem OnlyStrand.ctr {s t : State} {c : Sid} (h : OnlyStrand s t c) (l : Nat) : (t.core l).ctr = (s.core l).ctr :=
  by have := congrArg Core.ctr (h.core l); exact this

/-! ## Ending a chunk -/

@[simp] theorem strand_debugRecord (s : State) (c d : Sid) (reason wp sub : Nat) (addr source : Word) :
    (debugRecord s c reason wp sub addr source).strand d = s.strand d := by
  unfold Machine.debugRecord
  dsimp only
  split <;> rfl

theorem onlyStrand_endChunk (s : State) (c : Sid) (code : Nat) : OnlyStrand s (endChunk s c code) c := by
  unfold endChunk
  dsimp only
  split
  · exact .refl s c
  · exact .setStrand ..

theorem onlyStrand_watchReport (s : State) (c : Sid) (ch : Chunk) : OnlyStrand s (watchReport s c ch) c := by
  unfold watchReport
  dsimp only
  split
  · exact .refl s c
  · split
    · exact (OnlyStrand.debugRecord ..).trans (.setStrand ..)
    · exact .debugRecord ..

theorem onlyStrand_endAfter (s : State) (c : Sid) (code : Nat) (e : Ending) : OnlyStrand s (endAfter s c code e) c :=
  (onlyStrand_endChunk ..).trans (.setStrand ..)

theorem onlyStrand_retired (x : Fx) (c : Sid) (len : Nat) : OnlyStrand x.s (retired x c len) c := .setStrand ..

/-- Retiring an instruction changes the strand that retires it and the debug unit, and nothing else. -/
theorem onlyStrand_retire (x : Fx) (c : Sid) (len : Nat) : OnlyStrand x.s (retire x c len) c := by
  unfold retire
  dsimp only
  split
  · exact (onlyStrand_retired ..).trans (onlyStrand_endAfter ..)
  · split
    · exact (onlyStrand_retired ..).trans (onlyStrand_endAfter ..)
    · exact onlyStrand_retired ..

@[simp] theorem retire_cur (x : Fx) (c : Sid) (len : Nat) : (retire x c len).cur = x.s.cur := (onlyStrand_retire ..).cur
@[simp] theorem retire_mem (x : Fx) (c : Sid) (len : Nat) : (retire x c len).mem = x.s.mem := (onlyStrand_retire ..).mem
@[simp] theorem retire_lu (x : Fx) (c : Sid) (len : Nat) : (retire x c len).lu = x.s.lu := (onlyStrand_retire ..).lu
@[simp] theorem retire_eng (x : Fx) (c : Sid) (len : Nat) : (retire x c len).eng = x.s.eng := (onlyStrand_retire ..).eng

/-! ## The strand after its chunk ends -/

/-- The registers, the speculative bytes and the operations of a strand, as far as an end of its chunk keeps them:
`a` the registers once every open window has ended. -/
theorem endChunk_strand {s : State} {c : Sid} {code : Nat} {ch : Chunk} (h : (s.strand c).opened = some ch) :
    (endChunk s c code).strand c = { s.strand c with
      arch := flushLate (s.strand c).arch ch.late, opened := none,
      waiting := (s.strand c).waiting ++
        [{ ch with late := [], accs := [], endCode := code,
                   drained := ch.writes.isEmpty && ((s.strand c).waiting.isEmpty || ordered s (s.strand c)),
                   pfx := none, pair := none, held := false }],
      endCode := code, stepping := false } := by
  unfold endChunk
  simp only [h]
  simp

/-- The strand after its chunk has ended behind an instruction. -/
theorem endAfter_strand (s : State) (c : Sid) (code : Nat) (e : Ending) :
    ∃ run sync, (endAfter s c code e).strand c
      = { (endChunk s c code).strand c with run := run, await := e.await, kw := e.kw, sync := sync } :=
  ⟨_, _, State.strand_setStrand_same ..⟩

theorem endAfter_arch {s : State} {c : Sid} {code : Nat} {e : Ending} {ch : Chunk} (h : (s.strand c).opened = some ch) :
    ((endAfter s c code e).strand c).arch = flushLate (s.strand c).arch ch.late := by
  obtain ⟨run, sync, hs⟩ := endAfter_strand s c code e
  rw [hs, endChunk_strand h]

theorem endAfter_chunks {s : State} {c : Sid} {code : Nat} {e : Ending} {ch : Chunk} (h : (s.strand c).opened = some ch) :
    ((endAfter s c code e).strand c).chunks = (s.strand c).waiting ++
      [{ ch with late := [], accs := [], endCode := code,
                 drained := ch.writes.isEmpty && ((s.strand c).waiting.isEmpty || ordered s (s.strand c)),
                 pfx := none, pair := none, held := false }] := by
  obtain ⟨run, sync, hs⟩ := endAfter_strand s c code e
  rw [hs, endChunk_strand h]; simp [Strand.chunks]

/-! ## The strand after an instruction -/

theorem retired_strand (x : Fx) (c : Sid) (len : Nat) :
    (retired x c len).strand c = { x.s.strand c with
      arch := { (resultsOf x c).1 with pc := nextPc x c len },
      opened := some { chunkOf x.s c with
        retired := (chunkOf x.s c).retired + 1, late := (resultsOf x c).2, accs := tickAccs (chunkOf x.s c).accs, pfx := none, pair := none },
      quantum := (x.s.strand c).quantum + 1, issued := 0, handler := false } := by
  simp [retired]

theorem retired_opened (x : Fx) (c : Sid) (len : Nat) :
    ((retired x c len).strand c).opened
      = some { chunkOf x.s c with
          retired := (chunkOf x.s c).retired + 1, late := (resultsOf x c).2, accs := tickAccs (chunkOf x.s c).accs, pfx := none, pair := none } := by
  rw [retired_strand]

/-- What holds of every end of the chunk and of the state with the chunk still open holds after retiring. -/
theorem retire_cases (x : Fx) (c : Sid) (len : Nat) (P : State → Prop) (h0 : P (retired x c len))
    (h1 : ∀ code e, P (endAfter (retired x c len) c code e)) : P (retire x c len) := by
  unfold retire
  dsimp only
  split
  · exact h1 ..
  · split
    · exact h1 ..
    · exact h0

theorem flushLate_nil (a : Arch) : flushLate a [] = a := rfl

/-- Without open windows or results of its own that wait, an instruction leaves exactly the registers it wrote, and
moves the pc. -/
theorem retire_arch {x : Fx} {c : Sid} {len : Nat} (hw : (resultsOf x c).2 = []) :
    ((retire x c len).strand c).arch = { (resultsOf x c).1 with pc := nextPc x c len } := by
  apply retire_cases x c len fun t => (t.strand c).arch = _
  · rw [retired_strand]
  · intro code e
    rw [endAfter_arch (retired_opened ..), retired_strand, hw, flushLate_nil]

theorem resultsOf_none {x : Fx} {c : Sid} (hl : x.late = []) (hw : (chunkOf x.s c).late = []) :
    resultsOf x c = ((x.s.strand c).arch, []) := by
  simp [resultsOf, hl, hw, tickLate, voidLate]

theorem resultsOf_now {x : Fx} {c : Sid} {reg : Nat} {v : V512} (hl : x.late = [(reg, v, 0)])
    (hw : (chunkOf x.s c).late = []) : resultsOf x c = (Late.apply (x.s.strand c).arch ⟨reg, v, 0, 0⟩, []) := by
  simp [resultsOf, hl, hw, tickLate, voidLate]

/-- The speculative bytes of the strand's chunks do not change when an instruction retires. -/
theorem retire_writes (x : Fx) (c : Sid) (len : Nat) :
    ((retire x c len).strand c).chunks.map (fun ch => ch.writes)
      = ((x.s.strand c).waiting.map fun ch => ch.writes) ++ [(chunkOf x.s c).writes] := by
  apply retire_cases x c len fun t => (t.strand c).chunks.map (fun ch => ch.writes) = _
  · rw [retired_strand]; simp [Strand.chunks]
  · intro code e
    rw [endAfter_chunks (retired_opened ..), retired_strand]; simp

/-- What the strand sees of its own stores depends on its chunks' speculative bytes alone. -/
theorem ownByte_congr {a b : Strand} (h : a.chunks.map (fun ch => ch.writes) = b.chunks.map (fun ch => ch.writes))
    (key : Nat) : ownByte a key = ownByte b key := by
  have key' : ∀ st : Strand, ownByte st key
      = (st.chunks.map fun ch => ch.writes).reverse.findSome? fun w => ffind w key := by
    intro st
    unfold ownByte
    rw [← List.map_reverse, List.findSome?_map]; rfl
  rw [key', key', h]

/-- One more instruction of the strand has retired since the last quantum end (R288). -/
theorem retire_quantum (x : Fx) (c : Sid) (len : Nat) :
    ((retire x c len).strand c).quantum = (x.s.strand c).quantum + 1 := by
  apply retire_cases x c len fun t => (t.strand c).quantum = _
  · rw [retired_strand]
  · intro code e
    obtain ⟨run, sync, hs⟩ := endAfter_strand (retired x c len) c code e
    rw [hs, endChunk_strand (retired_opened ..), retired_strand]

end Sys2Proof.Machine
end

