-- ==== Sys2Proof/Laws/Frames.lean ====
section
/-! SUPPORT. The frame of an instruction that completes: what its body may do (`Mid`), and what then stands after it
retires (`Mid.keeps`); where its results are. -/

namespace Sys2Proof.Machine

/-! ## Late results and the parts of the registers -/

@[simp] theorem Late.pc_apply (a : Arch) (l : Late) : (l.apply a).pc = a.pc := by
  unfold Late.apply; split <;> [simp; (split <;> simp)]
@[simp] theorem Late.cr_apply (a : Arch) (l : Late) : (l.apply a).cr = a.cr := by
  unfold Late.apply; split <;> [simp; (split <;> simp)]
@[simp] theorem Late.eng_apply (a : Arch) (l : Late) : (l.apply a).eng = a.eng := by
  unfold Late.apply; split <;> [simp; (split <;> simp)]
@[simp] theorem Late.priv_apply (a : Arch) (l : Late) : (l.apply a).priv = a.priv := by
  unfold Late.apply; split <;> [simp; (split <;> simp)]
@[simp] theorem Late.step_apply (a : Arch) (l : Late) : (l.apply a).step = a.step := by
  unfold Late.apply; split <;> [simp; (split <;> simp)]

theorem Late.rg_apply_ne (a : Arch) (l : Late) (r : Reg) (h : l.reg ≠ r.toNat) : (l.apply a).rg r = a.rg r := by
  unfold Late.apply
  split
  · rw [Arch.rg_wg]
    rw [if_neg]
    rintro ⟨rfl, -⟩
    apply h
    simp
    omega
  · split <;> simp

theorem Late.rv_apply_ne (a : Arch) (l : Late) (r : Reg) (h : l.reg ≠ 32 + r.toNat) : (l.apply a).rv r = a.rv r := by
  unfold Late.apply
  split
  · simp
  · split
    · rw [Arch.rv_wv]
      rw [if_neg]
      rintro rfl
      apply h
      simp
      omega
    · rfl

theorem Late.rg_apply (a : Arch) (l : Late) (r : Reg) (h : l.reg = r.toNat) :
    (l.apply a).rg r = if r = 0 then 0 else l.val.truncate 64 := by
  unfold Late.apply
  rw [if_pos (by rw [h]; exact r.isLt), Arch.rg_wg, h]
  by_cases h0 : r = 0
  · subst h0; simp
  · have e : BitVec.ofNat 5 r.toNat = r := by simp
    rw [e, if_pos ⟨rfl, h0⟩, if_neg h0]

theorem Late.rv_apply (a : Arch) (l : Late) (r : Reg) (h : l.reg = 32 + r.toNat) : (l.apply a).rv r = l.val := by
  unfold Late.apply
  have := r.isLt
  rw [if_neg (by omega), if_pos (by omega), Arch.rv_wv, if_pos]
  apply BitVec.eq_of_toNat_eq
  simp; omega

theorem flushLate_same {α : Type} (P : Arch → α) (l : List Late) (a : Arch)
    (h : ∀ x ∈ l, ∀ a, P (x.apply a) = P a) : P (flushLate a l) = P a := by
  induction l generalizing a with
  | nil => rfl
  | cons x l ih =>
    show P (flushLate (x.apply a) l) = _
    rw [ih _ fun y hy => h y (List.mem_cons_of_mem _ hy), h x List.mem_cons_self]

/-- A fold that ends with a result for a register leaves that result. -/
theorem flushLate_append (a : Arch) (l k : List Late) : flushLate a (l ++ k) = flushLate (flushLate a l) k := by
  simp [flushLate]

/-! ## The registers after an instruction -/

/-- The results of an instruction that are written at once. -/
def Fx.now (x : Fx) : List Late :=
  (x.late.filter fun l => l.2.2 == 0).map fun l => { reg := l.1, val := l.2.1, left := 0, born := 0 }

/-- The results whose window has ended. -/
def dueOf (l : List Late) : List Late := l.filter fun x => x.left == 0

theorem resultsOf_fst (x : Fx) (c : Sid) :
    (resultsOf x c).1 = flushLate (flushLate (x.s.strand c).arch (dueOf (chunkOf x.s c).late)) x.now := by
  simp only [resultsOf, tickLate, flushLate, dueOf, Fx.now, List.foldl_map]

theorem mem_resultsOf_snd {x : Fx} {c : Sid} {l : Late} (h : l ∈ (resultsOf x c).2) :
    (∃ y ∈ (chunkOf x.s c).late, y.reg = l.reg) ∨ ∃ y ∈ x.late, y.1 = l.reg := by
  simp only [resultsOf, tickLate, voidLate, List.mem_append, List.mem_filter, List.mem_map] at h
  rcases h with ⟨⟨⟨y, ⟨hy, -⟩, rfl⟩, -⟩, -⟩ | ⟨y, ⟨hy, -⟩, rfl⟩
  · exact .inl ⟨y, hy, rfl⟩
  · exact .inr ⟨y, hy, rfl⟩

/-- A part of the registers that no result concerns is as the body left it. -/
theorem retire_same {α : Type} (P : Arch → α) (x : Fx) (c : Sid) (len : Nat)
    (hpc : ∀ a pc, P { a with pc := pc } = P a)
    (h : ∀ l : Late, ((∃ y ∈ (chunkOf x.s c).late, y.reg = l.reg) ∨ ∃ y ∈ x.late, y.1 = l.reg) →
      ∀ a, P (l.apply a) = P a) :
    P ((retire x c len).strand c).arch = P (x.s.strand c).arch := by
  have h1 : P (resultsOf x c).1 = P (x.s.strand c).arch := by
    rw [resultsOf_fst, flushLate_same P, flushLate_same P]
    · intro l hl
      exact h l (.inl ⟨l, List.mem_of_mem_filter hl, rfl⟩)
    · intro l hl
      simp only [Fx.now, List.mem_map, List.mem_filter] at hl
      obtain ⟨y, ⟨hy, -⟩, rfl⟩ := hl
      exact h _ (.inr ⟨y, hy, rfl⟩)
  apply retire_cases x c len fun t => P (t.strand c).arch = _
  · rw [retired_strand]; simp only [hpc, h1]
  · intro code e
    rw [endAfter_arch (retired_opened ..), retired_strand, flushLate_same P]
    · simp only [hpc, h1]
    · intro l hl
      exact h l (mem_resultsOf_snd hl)

theorem retire_pc (x : Fx) (c : Sid) (len : Nat) : ((retire x c len).strand c).arch.pc = nextPc x c len := by
  apply retire_cases x c len fun t => (t.strand c).arch.pc = _
  · rw [retired_strand]
  · intro code e
    rw [endAfter_arch (retired_opened ..), retired_strand]
    exact flushLate_same (fun a => a.pc) _ _ fun x _ a => by simp

/-- The chunk of the strand after an instruction: the one that goes on, or a new one without open windows. -/
theorem retire_chunk_late (x : Fx) (c : Sid) (len : Nat) :
    ((chunkOf (retire x c len) c).late = (resultsOf x c).2 ∧ ((retire x c len).strand c).arch = { (resultsOf x c).1 with pc := nextPc x c len })
    ∨ ((chunkOf (retire x c len) c).late = [] ∧
        ((retire x c len).strand c).arch = flushLate { (resultsOf x c).1 with pc := nextPc x c len } (resultsOf x c).2) := by
  apply retire_cases x c len fun t => ((chunkOf t c).late = _ ∧ (t.strand c).arch = _) ∨ ((chunkOf t c).late = [] ∧ (t.strand c).arch = _)
  · left
    simp only [chunkOf, Option.getD_some, retired_strand, and_self]
  · intro code e
    right
    refine ⟨?_, by rw [endAfter_arch (retired_opened ..), retired_strand]⟩
    have : ((endAfter (retired x c len) c code e).strand c).opened = none := by
      obtain ⟨run, sync, hs⟩ := endAfter_strand (retired x c len) c code e
      rw [hs, endChunk_strand (retired_opened ..)]
    simp [chunkOf, this, newChunk]

/-! ## One result -/

theorem voidLate_reg {l : List Late} {rs : List Nat} {x : Late} (h : x ∈ voidLate l rs) : x.reg ∉ rs := by
  simp [voidLate] at h; exact h.2

/-- A result with a look value: register word `n` has it, or waits for it. -/
theorem retire_gets {x : Fx} {c : Sid} {len : Nat} {n : Nat} {val : V512} {look : BitVec 4} {α : Type} (P : Arch → α)
    (hl : x.late = [(n, val, look.toNat)])
    (hpc : ∀ a pc, P { a with pc := pc } = P a)
    (hne : ∀ (l : Late) a, l.reg ≠ n → P (l.apply a) = P a) (p : α)
    (heq : ∀ (l : Late) a, l.reg = n → l.val = val → P (l.apply a) = p) :
    P ((retire x c len).strand c).arch = p
    ∨ (look ≠ 0 ∧ ∃ l ∈ (chunkOf (retire x c len) c).late, l.reg = n ∧ l.val = val ∧ l.left = look.toNat - 1) := by
  by_cases h0 : look = 0
  · left
    subst h0
    have hnow : x.now = [⟨n, val, 0, 0⟩] := by simp [Fx.now, hl]
    have h1 : P (resultsOf x c).1 = p := by
      rw [resultsOf_fst, hnow]
      exact heq _ _ rfl rfl
    have h2 : ∀ l ∈ (resultsOf x c).2, ∀ a, P (l.apply a) = P a := by
      intro l hm a
      apply hne
      simp only [resultsOf, hl, List.mem_append] at hm
      rcases hm with hm | hm
      · simpa using voidLate_reg hm
      · simp at hm
    rcases retire_chunk_late x c len with ⟨-, h⟩ | ⟨-, h⟩
    · rw [h, hpc, h1]
    · rw [h, flushLate_same P _ _ h2, hpc, h1]
  · have hb : (look.toNat == 0) = false := by
      rw [beq_eq_false_iff_ne]; intro e; exact h0 (BitVec.eq_of_toNat_eq (by simpa using e))
    have h2 : (resultsOf x c).2 = (tickLate (x.s.strand c).arch (chunkOf x.s c).late).2
        ++ [⟨n, val, look.toNat - 1, (chunkOf x.s c).retired⟩] := by
      have hn : look.toNat ≠ 0 := by simpa using hb
      simp [resultsOf, hl, voidLate, hn]
    rcases retire_chunk_late x c len with ⟨h, -⟩ | ⟨-, h⟩
    · right
      refine ⟨h0, ⟨n, val, look.toNat - 1, (chunkOf x.s c).retired⟩, ?_, rfl, rfl, rfl⟩
      rw [h, h2]
      simp
    · left
      rw [h, h2, flushLate_append]
      exact heq _ _ rfl rfl

theorem retire_getsG {s : State} {x : Fx} {len : Nat} {d : Reg} {v : Word} {look : BitVec 4}
    (hc : x.s.cur = s.cur) (hl : x.late = [(d.toNat, v.zeroExtend 512, look.toNat)]) :
    GetsG s (retire x s.cur len) d v look := by
  have ht : (v.zeroExtend 512).truncate 64 = v := by
    simp only [BitVec.truncate_eq_setWidth, BitVec.setWidth_setWidth_of_le _ (by decide : 64 ≤ 512), BitVec.setWidth_eq]
  have := retire_gets (c := s.cur) (len := len) (fun a => a.rg d) hl (fun _ _ => rfl)
    (fun l a h => Late.rg_apply_ne a l d h) (if d = 0 then 0 else v)
    (fun l a h hv => by rw [Late.rg_apply a l d h, hv, ht])
  rcases this with h | ⟨h0, l, hm, h1, h2, h3⟩
  · exact .inl h
  · refine .inr ⟨h0, l, ?_, h1, by rw [h2, ht], h3⟩
    have : (retire x s.cur len).cur = s.cur := by simp [hc]
    exact hm

theorem retire_getsV {s : State} {x : Fx} {len : Nat} {d : Reg} {v : V512} {look : BitVec 4}
    (hl : x.late = [(32 + d.toNat, v, look.toNat)]) : GetsV s (retire x s.cur len) d v look :=
  retire_gets (c := s.cur) (len := len) (fun a => a.rv d) hl (fun _ _ => rfl)
    (fun l a h => Late.rv_apply_ne a l d h) v (fun l a h hv => by rw [Late.rv_apply a l d h, hv])

/-! ## The frame -/

/-- What the body of an instruction may do besides the writes `w`: nothing that its strand, its memory, a pool or
another strand shows. -/
structure Mid (s u : State) (w : Writes) : Prop where
  cur : u.cur = s.cur
  opened : u.me.opened.isSome = true
  late : ∀ x ∈ u.chunk.late, ∃ y ∈ (chunkOf s s.cur).late, y.reg = x.reg
  pfx : u.chunk.pfx = (chunkOf s s.cur).pfx
  pc : u.arch.pc = s.arch.pc
  g : ∀ r, r ∉ w.g → u.arch.rg r = s.arch.rg r
  v : ∀ r, r ∉ w.v → u.arch.rv r = s.arch.rv r
  cr : ∀ n, n ∉ w.cr → u.arch.cr' n = s.arch.cr' n
  priv : w.level = false → u.arch.priv = s.arch.priv
  step : w.step = false → u.arch.step = s.arch.step
  eng : ∀ n, n ∉ w.eng → u.arch.re n = s.arch.re n
  mem : u.mem = s.mem
  own : ∀ k, k ∉ w.mem → ownByte u.me k = ownByte s.me k
  pool : ∀ l k, (l ≠ s.cur.core ∨ k ∉ w.pool) → poolByte u l k = poolByte s l k
  ctr : ∀ l i, fget (u.core l).ctr 0 i = fget (s.core l).ctr 0 i
  others : ∀ c, c ≠ s.cur → u.strand c = s.strand c

theorem newChunk_writes (s : State) (c : Sid) : (newChunk s c).writes = [] := rfl

/-- The strand's stores with its chunk open. -/
theorem ownByte_begun (s : State) (k : Nat) : ownByte (begun s).me k = ownByte s.me k := by
  rw [begun_me]
  unfold ownByte Strand.chunks chunkOf
  cases h : s.me.opened with
  | some ch => simp [show (s.strand s.cur).opened = some ch from h]
  | none =>
    have : ffind (newChunk s s.cur).writes k = none := rfl
    simp [show (s.strand s.cur).opened = none from h, this]

theorem Mid.begun (s : State) (w : Writes) : Mid s (begun s) w where
  cur := rfl
  opened := by simp
  late := fun x hx => ⟨x, by simpa using hx, rfl⟩
  pfx := by simp
  pc := by simp
  g := by simp
  v := by simp
  cr := by simp
  priv := by simp
  step := by simp
  eng := by simp
  mem := rfl
  own := fun k _ => ownByte_begun s k
  pool := by
    intro l k _
    unfold poolByte
    by_cases h : l = s.cur.core
    · subst h; rw [begun_core_cur]
    · rw [begun_core s l h]
  ctr := by
    intro l i
    by_cases h : l = s.cur.core
    · subst h; rw [begun_core_cur]
    · rw [begun_core s l h]
  others := fun c hc => by rw [begun_strand, if_neg hc]

/-- Anything that only changes the running strand's registers and its chunk's windows. -/
theorem Mid.setMe {s u : State} {w : Writes} (h : Mid s u w) (st : Strand)
    (opened : st.opened.isSome = true)
    (late : ∀ ch, st.opened = some ch → ∀ x ∈ ch.late, ∃ y ∈ u.chunk.late, y.reg = x.reg)
    (pfx : ∀ ch, st.opened = some ch → ch.pfx = u.chunk.pfx)
    (pc : st.arch.pc = u.arch.pc)
    (g : ∀ r, r ∉ w.g → st.arch.rg r = u.arch.rg r) (v : ∀ r, r ∉ w.v → st.arch.rv r = u.arch.rv r)
    (cr : ∀ n, n ∉ w.cr → st.arch.cr' n = u.arch.cr' n) (priv : w.level = false → st.arch.priv = u.arch.priv)
    (step : w.step = false → st.arch.step = u.arch.step) (eng : ∀ n, n ∉ w.eng → st.arch.re n = u.arch.re n)
    (own : ∀ k, k ∉ w.mem → ownByte st k = ownByte u.me k) : Mid s (u.setMe st) w := by
  have hme : (u.setMe st).me = st := by simp
  obtain ⟨ch, hch⟩ := Option.isSome_iff_exists.1 opened
  have hchunk : (u.setMe st).chunk = ch := by
    show ((u.setMe st).me.opened).getD _ = _
    rw [hme, hch]; rfl
  refine ⟨h.cur, by rw [hme]; exact opened, ?_, ?_, ?_, ?_, ?_, ?_, ?_, ?_, ?_, h.mem, ?_, ?_, ?_, ?_⟩
  · rw [hchunk]
    intro x hx
    obtain ⟨y, hy, e⟩ := late ch hch x hx
    obtain ⟨z, hz, e'⟩ := h.late y hy
    exact ⟨z, hz, e'.trans e⟩
  · rw [hchunk, pfx ch hch, h.pfx]
  · simp only [State.arch, hme]; exact pc.trans h.pc
  · intro r hr; simp only [State.arch, hme]; exact (g r hr).trans (h.g r hr)
  · intro r hr; simp only [State.arch, hme]; exact (v r hr).trans (h.v r hr)
  · intro n hn; simp only [State.arch, hme]; exact (cr n hn).trans (h.cr n hn)
  · intro hw; simp only [State.arch, hme]; exact (priv hw).trans (h.priv hw)
  · intro hw; simp only [State.arch, hme]; exact (step hw).trans (h.step hw)
  · intro n hn; simp only [State.arch, hme]; exact (eng n hn).trans (h.eng n hn)
  · intro k hk; rw [hme]; exact (own k hk).trans (h.own k hk)
  · intro l k hk
    rw [← h.pool l k hk]
    simp only [poolByte, State.setMe, State.core_setStrand]
    split
    · next e => subst e; rfl
    · rfl
  · intro l i
    rw [← h.ctr l i]
    simp only [State.setMe, State.core_setStrand]
    split
    · next e => subst e; rfl
    · rfl
  · intro c hc
    rw [← h.others c hc]
    simp only [State.setMe]
    exact State.strand_setStrand_ne _ _ (by rw [h.cur]; exact hc)

theorem chunk_of_opened {u : State} {ch : Chunk} (h : u.me.opened = some ch) : u.chunk = ch := by
  show (u.me.opened).getD _ = _
  rw [h]; rfl

/-- Replacing the registers. -/
theorem Mid.setArch {s u : State} {w : Writes} (h : Mid s u w) (a : Arch) (pc : a.pc = u.arch.pc)
    (g : ∀ r, r ∉ w.g → a.rg r = u.arch.rg r) (v : ∀ r, r ∉ w.v → a.rv r = u.arch.rv r)
    (cr : ∀ n, n ∉ w.cr → a.cr' n = u.arch.cr' n) (priv : w.level = false → a.priv = u.arch.priv)
    (step : w.step = false → a.step = u.arch.step) (eng : ∀ n, n ∉ w.eng → a.re n = u.arch.re n) : Mid s (u.setArch a) w :=
  h.setMe { u.me with arch := a } h.opened
    (fun ch hc x hx => ⟨x, by rw [chunk_of_opened hc]; exact hx, rfl⟩)
    (fun ch hc => by rw [chunk_of_opened hc]) pc g v cr priv step eng (fun _ _ => rfl)

/-- Replacing the chunk by one with the same stores, no more windows, and the same prefix. -/
theorem Mid.setCh {s u : State} {w : Writes} (h : Mid s u w) (ch : Chunk)
    (late : ∀ x ∈ ch.late, ∃ y ∈ u.chunk.late, y.reg = x.reg) (pfx : ch.pfx = u.chunk.pfx)
    (own : ∀ k, k ∉ w.mem → ffind ch.writes k = ffind u.chunk.writes k) : Mid s (u.setCh ch) w := by
  refine h.setMe { u.me with opened := some ch } rfl (fun c hc x hx => ?_) (fun c hc => ?_) rfl (fun _ _ => rfl)
    (fun _ _ => rfl) (fun _ _ => rfl) (fun _ => rfl) (fun _ => rfl) (fun _ _ => rfl) ?_
  · obtain rfl : ch = c := by simpa using hc
    exact late x hx
  · obtain rfl : ch = c := by simpa using hc
    exact pfx
  · intro k hk
    obtain ⟨o, ho⟩ := Option.isSome_iff_exists.1 h.opened
    have hu : u.chunk = o := chunk_of_opened ho
    unfold ownByte Strand.chunks
    rw [ho]
    simp only [Option.toList_some, List.reverse_append, List.reverse_cons, List.reverse_nil, List.nil_append,
      List.singleton_append, List.findSome?_cons, own k hk, hu]

theorem Mid.wg {s u : State} {w : Writes} (h : Mid s u w) (d : Reg) (x : Word) (hd : d ∈ w.g) : Mid s (wg u d x) w := by
  refine (h.setArch (u.arch.wg d x) (by simp) ?_ (by simp) ?_ (by simp) (by simp) ?_).setCh _ ?_ rfl (fun _ _ => rfl)
  · intro r hr
    rw [Arch.rg_wg, if_neg]
    rintro ⟨rfl, -⟩; exact hr hd
  · intro n _; simp [Arch.cr']
  · intro n _; simp [Arch.re]
  · intro y hy
    exact ⟨y, List.mem_of_mem_filter hy, rfl⟩

theorem Mid.wv {s u : State} {w : Writes} (h : Mid s u w) (d : Reg) (x : V512) (hd : d ∈ w.v) : Mid s (wv u d x) w := by
  refine (h.setArch (u.arch.wv d x) rfl (by simp) ?_ (fun _ _ => rfl) (fun _ => rfl) (fun _ => rfl) (fun _ _ => rfl)).setCh _ ?_ rfl
    (fun _ _ => rfl)
  · intro r hr
    rw [Arch.rv_wv, if_neg]
    rintro rfl; exact hr hd
  · intro y hy
    exact ⟨y, List.mem_of_mem_filter hy, rfl⟩

@[simp] theorem Arch.rg_wcr (a : Arch) (n : Nat) (x : Word) (r : Reg) : (a.wcr n x).rg r = a.rg r := rfl
@[simp] theorem Arch.rv_wcr (a : Arch) (n : Nat) (x : Word) (r : Reg) : (a.wcr n x).rv r = a.rv r := rfl
@[simp] theorem Arch.re_wcr (a : Arch) (n : Nat) (x : Word) (k : Nat) : (a.wcr n x).re k = a.re k := rfl

theorem Arch.cr'_wcr (a : Arch) (n k : Nat) (x : Word) : (a.wcr n x).cr' k = if k = n then x else a.cr' k := by
  unfold Arch.wcr Arch.cr'
  by_cases h : k = n
  · subst h; simp [fget_fset]
  · simp [fget_fset, h]

theorem Mid.wcr {s u : State} {w : Writes} (h : Mid s u w) (n : Nat) (x : Word) (hn : n ∈ w.cr) :
    Mid s (u.setArch (u.arch.wcr n x)) w := by
  refine h.setArch _ rfl (fun _ _ => rfl) (fun _ _ => rfl) ?_ (fun _ => rfl) (fun _ => rfl) (fun _ _ => rfl)
  intro k hk
  rw [Arch.cr'_wcr, if_neg]
  rintro rfl; exact hk hn

theorem Mid.stick {s u : State} {w : Writes} (h : Mid s u w) (f : Flagged) (hn : 0x010 ∈ w.cr) :
    Mid s (stick u f) w := by
  unfold Machine.stick
  split
  · exact h
  · exact h.wcr _ _ hn

theorem Mid.stickSF {s u : State} {w : Writes} (h : Mid s u w) (b : Bool) (hn : 0x010 ∈ w.cr) :
    Mid s (stickSF u b) w := by
  unfold Machine.stickSF
  split
  · exact h.stick _ hn
  · exact h

/-- The frame of an instruction whose body did no more than `Mid` says. -/
theorem Mid.keeps {s : State} {x : Fx} {w : Writes} (h : Mid s x.s w) (len : Nat)
    (hl : ∀ y ∈ x.late, (y.1 < 32 ∧ BitVec.ofNat 5 y.1 ∈ w.g) ∨ (32 ≤ y.1 ∧ BitVec.ofNat 5 (y.1 - 32) ∈ w.v)) :
    Keeps s (retire x s.cur len) w := by
  have ha : (x.s.strand s.cur).arch = x.s.arch := by rw [← h.cur]; rfl
  have hch : chunkOf x.s s.cur = x.s.chunk := by rw [← h.cur]; rfl
  have ho := onlyStrand_retire x s.cur len
  have conc : ∀ l : Late, ((∃ y ∈ (chunkOf x.s s.cur).late, y.reg = l.reg) ∨ ∃ y ∈ x.late, y.1 = l.reg) →
      (∃ y ∈ (chunkOf s s.cur).late, y.reg = l.reg) ∨
        (l.reg < 32 ∧ BitVec.ofNat 5 l.reg ∈ w.g) ∨ (32 ≤ l.reg ∧ BitVec.ofNat 5 (l.reg - 32) ∈ w.v) := by
    rintro l (⟨y, hy, e⟩ | ⟨y, hy, e⟩)
    · rw [hch] at hy
      obtain ⟨z, hz, e'⟩ := h.late y hy
      exact .inl ⟨z, hz, e'.trans e⟩
    · rw [← e]; exact .inr (hl y hy)
  refine ⟨?_, ?_, ?_, ?_, ?_, ?_, ⟨?_, ?_, ?_⟩, ⟨?_, ?_⟩, ?_⟩
  · intro r hr hn
    rw [retire_same (fun a => a.rg r) x s.cur len (fun _ _ => rfl), ha, h.g r hr]
    intro l hl a
    apply Late.rg_apply_ne
    intro e
    rcases conc l hl with ⟨y, hy, e'⟩ | ⟨_, hm⟩ | ⟨hm, _⟩
    · exact hn y hy (e'.trans e)
    · rw [e] at hm; simp at hm; exact hr hm
    · have := r.isLt; omega
  · intro r hr hn
    rw [retire_same (fun a => a.rv r) x s.cur len (fun _ _ => rfl), ha, h.v r hr]
    intro l hl a
    apply Late.rv_apply_ne
    intro e
    rcases conc l hl with ⟨y, hy, e'⟩ | ⟨hm, _⟩ | ⟨_, hm⟩
    · exact hn y hy (e'.trans e)
    · omega
    · rw [e] at hm; simp at hm; exact hr hm
  · intro n hn
    rw [retire_same (fun a => a.cr' n) x s.cur len (fun _ _ => rfl), ha, h.cr n hn]
    intro l _ a; simp [Arch.cr']
  · intro hw
    rw [retire_same (fun a => a.priv) x s.cur len (fun _ _ => rfl), ha, h.priv hw]
    intro l _ a; simp
  · intro hw
    rw [retire_same (fun a => a.step) x s.cur len (fun _ _ => rfl), ha, h.step hw]
    intro l _ a; simp
  · intro n hn
    rw [retire_same (fun a => a.re n) x s.cur len (fun _ _ => rfl), ha, h.eng n hn]
    intro l _ a; simp [Arch.re]
  · rw [ho.cur, h.cur]
  · rw [ho.mem, h.mem]
  · intro k hk
    unfold seenByte
    rw [ho.mem, h.mem]
    have : ownByte (retire x s.cur len).me k = ownByte s.me k := by
      rw [← h.own k hk]
      have e : (retire x s.cur len).me = (retire x s.cur len).strand s.cur := by
        unfold State.me; rw [ho.cur, h.cur]
      rw [e]
      apply ownByte_congr
      rw [retire_writes]
      obtain ⟨o, hop⟩ := Option.isSome_iff_exists.1 h.opened
      have : x.s.strand s.cur = x.s.me := by rw [← h.cur]; rfl
      rw [this, hch, chunk_of_opened hop]
      simp [Strand.chunks, hop]
    rw [this]
  · intro l k hk
    have := h.pool l k hk
    unfold poolByte at this ⊢
    rw [ho.pool, this]
  · intro l i
    rw [ho.ctr, h.ctr]
  · intro c hc
    rw [ho.strand c hc, h.others c hc]

/-- The pc of an instruction that does not jump. -/
theorem Mid.pcAfter {s : State} {x : Fx} {w : Writes} (h : Mid s x.s w) (len : Nat) (hj : x.jump = none)
    (ha : x.again = false) : pcOf s (retire x s.cur len) = pcAfter s len := by
  unfold pcOf
  rw [retire_pc]
  unfold nextPc Machine.pcAfter
  rw [hj, ha]
  have e1 : (x.s.strand s.cur).arch = x.s.arch := by rw [← h.cur]; rfl
  have e2 : chunkOf x.s s.cur = x.s.chunk := by rw [← h.cur]; rfl
  simp only [e1, e2, h.pc, h.pfx, Bool.false_eq_true, if_false]

/-- A register that the body wrote itself holds what it wrote, if no window of it is left. -/
theorem Mid.gOf {s : State} {x : Fx} {w : Writes} (h : Mid s x.s w) (len : Nat) (d : Reg) (hl : x.late = [])
    (hv : ∀ y ∈ x.s.chunk.late, y.reg ≠ d.toNat) : gOf s (retire x s.cur len) d = x.s.arch.rg d := by
  have ha : (x.s.strand s.cur).arch = x.s.arch := by rw [← h.cur]; rfl
  have hch : chunkOf x.s s.cur = x.s.chunk := by rw [← h.cur]; rfl
  unfold Machine.gOf
  rw [retire_same (fun a => a.rg d) x s.cur len (fun _ _ => rfl), ha]
  rintro l (⟨y, hy, e⟩ | ⟨y, hy, e⟩) a
  · apply Late.rg_apply_ne
    rw [← e]; exact hv y (hch ▸ hy)
  · rw [hl] at hy; simp at hy

theorem Mid.vOf {s : State} {x : Fx} {w : Writes} (h : Mid s x.s w) (len : Nat) (d : Reg) (hl : x.late = [])
    (hv : ∀ y ∈ x.s.chunk.late, y.reg ≠ 32 + d.toNat) : vOf s (retire x s.cur len) d = x.s.arch.rv d := by
  have ha : (x.s.strand s.cur).arch = x.s.arch := by rw [← h.cur]; rfl
  have hch : chunkOf x.s s.cur = x.s.chunk := by rw [← h.cur]; rfl
  unfold Machine.vOf
  rw [retire_same (fun a => a.rv d) x s.cur len (fun _ _ => rfl), ha]
  rintro l (⟨y, hy, e⟩ | ⟨y, hy, e⟩) a
  · apply Late.rv_apply_ne
    rw [← e]; exact hv y (hch ▸ hy)
  · rw [hl] at hy; simp at hy

theorem Mid.crOf {s : State} {x : Fx} {w : Writes} (h : Mid s x.s w) (len n : Nat) :
    crOf s (retire x s.cur len) n = x.s.arch.cr' n := by
  have ha : (x.s.strand s.cur).arch = x.s.arch := by rw [← h.cur]; rfl
  unfold Machine.crOf
  rw [retire_same (fun a => a.cr' n) x s.cur len (fun _ _ => rfl), ha]
  intro l _ a; simp [Arch.cr']

/-- After a direct write of gd no window of it is left. -/
theorem wg_late (u : State) (d : Reg) (x : Word) : ∀ y ∈ (wg u d x).chunk.late, y.reg ≠ d.toNat := by
  intro y hy
  have : (wg u d x).chunk.late = voidLate (u.setArch (u.arch.wg d x)).chunk.late [d.toNat] := by simp [wg]
  rw [this] at hy
  simpa using voidLate_reg hy

theorem wv_late (u : State) (d : Reg) (x : V512) : ∀ y ∈ (wv u d x).chunk.late, y.reg ≠ 32 + d.toNat := by
  intro y hy
  have : (wv u d x).chunk.late = voidLate (u.setArch (u.arch.wv d x)).chunk.late [32 + d.toNat] := by simp [wv]
  rw [this] at hy
  simpa using voidLate_reg hy

/-- An instruction that writes gd and nothing else. -/
theorem retire_wg (s : State) (d : Reg) (x : Word) (len : Nat) :
    gOf s (retire (fx (wg (begun s) d x)) s.cur len) d = (if d = 0 then 0 else x)
    ∧ pcOf s (retire (fx (wg (begun s) d x)) s.cur len) = pcAfter s len
    ∧ Keeps s (retire (fx (wg (begun s) d x)) s.cur len) { g := [d] } := by
  have hm : Mid s (fx (wg (begun s) d x)).s { g := [d] } := (Mid.begun s _).wg d x (by simp)
  refine ⟨?_, hm.pcAfter len rfl rfl, hm.keeps len (by simp [fx])⟩
  rw [hm.gOf len d rfl (wg_late _ d x)]
  show (wg (begun s) d x).arch.rg d = _
  rw [wg_arch, Arch.rg_wg]
  by_cases h : d = 0
  · subst h; simp
  · rw [if_pos ⟨rfl, h⟩, if_neg h]

/-- An instruction that writes vd and nothing else. -/
theorem retire_wv (s : State) (d : Reg) (x : V512) (len : Nat) :
    vOf s (retire (fx (wv (begun s) d x)) s.cur len) d = x
    ∧ pcOf s (retire (fx (wv (begun s) d x)) s.cur len) = pcAfter s len
    ∧ Keeps s (retire (fx (wv (begun s) d x)) s.cur len) { v := [d] } := by
  have hm : Mid s (fx (wv (begun s) d x)).s { v := [d] } := (Mid.begun s _).wv d x (by simp)
  refine ⟨?_, hm.pcAfter len rfl rfl, hm.keeps len (by simp [fx])⟩
  rw [hm.vOf len d rfl (wv_late _ d x)]
  show (wv (begun s) d x).arch.rv d = _
  rw [wv_arch, Arch.rv_wv, if_pos rfl]

end Sys2Proof.Machine
end

