-- ==== Sys2Proof/Laws/PerInstr.lean ====
section
/-! SUPPORT. One lemma per constructor of `Instr` for statements over all instructions. -/

set_option Elab.async false
set_option linter.unusedSimpArgs false

namespace Sys2Proof.Laws.Words

/-- R41, R44: an instruction has at most two words, and its first word has kind 3 exactly when it has two. -/
def Statement (i : Instr) : Prop :=
  (encode i).length ≤ 2 ∧ ∀ w ∈ (encode i).head?, isLong w = decide ((encode i).length = 2)

theorem add (d a b : Reg) : Statement (.add d a b) := by
  simp [Statement, encode, encR0, encMul, encV, encT, encS, isLong]
theorem sub (d a b : Reg) : Statement (.sub d a b) := by
  simp [Statement, encode, encR0, encMul, encV, encT, encS, isLong]
theorem band (d a b : Reg) : Statement (.band d a b) := by
  simp [Statement, encode, encR0, encMul, encV, encT, encS, isLong]
theorem bor (d a b : Reg) : Statement (.bor d a b) := by
  simp [Statement, encode, encR0, encMul, encV, encT, encS, isLong]
theorem bxor (d a b : Reg) : Statement (.bxor d a b) := by
  simp [Statement, encode, encR0, encMul, encV, encT, encS, isLong]
theorem bandn (d a b : Reg) : Statement (.bandn d a b) := by
  simp [Statement, encode, encR0, encMul, encV, encT, encS, isLong]
theorem shl (d a b : Reg) : Statement (.shl d a b) := by
  simp [Statement, encode, encR0, encMul, encV, encT, encS, isLong]
theorem shr (d a b : Reg) : Statement (.shr d a b) := by
  simp [Statement, encode, encR0, encMul, encV, encT, encS, isLong]
theorem sra (d a b : Reg) : Statement (.sra d a b) := by
  simp [Statement, encode, encR0, encMul, encV, encT, encS, isLong]
theorem rol (d a b : Reg) : Statement (.rol d a b) := by
  simp [Statement, encode, encR0, encMul, encV, encT, encS, isLong]
theorem min (d a b : Reg) : Statement (.min d a b) := by
  simp [Statement, encode, encR0, encMul, encV, encT, encS, isLong]
theorem max (d a b : Reg) : Statement (.max d a b) := by
  simp [Statement, encode, encR0, encMul, encV, encT, encS, isLong]
theorem minn (d a b : Reg) : Statement (.minn d a b) := by
  simp [Statement, encode, encR0, encMul, encV, encT, encS, isLong]
theorem maxn (d a b : Reg) : Statement (.maxn d a b) := by
  simp [Statement, encode, encR0, encMul, encV, encT, encS, isLong]
theorem slt (d a b : Reg) : Statement (.slt d a b) := by
  simp [Statement, encode, encR0, encMul, encV, encT, encS, isLong]
theorem sltn (d a b : Reg) : Statement (.sltn d a b) := by
  simp [Statement, encode, encR0, encMul, encV, encT, encS, isLong]
theorem seq (d a b : Reg) : Statement (.seq d a b) := by
  simp [Statement, encode, encR0, encMul, encV, encT, encS, isLong]
theorem sel (d a b : Reg) : Statement (.sel d a b) := by
  simp [Statement, encode, encR0, encMul, encV, encT, encS, isLong]
theorem clz (d a : Reg) : Statement (.clz d a) := by
  simp [Statement, encode, encR0, encMul, encV, encT, encS, isLong]
theorem ctz (d a : Reg) : Statement (.ctz d a) := by
  simp [Statement, encode, encR0, encMul, encV, encT, encS, isLong]
theorem pop (d a : Reg) : Statement (.pop d a) := by
  simp [Statement, encode, encR0, encMul, encV, encT, encS, isLong]
theorem bswap (d a : Reg) : Statement (.bswap d a) := by
  simp [Statement, encode, encR0, encMul, encV, encT, encS, isLong]
theorem addW (d a b : Reg) : Statement (.addW d a b) := by
  simp [Statement, encode, encR0, encMul, encV, encT, encS, isLong]
theorem subW (d a b : Reg) : Statement (.subW d a b) := by
  simp [Statement, encode, encR0, encMul, encV, encT, encS, isLong]
theorem bandW (d a b : Reg) : Statement (.bandW d a b) := by
  simp [Statement, encode, encR0, encMul, encV, encT, encS, isLong]
theorem borW (d a b : Reg) : Statement (.borW d a b) := by
  simp [Statement, encode, encR0, encMul, encV, encT, encS, isLong]
theorem bxorW (d a b : Reg) : Statement (.bxorW d a b) := by
  simp [Statement, encode, encR0, encMul, encV, encT, encS, isLong]
theorem bandnW (d a b : Reg) : Statement (.bandnW d a b) := by
  simp [Statement, encode, encR0, encMul, encV, encT, encS, isLong]
theorem shlW (d a b : Reg) : Statement (.shlW d a b) := by
  simp [Statement, encode, encR0, encMul, encV, encT, encS, isLong]
theorem shrW (d a b : Reg) : Statement (.shrW d a b) := by
  simp [Statement, encode, encR0, encMul, encV, encT, encS, isLong]
theorem sraW (d a b : Reg) : Statement (.sraW d a b) := by
  simp [Statement, encode, encR0, encMul, encV, encT, encS, isLong]
theorem rolW (d a b : Reg) : Statement (.rolW d a b) := by
  simp [Statement, encode, encR0, encMul, encV, encT, encS, isLong]
theorem minW (d a b : Reg) : Statement (.minW d a b) := by
  simp [Statement, encode, encR0, encMul, encV, encT, encS, isLong]
theorem maxW (d a b : Reg) : Statement (.maxW d a b) := by
  simp [Statement, encode, encR0, encMul, encV, encT, encS, isLong]
theorem minnW (d a b : Reg) : Statement (.minnW d a b) := by
  simp [Statement, encode, encR0, encMul, encV, encT, encS, isLong]
theorem maxnW (d a b : Reg) : Statement (.maxnW d a b) := by
  simp [Statement, encode, encR0, encMul, encV, encT, encS, isLong]
theorem sltW (d a b : Reg) : Statement (.sltW d a b) := by
  simp [Statement, encode, encR0, encMul, encV, encT, encS, isLong]
theorem sltnW (d a b : Reg) : Statement (.sltnW d a b) := by
  simp [Statement, encode, encR0, encMul, encV, encT, encS, isLong]
theorem seqW (d a b : Reg) : Statement (.seqW d a b) := by
  simp [Statement, encode, encR0, encMul, encV, encT, encS, isLong]
theorem selW (d a b : Reg) : Statement (.selW d a b) := by
  simp [Statement, encode, encR0, encMul, encV, encT, encS, isLong]
theorem clzW (d a : Reg) : Statement (.clzW d a) := by
  simp [Statement, encode, encR0, encMul, encV, encT, encS, isLong]
theorem ctzW (d a : Reg) : Statement (.ctzW d a) := by
  simp [Statement, encode, encR0, encMul, encV, encT, encS, isLong]
theorem popW (d a : Reg) : Statement (.popW d a) := by
  simp [Statement, encode, encR0, encMul, encV, encT, encS, isLong]
theorem bswapW (d a : Reg) : Statement (.bswapW d a) := by
  simp [Statement, encode, encR0, encMul, encV, encT, encS, isLong]
theorem mul (look : BitVec 4) (d a b : Reg) : Statement (.mul look d a b) := by
  simp [Statement, encode, encR0, encMul, encV, encT, encS, isLong]
theorem mulh (look : BitVec 4) (d a b : Reg) : Statement (.mulh look d a b) := by
  simp [Statement, encode, encR0, encMul, encV, encT, encS, isLong]
theorem mulhn (look : BitVec 4) (d a b : Reg) : Statement (.mulhn look d a b) := by
  simp [Statement, encode, encR0, encMul, encV, encT, encS, isLong]
theorem div (look : BitVec 4) (d a b : Reg) : Statement (.div look d a b) := by
  simp [Statement, encode, encR0, encMul, encV, encT, encS, isLong]
theorem divn (look : BitVec 4) (d a b : Reg) : Statement (.divn look d a b) := by
  simp [Statement, encode, encR0, encMul, encV, encT, encS, isLong]
theorem rem (look : BitVec 4) (d a b : Reg) : Statement (.rem look d a b) := by
  simp [Statement, encode, encR0, encMul, encV, encT, encS, isLong]
theorem remn (look : BitVec 4) (d a b : Reg) : Statement (.remn look d a b) := by
  simp [Statement, encode, encR0, encMul, encV, encT, encS, isLong]
theorem mulW (look : BitVec 4) (d a b : Reg) : Statement (.mulW look d a b) := by
  simp [Statement, encode, encR0, encMul, encV, encT, encS, isLong]
theorem mulhW (look : BitVec 4) (d a b : Reg) : Statement (.mulhW look d a b) := by
  simp [Statement, encode, encR0, encMul, encV, encT, encS, isLong]
theorem mulhnW (look : BitVec 4) (d a b : Reg) : Statement (.mulhnW look d a b) := by
  simp [Statement, encode, encR0, encMul, encV, encT, encS, isLong]
theorem divW (look : BitVec 4) (d a b : Reg) : Statement (.divW look d a b) := by
  simp [Statement, encode, encR0, encMul, encV, encT, encS, isLong]
theorem divnW (look : BitVec 4) (d a b : Reg) : Statement (.divnW look d a b) := by
  simp [Statement, encode, encR0, encMul, encV, encT, encS, isLong]
theorem remW (look : BitVec 4) (d a b : Reg) : Statement (.remW look d a b) := by
  simp [Statement, encode, encR0, encMul, encV, encT, encS, isLong]
theorem remnW (look : BitVec 4) (d a b : Reg) : Statement (.remnW look d a b) := by
  simp [Statement, encode, encR0, encMul, encV, encT, encS, isLong]
theorem addImm (d a : Reg) (imm : BitVec 14) : Statement (.addImm d a imm) := by
  simp [Statement, encode, encR0, encMul, encV, encT, encS, isLong]
theorem bandImm (d a : Reg) (imm : BitVec 14) : Statement (.bandImm d a imm) := by
  simp [Statement, encode, encR0, encMul, encV, encT, encS, isLong]
theorem borImm (d a : Reg) (imm : BitVec 14) : Statement (.borImm d a imm) := by
  simp [Statement, encode, encR0, encMul, encV, encT, encS, isLong]
theorem bxorImm (d a : Reg) (imm : BitVec 14) : Statement (.bxorImm d a imm) := by
  simp [Statement, encode, encR0, encMul, encV, encT, encS, isLong]
theorem sltImm (d a : Reg) (imm : BitVec 14) : Statement (.sltImm d a imm) := by
  simp [Statement, encode, encR0, encMul, encV, encT, encS, isLong]
theorem sltnImm (d a : Reg) (imm : BitVec 14) : Statement (.sltnImm d a imm) := by
  simp [Statement, encode, encR0, encMul, encV, encT, encS, isLong]
theorem shlImm (d a : Reg) (n : BitVec 6) : Statement (.shlImm d a n) := by
  simp [Statement, encode, encR0, encMul, encV, encT, encS, isLong]
theorem shrImm (d a : Reg) (n : BitVec 6) : Statement (.shrImm d a n) := by
  simp [Statement, encode, encR0, encMul, encV, encT, encS, isLong]
theorem sraImm (d a : Reg) (n : BitVec 6) : Statement (.sraImm d a n) := by
  simp [Statement, encode, encR0, encMul, encV, encT, encS, isLong]
theorem rolImm (d a : Reg) (n : BitVec 6) : Statement (.rolImm d a n) := by
  simp [Statement, encode, encR0, encMul, encV, encT, encS, isLong]
theorem addWImm (d a : Reg) (imm : BitVec 14) : Statement (.addWImm d a imm) := by
  simp [Statement, encode, encR0, encMul, encV, encT, encS, isLong]
theorem extI (d a : Reg) (lenm pos : BitVec 6) : Statement (.extI d a lenm pos) := by
  simp [Statement, encode, encR0, encMul, encV, encT, encS, isLong]
theorem extN (d a : Reg) (lenm pos : BitVec 6) : Statement (.extN d a lenm pos) := by
  simp [Statement, encode, encR0, encMul, encV, encT, encS, isLong]
theorem ins (d a : Reg) (lenm pos : BitVec 6) : Statement (.ins d a lenm pos) := by
  simp [Statement, encode, encR0, encMul, encV, encT, encS, isLong]
theorem lea (d a b : Reg) (sh : BitVec 3) : Statement (.lea d a b sh) := by
  simp [Statement, encode, encR0, encMul, encV, encT, encS, isLong]
theorem lpc (d : Reg) (off : BitVec 19) : Statement (.lpc d off) := by
  simp [Statement, encode, encR0, encMul, encV, encT, encS, isLong]
theorem ldI8 (look : BitVec 4) (d a : Reg) (imm : BitVec 10) : Statement (.ldI8 look d a imm) := by
  simp [Statement, encode, encR0, encMul, encV, encT, encS, isLong]
theorem ldN8 (look : BitVec 4) (d a : Reg) (imm : BitVec 10) : Statement (.ldN8 look d a imm) := by
  simp [Statement, encode, encR0, encMul, encV, encT, encS, isLong]
theorem ldI16 (look : BitVec 4) (d a : Reg) (imm : BitVec 10) : Statement (.ldI16 look d a imm) := by
  simp [Statement, encode, encR0, encMul, encV, encT, encS, isLong]
theorem ldN16 (look : BitVec 4) (d a : Reg) (imm : BitVec 10) : Statement (.ldN16 look d a imm) := by
  simp [Statement, encode, encR0, encMul, encV, encT, encS, isLong]
theorem ldI32 (look : BitVec 4) (d a : Reg) (imm : BitVec 10) : Statement (.ldI32 look d a imm) := by
  simp [Statement, encode, encR0, encMul, encV, encT, encS, isLong]
theorem ldN32 (look : BitVec 4) (d a : Reg) (imm : BitVec 10) : Statement (.ldN32 look d a imm) := by
  simp [Statement, encode, encR0, encMul, encV, encT, encS, isLong]
theorem ld64 (look : BitVec 4) (d a : Reg) (imm : BitVec 10) : Statement (.ld64 look d a imm) := by
  simp [Statement, encode, encR0, encMul, encV, encT, encS, isLong]
theorem st8 (d a : Reg) (imm : BitVec 14) : Statement (.st8 d a imm) := by
  simp [Statement, encode, encR0, encMul, encV, encT, encS, isLong]
theorem st16 (d a : Reg) (imm : BitVec 14) : Statement (.st16 d a imm) := by
  simp [Statement, encode, encR0, encMul, encV, encT, encS, isLong]
theorem st32 (d a : Reg) (imm : BitVec 14) : Statement (.st32 d a imm) := by
  simp [Statement, encode, encR0, encMul, encV, encT, encS, isLong]
theorem st64 (d a : Reg) (imm : BitVec 14) : Statement (.st64 d a imm) := by
  simp [Statement, encode, encR0, encMul, encV, encT, encS, isLong]
theorem ldp (look : BitVec 4) (d a b : Reg) (off : BitVec 5) : Statement (.ldp look d a b off) := by
  simp [Statement, encode, encR0, encMul, encV, encT, encS, isLong]
theorem stp (d a b : Reg) (off : BitVec 5) : Statement (.stp d a b off) := by
  simp [Statement, encode, encR0, encMul, encV, encT, encS, isLong]
theorem bCc (c : Cond) (a b : Reg) (off : BitVec 11) : Statement (.bCc c a b off) := by
  simp [Statement, encode, encR0, encMul, encV, encT, encS, isLong]
theorem dbnz (a : Reg) (off : BitVec 11) : Statement (.dbnz a off) := by
  simp [Statement, encode, encR0, encMul, encV, encT, encS, isLong]
theorem j (off : BitVec 24) : Statement (.j off) := by
  simp [Statement, encode, encR0, encMul, encV, encT, encS, isLong]
theorem call (off : BitVec 24) : Statement (.call off) := by
  simp [Statement, encode, encR0, encMul, encV, encT, encS, isLong]
theorem jr (a : Reg) : Statement (.jr a) := by
  simp [Statement, encode, encR0, encMul, encV, encT, encS, isLong]
theorem callr (a : Reg) : Statement (.callr a) := by
  simp [Statement, encode, encR0, encMul, encV, encT, encS, isLong]
theorem li (d : Reg) (imm : BitVec 46) : Statement (.li d imm) := by
  simp [Statement, encode, encR0, encMul, encV, encT, encS, isLong]
theorem lih (d : Reg) (imm : BitVec 32) : Statement (.lih d imm) := by
  simp [Statement, encode, encR0, encMul, encV, encT, encS, isLong]
theorem addl (d a : Reg) (imm : BitVec 32) : Statement (.addl d a imm) := by
  simp [Statement, encode, encR0, encMul, encV, encT, encS, isLong]
theorem bCcLong (c : Cond) (a b : Reg) (off : BitVec 32) : Statement (.bCcLong c a b off) := by
  simp [Statement, encode, encR0, encMul, encV, encT, encS, isLong]
theorem jLong (off : BitVec 32) : Statement (.jLong off) := by
  simp [Statement, encode, encR0, encMul, encV, encT, encS, isLong]
theorem callLong (off : BitVec 32) : Statement (.callLong off) := by
  simp [Statement, encode, encR0, encMul, encV, encT, encS, isLong]
theorem pfx (p : Pfx) : Statement (.pfx p) := by
  simp [Statement, encode, encR0, encMul, encV, encT, encS, isLong]
theorem vadd (m : Mask) (t : VTy) (d a b : Reg) : Statement (.vadd m t d a b) := by
  simp [Statement, encode, encR0, encMul, encV, encT, encS, isLong]
theorem vsub (m : Mask) (t : VTy) (d a b : Reg) : Statement (.vsub m t d a b) := by
  simp [Statement, encode, encR0, encMul, encV, encT, encS, isLong]
theorem vmul (m : Mask) (t : VTy) (d a b : Reg) : Statement (.vmul m t d a b) := by
  simp [Statement, encode, encR0, encMul, encV, encT, encS, isLong]
theorem vmin (m : Mask) (t : VTy) (d a b : Reg) : Statement (.vmin m t d a b) := by
  simp [Statement, encode, encR0, encMul, encV, encT, encS, isLong]
theorem vmax (m : Mask) (t : VTy) (d a b : Reg) : Statement (.vmax m t d a b) := by
  simp [Statement, encode, encR0, encMul, encV, encT, encS, isLong]
theorem vfma (m : Mask) (t : VTy) (d a b : Reg) : Statement (.vfma m t d a b) := by
  simp [Statement, encode, encR0, encMul, encV, encT, encS, isLong]
theorem vfms (m : Mask) (t : VTy) (d a b : Reg) : Statement (.vfms m t d a b) := by
  simp [Statement, encode, encR0, encMul, encV, encT, encS, isLong]
theorem vdiv (m : Mask) (t : VTy) (d a b : Reg) : Statement (.vdiv m t d a b) := by
  simp [Statement, encode, encR0, encMul, encV, encT, encS, isLong]
theorem vabs (m : Mask) (t : VTy) (d a : Reg) : Statement (.vabs m t d a) := by
  simp [Statement, encode, encR0, encMul, encV, encT, encS, isLong]
theorem vneg (m : Mask) (t : VTy) (d a : Reg) : Statement (.vneg m t d a) := by
  simp [Statement, encode, encR0, encMul, encV, encT, encS, isLong]
theorem vsqrt (m : Mask) (t : VTy) (d a : Reg) : Statement (.vsqrt m t d a) := by
  simp [Statement, encode, encR0, encMul, encV, encT, encS, isLong]
theorem vrsq (m : Mask) (t : VTy) (d a : Reg) : Statement (.vrsq m t d a) := by
  simp [Statement, encode, encR0, encMul, encV, encT, encS, isLong]
theorem vexp2 (m : Mask) (t : VTy) (d a : Reg) : Statement (.vexp2 m t d a) := by
  simp [Statement, encode, encR0, encMul, encV, encT, encS, isLong]
theorem vlog2 (m : Mask) (t : VTy) (d a : Reg) : Statement (.vlog2 m t d a) := by
  simp [Statement, encode, encR0, encMul, encV, encT, encS, isLong]
theorem vrcp (m : Mask) (t : VTy) (d a : Reg) : Statement (.vrcp m t d a) := by
  simp [Statement, encode, encR0, encMul, encV, encT, encS, isLong]
theorem vand (m : Mask) (t : VTy) (d a b : Reg) : Statement (.vand m t d a b) := by
  simp [Statement, encode, encR0, encMul, encV, encT, encS, isLong]
theorem vor (m : Mask) (t : VTy) (d a b : Reg) : Statement (.vor m t d a b) := by
  simp [Statement, encode, encR0, encMul, encV, encT, encS, isLong]
theorem vxor (m : Mask) (t : VTy) (d a b : Reg) : Statement (.vxor m t d a b) := by
  simp [Statement, encode, encR0, encMul, encV, encT, encS, isLong]
theorem vandn (m : Mask) (t : VTy) (d a b : Reg) : Statement (.vandn m t d a b) := by
  simp [Statement, encode, encR0, encMul, encV, encT, encS, isLong]
theorem vshl (m : Mask) (t : VTy) (d a b : Reg) : Statement (.vshl m t d a b) := by
  simp [Statement, encode, encR0, encMul, encV, encT, encS, isLong]
theorem vshr (m : Mask) (t : VTy) (d a b : Reg) : Statement (.vshr m t d a b) := by
  simp [Statement, encode, encR0, encMul, encV, encT, encS, isLong]
theorem vsra (m : Mask) (t : VTy) (d a b : Reg) : Statement (.vsra m t d a b) := by
  simp [Statement, encode, encR0, encMul, encV, encT, encS, isLong]
theorem vcmp (c : VCond) (m : Mask) (t : VTy) (d a b : Reg) : Statement (.vcmp c m t d a b) := by
  simp [Statement, encode, encR0, encMul, encV, encT, encS, isLong]
theorem vsel (vm : BitVec 3) (t : VTy) (d a b : Reg) : Statement (.vsel vm t d a b) := by
  simp [Statement, encode, encR0, encMul, encV, encT, encS, isLong]
theorem mand (d a b : Reg) : Statement (.mand d a b) := by
  simp [Statement, encode, encR0, encMul, encV, encT, encS, isLong]
theorem mor (d a b : Reg) : Statement (.mor d a b) := by
  simp [Statement, encode, encR0, encMul, encV, encT, encS, isLong]
theorem mxor (d a b : Reg) : Statement (.mxor d a b) := by
  simp [Statement, encode, encR0, encMul, encV, encT, encS, isLong]
theorem mnot (d a : Reg) : Statement (.mnot d a) := by
  simp [Statement, encode, encR0, encMul, encV, encT, encS, isLong]
theorem mpop (d a : Reg) : Statement (.mpop d a) := by
  simp [Statement, encode, encR0, encMul, encV, encT, encS, isLong]
theorem mfirst (d a : Reg) : Statement (.mfirst d a) := by
  simp [Statement, encode, encR0, encMul, encV, encT, encS, isLong]
theorem vcvt (m : Mask) (t s : VTy) (d a : Reg) : Statement (.vcvt m t src d a) := by
  simp [Statement, encode, encR0, encMul, encV, encT, encS, isLong]
theorem vcvtFromView (m : Mask) (t : VTy) (k : BitVec 3) (d a : Reg) : Statement (.vcvtFromView m t k d a) := by
  simp [Statement, encode, encR0, encMul, encV, encT, encS, isLong]
theorem vcvtToView (m : Mask) (t : VTy) (k : BitVec 3) (d a : Reg) : Statement (.vcvtToView m t k d a) := by
  simp [Statement, encode, encR0, encMul, encV, encT, encS, isLong]
theorem vpack (m : Mask) (t : VTy) (d a b : Reg) : Statement (.vpack m t d a b) := by
  simp [Statement, encode, encR0, encMul, encV, encT, encS, isLong]
theorem vunpack (m : Mask) (t : VTy) (d a : Reg) (h : Bool) : Statement (.vunpack m t d a h) := by
  simp [Statement, encode, encR0, encMul, encV, encT, encS, isLong]
theorem vperm (m : Mask) (t : VTy) (d a b : Reg) : Statement (.vperm m t d a b) := by
  simp [Statement, encode, encR0, encMul, encV, encT, encS, isLong]
theorem vslide (m : Mask) (t : VTy) (d a b : Reg) : Statement (.vslide m t d a b) := by
  simp [Statement, encode, encR0, encMul, encV, encT, encS, isLong]
theorem vbcast (m : Mask) (t : VTy) (d a : Reg) : Statement (.vbcast m t d a) := by
  simp [Statement, encode, encR0, encMul, encV, encT, encS, isLong]
theorem vextr (t : VTy) (d a b : Reg) : Statement (.vextr t d a b) := by
  simp [Statement, encode, encR0, encMul, encV, encT, encS, isLong]
theorem vins (t : VTy) (d a b : Reg) : Statement (.vins t d a b) := by
  simp [Statement, encode, encR0, encMul, encV, encT, encS, isLong]
theorem vidx (m : Mask) (t : VTy) (d a b : Reg) : Statement (.vidx m t d a b) := by
  simp [Statement, encode, encR0, encMul, encV, encT, encS, isLong]
theorem vredsum (vm : BitVec 3) (t : VTy) (d a : Reg) : Statement (.vredsum vm t d a) := by
  simp [Statement, encode, encR0, encMul, encV, encT, encS, isLong]
theorem vredmax (vm : BitVec 3) (t : VTy) (d a : Reg) : Statement (.vredmax vm t d a) := by
  simp [Statement, encode, encR0, encMul, encV, encT, encS, isLong]
theorem vredmin (vm : BitVec 3) (t : VTy) (d a : Reg) : Statement (.vredmin vm t d a) := by
  simp [Statement, encode, encR0, encMul, encV, encT, encS, isLong]
theorem vargmax (vm : BitVec 3) (t : VTy) (d a b : Reg) : Statement (.vargmax vm t d a b) := by
  simp [Statement, encode, encR0, encMul, encV, encT, encS, isLong]
theorem vtopk (vm : BitVec 3) (t : VTy) (d a b : Reg) : Statement (.vtopk vm t d a b) := by
  simp [Statement, encode, encR0, encMul, encV, encT, encS, isLong]
theorem vbucket (vm : BitVec 3) (t : VTy) (d a : Reg) : Statement (.vbucket vm t d a) := by
  simp [Statement, encode, encR0, encMul, encV, encT, encS, isLong]
theorem vquant (t : VTy) (d a : Reg) : Statement (.vquant t d a) := by
  simp [Statement, encode, encR0, encMul, encV, encT, encS, isLong]
theorem vscale (m : Mask) (t : VTy) (d a b : Reg) : Statement (.vscale m t d a b) := by
  simp [Statement, encode, encR0, encMul, encV, encT, encS, isLong]
theorem vsrnd (m : Mask) (t : VTy) (d a : Reg) : Statement (.vsrnd m t d a) := by
  simp [Statement, encode, encR0, encMul, encV, encT, encS, isLong]
theorem vsrndView (m : Mask) (k : BitVec 3) (d a : Reg) : Statement (.vsrndView m k d a) := by
  simp [Statement, encode, encR0, encMul, encV, encT, encS, isLong]
theorem vmov (m : Mask) (t : VTy) (d a : Reg) : Statement (.vmov m t d a) := by
  simp [Statement, encode, encR0, encMul, encV, encT, encS, isLong]
theorem vli (m : Mask) (t : VTy) (d : Reg) (imm : BitVec 32) : Statement (.vli m t d imm) := by
  simp [Statement, encode, encR0, encMul, encV, encT, encS, isLong]
theorem vld (look : BitVec 4) (m : Mask) (d a : Reg) (imm : BitVec 6) : Statement (.vld look m d a imm) := by
  simp [Statement, encode, encR0, encMul, encV, encT, encS, isLong]
theorem vldb (look : BitVec 4) (d a : Reg) (imm : BitVec 6) : Statement (.vldb look d a imm) := by
  simp [Statement, encode, encR0, encMul, encV, encT, encS, isLong]
theorem vst (vm : BitVec 3) (d a : Reg) (imm : BitVec 6) : Statement (.vst vm d a imm) := by
  simp [Statement, encode, encR0, encMul, encV, encT, encS, isLong]
theorem vlds (m : Mask) (t : VTy) (d a b : Reg) : Statement (.vlds m t d a b) := by
  simp [Statement, encode, encR0, encMul, encV, encT, encS, isLong]
theorem vsts (m : Mask) (t : VTy) (d a b : Reg) : Statement (.vsts m t d a b) := by
  simp [Statement, encode, encR0, encMul, encV, encT, encS, isLong]
theorem vgather (m : Mask) (t : VTy) (d a b : Reg) : Statement (.vgather m t d a b) := by
  simp [Statement, encode, encR0, encMul, encV, encT, encS, isLong]
theorem vscatter (m : Mask) (t : VTy) (d a b : Reg) : Statement (.vscatter m t d a b) := by
  simp [Statement, encode, encR0, encMul, encV, encT, encS, isLong]
theorem tmma (look acc : BitVec 4) (a b : Reg) : Statement (.tmma look acc a b) := by
  simp [Statement, encode, encR0, encMul, encV, encT, encS, isLong]
theorem tmmat (look acc : BitVec 4) (a b : Reg) : Statement (.tmmat look acc a b) := by
  simp [Statement, encode, encR0, encMul, encV, encT, encS, isLong]
theorem tzero (look acc : BitVec 4) : Statement (.tzero look acc) := by
  simp [Statement, encode, encR0, encMul, encV, encT, encS, isLong]
theorem tld (look acc : BitVec 4) (a : Reg) : Statement (.tld look acc a) := by
  simp [Statement, encode, encR0, encMul, encV, encT, encS, isLong]
theorem tst (look acc : BitVec 4) (a : Reg) : Statement (.tst look acc a) := by
  simp [Statement, encode, encR0, encMul, encV, encT, encS, isLong]
theorem tfetch (look : BitVec 4) (a : Reg) : Statement (.tfetch look a) := by
  simp [Statement, encode, encR0, encMul, encV, encT, encS, isLong]
theorem tunpin (look : BitVec 4) (a : Reg) : Statement (.tunpin look a) := by
  simp [Statement, encode, encR0, encMul, encV, encT, encS, isLong]
theorem tgeom (look : BitVec 4) (n : BitVec 10) (a : Reg) : Statement (.tgeom look n a) := by
  simp [Statement, encode, encR0, encMul, encV, encT, encS, isLong]
theorem tadd (look acc src : BitVec 4) : Statement (.tadd look acc src) := by
  simp [Statement, encode, encR0, encMul, encV, encT, encS, isLong]
theorem tscale (look acc : BitVec 4) (va : Reg) : Statement (.tscale look acc va) := by
  simp [Statement, encode, encR0, encMul, encV, encT, encS, isLong]
theorem trget (look acc : BitVec 4) (d a : Reg) : Statement (.trget look acc d a) := by
  simp [Statement, encode, encR0, encMul, encV, encT, encS, isLong]
theorem trput (look acc : BitVec 4) (a b : Reg) : Statement (.trput look acc a b) := by
  simp [Statement, encode, encR0, encMul, encV, encT, encS, isLong]
theorem trmax (look acc : BitVec 4) (d : Reg) : Statement (.trmax look acc d) := by
  simp [Statement, encode, encR0, encMul, encV, encT, encS, isLong]
theorem trsum (look acc : BitVec 4) (d : Reg) : Statement (.trsum look acc d) := by
  simp [Statement, encode, encR0, encMul, encV, encT, encS, isLong]
theorem tquant (look acc : BitVec 4) (a : Reg) : Statement (.tquant look acc a) := by
  simp [Statement, encode, encR0, encMul, encV, encT, encS, isLong]
theorem kadd (a b : Reg) : Statement (.kadd a b) := by
  simp [Statement, encode, encR0, encMul, encV, encT, encS, isLong]
theorem kaddi (a : Reg) (imm : BitVec 32) : Statement (.kaddi a imm) := by
  simp [Statement, encode, encR0, encMul, encV, encT, encS, isLong]
theorem kwait (a b : Reg) : Statement (.kwait a b) := by
  simp [Statement, encode, encR0, encMul, encV, encT, encS, isLong]
theorem kread (look : BitVec 4) (d a : Reg) : Statement (.kread look d a) := by
  simp [Statement, encode, encR0, encMul, encV, encT, encS, isLong]
theorem kdraw (look : BitVec 4) (d a : Reg) : Statement (.kdraw look d a) := by
  simp [Statement, encode, encR0, encMul, encV, encT, encS, isLong]
theorem kset (a b : Reg) : Statement (.kset a b) := by
  simp [Statement, encode, encR0, encMul, encV, encT, encS, isLong]
theorem rld (look : BitVec 4) (w : Size) (d a : Reg) : Statement (.rld look w d a) := by
  simp [Statement, encode, encR0, encMul, encV, encT, encS, isLong]
theorem rst (w : Size) (a b : Reg) : Statement (.rst w a b) := by
  simp [Statement, encode, encR0, encMul, encV, encT, encS, isLong]
theorem radd (look : BitVec 4) (w : Size) (d a b : Reg) : Statement (.radd look w d a b) := by
  simp [Statement, encode, encR0, encMul, encV, encT, encS, isLong]
theorem raddPosted (w : Size) (a b : Reg) : Statement (.raddPosted w a b) := by
  simp [Statement, encode, encR0, encMul, encV, encT, encS, isLong]
theorem rcas (look : BitVec 4) (w : Size) (d a b : Reg) : Statement (.rcas look w d a b) := by
  simp [Statement, encode, encR0, encMul, encV, encT, encS, isLong]
theorem rswp (look : BitVec 4) (w : Size) (d a b : Reg) : Statement (.rswp look w d a b) := by
  simp [Statement, encode, encR0, encMul, encV, encT, encS, isLong]
theorem padd (t : PTy) (a b : Reg) : Statement (.padd t a b) := by
  simp [Statement, encode, encR0, encMul, encV, encT, encS, isLong]
theorem pmin (t : PTy) (a b : Reg) : Statement (.pmin t a b) := by
  simp [Statement, encode, encR0, encMul, encV, encT, encS, isLong]
theorem pmax (t : PTy) (a b : Reg) : Statement (.pmax t a b) := by
  simp [Statement, encode, encR0, encMul, encV, encT, encS, isLong]
theorem por (t : PTy) (a b : Reg) : Statement (.por t a b) := by
  simp [Statement, encode, encR0, encMul, encV, encT, encS, isLong]
theorem cut : Statement (.cut) := by
  simp [Statement, encode, encR0, encMul, encV, encT, encS, isLong]
theorem hold : Statement (.hold) := by
  simp [Statement, encode, encR0, encMul, encV, encT, encS, isLong]
theorem unhold : Statement (.unhold) := by
  simp [Statement, encode, encR0, encMul, encV, encT, encS, isLong]
theorem chk : Statement (.chk) := by
  simp [Statement, encode, encR0, encMul, encV, encT, encS, isLong]
theorem xer (look : BitVec 4) (n : BitVec 10) (d : Reg) : Statement (.xer look n d) := by
  simp [Statement, encode, encR0, encMul, encV, encT, encS, isLong]
theorem xeGo (look : BitVec 4) (d : Reg) : Statement (.xeGo look d) := by
  simp [Statement, encode, encR0, encMul, encV, encT, encS, isLong]
theorem ceGo (look : BitVec 4) (d : Reg) : Statement (.ceGo look d) := by
  simp [Statement, encode, encR0, encMul, encV, encT, encS, isLong]
theorem xew (n : BitVec 10) (a : Reg) : Statement (.xew n a) := by
  simp [Statement, encode, encR0, encMul, encV, encT, encS, isLong]
theorem ceJoin (a : Reg) : Statement (.ceJoin a) := by
  simp [Statement, encode, encR0, encMul, encV, encT, encS, isLong]
theorem compose (d a : Reg) : Statement (.compose d a) := by
  simp [Statement, encode, encR0, encMul, encV, encT, encS, isLong]
theorem release : Statement (.release) := by
  simp [Statement, encode, encR0, encMul, encV, encT, encS, isLong]
theorem bq (d : Reg) : Statement (.bq d) := by
  simp [Statement, encode, encR0, encMul, encV, encT, encS, isLong]
theorem launch (a : Reg) : Statement (.launch a) := by
  simp [Statement, encode, encR0, encMul, encV, encT, encS, isLong]
theorem nop : Statement (.nop) := by
  simp [Statement, encode, encR0, encMul, encV, encT, encS, isLong]
theorem trap (n : BitVec 5) : Statement (.trap n) := by
  simp [Statement, encode, encR0, encMul, encV, encT, encS, isLong]
theorem tret : Statement (.tret) := by
  simp [Statement, encode, encR0, encMul, encV, encT, encS, isLong]
theorem brk (n : BitVec 5) : Statement (.brk n) := by
  simp [Statement, encode, encR0, encMul, encV, encT, encS, isLong]
theorem halt : Statement (.halt) := by
  simp [Statement, encode, encR0, encMul, encV, encT, encS, isLong]
theorem idle : Statement (.idle) := by
  simp [Statement, encode, encR0, encMul, encV, encT, encS, isLong]
theorem sget (n : BitVec 12) (d : Reg) : Statement (.sget n d) := by
  simp [Statement, encode, encR0, encMul, encV, encT, encS, isLong]
theorem sset (n : BitVec 12) (a : Reg) : Statement (.sset n a) := by
  simp [Statement, encode, encR0, encMul, encV, encT, encS, isLong]
theorem lflush (a : Reg) : Statement (.lflush a) := by
  simp [Statement, encode, encR0, encMul, encV, encT, encS, isLong]
theorem linv (a : Reg) : Statement (.linv a) := by
  simp [Statement, encode, encR0, encMul, encV, encT, encS, isLong]
theorem tlbinv (a : Reg) : Statement (.tlbinv a) := by
  simp [Statement, encode, encR0, encMul, encV, encT, encS, isLong]
theorem hsave (a : Reg) : Statement (.hsave a) := by
  simp [Statement, encode, encR0, encMul, encV, encT, encS, isLong]
theorem hload (a : Reg) : Statement (.hload a) := by
  simp [Statement, encode, encR0, encMul, encV, encT, encS, isLong]
theorem xfence : Statement (.xfence) := by
  simp [Statement, encode, encR0, encMul, encV, encT, encS, isLong]
theorem unallocatedEncoding (sub : BitVec 4) (val : Word) : Statement (.unallocatedEncoding sub val) := by simp [Statement, encode]
theorem instructionFetchFault (cause : BitVec 8) (sub : BitVec 4) (val : Word) : Statement (.instructionFetchFault cause sub val) := by simp [Statement, encode]
theorem pendingDrain (c : Sid) : Statement (.pendingDrain c) := by simp [Statement, encode]
theorem chunkGrant (c : Sid) : Statement (.chunkGrant c) := by simp [Statement, encode]
theorem soloSlotGrant (c : Sid) : Statement (.soloSlotGrant c) := by simp [Statement, encode]
theorem resultReturn (c : Sid) : Statement (.resultReturn c) := by simp [Statement, encode]
theorem steppingReexecution (c : Sid) : Statement (.steppingReexecution c) := by simp [Statement, encode]
theorem trapEntry (c : Sid) : Statement (.trapEntry c) := by simp [Statement, encode]
theorem quantumEnd (group : Nat) : Statement (.quantumEnd group) := by simp [Statement, encode]
theorem counterAdd (op : Nat) : Statement (.counterAdd op) := by simp [Statement, encode]
theorem checkAndArm (op : Nat) : Statement (.checkAndArm op) := by simp [Statement, encode]
theorem counterDraw (op : Nat) : Statement (.counterDraw op) := by simp [Statement, encode]
theorem counterSet (op : Nat) : Statement (.counterSet op) := by simp [Statement, encode]
theorem spillRetry (op : Nat) : Statement (.spillRetry op) := by simp [Statement, encode]
theorem remoteOperation (op : Nat) : Statement (.remoteOperation op) := by simp [Statement, encode]
theorem postedAtomic (op : Nat) : Statement (.postedAtomic op) := by simp [Statement, encode]
theorem copyTransferStart (x : Nat) : Statement (.copyTransferStart x) := by simp [Statement, encode]
theorem copyBlockWrite (x block : Nat) : Statement (.copyBlockWrite x block) := by simp [Statement, encode]
theorem collectiveStart (k : Nat) : Statement (.collectiveStart k) := by simp [Statement, encode]
theorem collectivePartial (die : Nat) (p : Partial) : Statement (.collectivePartial die p) := by simp [Statement, encode]
theorem collectiveComplete (k : Nat) : Statement (.collectiveComplete k) := by simp [Statement, encode]
theorem heartbeatSend (port : Nat) : Statement (.heartbeatSend port) := by simp [Statement, encode]
theorem heartbeat (mod : Nat) : Statement (.heartbeat mod) := by simp [Statement, encode]
theorem heartbeatTimeout (mod : Nat) : Statement (.heartbeatTimeout mod) := by simp [Statement, encode]
theorem dieHeartbeatMiss (die : Nat) : Statement (.dieHeartbeatMiss die) := by simp [Statement, encode]
theorem dieFatalError (die : Nat) : Statement (.dieFatalError die) := by simp [Statement, encode]
theorem suspect (m : Nat) : Statement (.suspect m) := by simp [Statement, encode]
theorem propose (grp : Nat) (p : Proposal) : Statement (.propose grp p) := by simp [Statement, encode]
theorem ack (grp num mod : Nat) : Statement (.ack grp num mod) := by simp [Statement, encode]
theorem viewCommit (grp : Nat) (p : Proposal) : Statement (.viewCommit grp p) := by simp [Statement, encode]
theorem proposalTimeout (grp : Nat) : Statement (.proposalTimeout grp) := by simp [Statement, encode]
theorem holdTimeout (grp : Nat) : Statement (.holdTimeout grp) := by simp [Statement, encode]
theorem force (grp : Nat) : Statement (.force grp) := by simp [Statement, encode]
theorem joinreq (grp m : Nat) : Statement (.joinreq grp m) := by simp [Statement, encode]
theorem joinack (grp m : Nat) : Statement (.joinack grp m) := by simp [Statement, encode]
theorem flitReceive (port : Nat) (f : Flit) : Statement (.flitReceive port f) := by simp [Statement, encode]
theorem linkReplay (port lastGood : Nat) : Statement (.linkReplay port lastGood) := by simp [Statement, encode]
theorem portDown (port : Nat) : Statement (.portDown port) := by simp [Statement, encode]
theorem portUp (port : Nat) : Statement (.portUp port) := by simp [Statement, encode]
theorem hrd (off size : Nat) : Statement (.hrd off size) := by simp [Statement, encode]
theorem hwr (t : HostTarget) (data : BitVec 512) (mask : BitVec 64) : Statement (.hwr t data mask) := by simp [Statement, encode]
theorem hcadd (handle : Nat) (amount : BitVec 32) : Statement (.hcadd handle amount) := by simp [Statement, encode]
theorem peerReadTimeout (c : Sid) : Statement (.peerReadTimeout c) := by simp [Statement, encode]
theorem pageWalk (core : Nat) (va : Word) : Statement (.pageWalk core va) := by simp [Statement, encode]
theorem notificationRecord (die : Nat) : Statement (.notificationRecord die) := by simp [Statement, encode]
theorem writeBlockResume (c : Sid) : Statement (.writeBlockResume c) := by simp [Statement, encode]
theorem tfetchFill (fill : Nat) : Statement (.tfetchFill fill) := by simp [Statement, encode]
theorem patrolScrub (pa : Nat) (r : ScrubResult) : Statement (.patrolScrub pa r) := by simp [Statement, encode]
theorem cethreshReached (u : RepairUnit) : Statement (.cethreshReached u) := by simp [Statement, encode]
theorem liveRetirement (u : RepairUnit) : Statement (.liveRetirement u) := by simp [Statement, encode]
theorem queuePoll (q : Nat) : Statement (.queuePoll q) := by simp [Statement, encode]
theorem recordFetch (q : Nat) : Statement (.recordFetch q) := by simp [Statement, encode]
theorem modeChange (q : Nat) : Statement (.modeChange q) := by simp [Statement, encode]
theorem footprintReserve (q : Nat) : Statement (.footprintReserve q) := by simp [Statement, encode]
theorem nodeReady (lid node : Nat) : Statement (.nodeReady lid node) := by simp [Statement, encode]
theorem instanceDispatch (lid node i core strand : Nat) : Statement (.instanceDispatch lid node i core strand) := by simp [Statement, encode]
theorem launchRetire (lid : Nat) : Statement (.launchRetire lid) := by simp [Statement, encode]
theorem preempt (lid victim core : Nat) : Statement (.preempt lid victim core) := by simp [Statement, encode]
theorem huskResume (lid core : Nat) : Statement (.huskResume lid core) := by simp [Statement, encode]
theorem twinThirdRun (c : Sid) (h : BitVec 64) : Statement (.twinThirdRun c h) := by simp [Statement, encode]
theorem droopStretch (cluster : Nat) : Statement (.droopStretch cluster) := by simp [Statement, encode]
theorem clockModeChange (cluster : Nat) : Statement (.clockModeChange cluster) := by simp [Statement, encode]
theorem elasticReturn (cluster : Nat) : Statement (.elasticReturn cluster) := by simp [Statement, encode]
theorem powerSample (watts hottest : Nat) : Statement (.powerSample watts hottest) := by simp [Statement, encode]
theorem dispatchThrottle : Statement (.dispatchThrottle) := by simp [Statement, encode]
theorem junctionTrip (die : Nat) : Statement (.junctionTrip die) := by simp [Statement, encode]
theorem idleDepthEntry (core : Nat) : Statement (.idleDepthEntry core) := by simp [Statement, encode]
theorem coreWake (core : Nat) : Statement (.coreWake core) := by simp [Statement, encode]
theorem watchDelivery (c : Sid) : Statement (.watchDelivery c) := by simp [Statement, encode]
theorem debugHalt (core : Nat) : Statement (.debugHalt core) := by simp [Statement, encode]
theorem debugResume (core : Nat) : Statement (.debugResume core) := by simp [Statement, encode]
theorem dbgstopStop (lid : Nat) : Statement (.dbgstopStop lid) := by simp [Statement, encode]
theorem dbgstopResume (lid : Nat) : Statement (.dbgstopResume lid) := by simp [Statement, encode]
theorem quiesceTimeout (core : Nat) : Statement (.quiesceTimeout core) := by simp [Statement, encode]
theorem dbgrecRead : Statement (.dbgrecRead) := by simp [Statement, encode]
theorem dbgstatRead : Statement (.dbgstatRead) := by simp [Statement, encode]
theorem debugStateWrite (c : Sid) (off : Nat) (v : Word) : Statement (.debugStateWrite c off v) := by simp [Statement, encode]
theorem watchpointArm (core n : Nat) (v : Word) : Statement (.watchpointArm core n v) := by simp [Statement, encode]
theorem traceArm (v : Word) : Statement (.traceArm v) := by simp [Statement, encode]
theorem traceTrigger (stop : Bool) : Statement (.traceTrigger stop) := by simp [Statement, encode]
theorem replayDivergence (lid : Nat) : Statement (.replayDivergence lid) := by simp [Statement, encode]
theorem dumpRequest (v : Word) : Statement (.dumpRequest v) := by simp [Statement, encode]
theorem registerWrite (r : DebugReg) (v : Word) : Statement (.registerWrite r v) := by simp [Statement, encode]
theorem coldStart (fails : List (List StartFailure)) : Statement (.coldStart fails) := by simp [Statement, encode]
theorem warmStart (fails : List (List StartFailure)) : Statement (.warmStart fails) := by simp [Statement, encode]
theorem keepMemoryWarmStart (fails : List (List StartFailure)) : Statement (.keepMemoryWarmStart fails) := by simp [Statement, encode]
theorem powerLoss : Statement (.powerLoss) := by simp [Statement, encode]
theorem keySlotLoad (slot : Nat) (key : Nat) : Statement (.keySlotLoad slot key) := by simp [Statement, encode]
theorem keySlotClear (slot : Nat) : Statement (.keySlotClear slot) := by simp [Statement, encode]
theorem storeWrite (w : StoreRecord) : Statement (.storeWrite w) := by simp [Statement, encode]
theorem groupEntryCreate (grp : Nat) (quorum : Bool) (full : List Nat) (rest : NotFull) : Statement (.groupEntryCreate grp quorum full rest) := by simp [Statement, encode]
theorem unlockToken (valid : Bool) : Statement (.unlockToken valid) := by simp [Statement, encode]
theorem launchTerminate (lid : Nat) : Statement (.launchTerminate lid) := by simp [Statement, encode]
theorem haltedStrandRestart (c : Sid) : Statement (.haltedStrandRestart c) := by simp [Statement, encode]
theorem correctedErrorWindow : Statement (.correctedErrorWindow) := by simp [Statement, encode]
theorem flashSlotWrite (slot version : Nat) (verifies : Bool) : Statement (.flashSlotWrite slot version verifies) := by simp [Statement, encode]
theorem clockModeChangeEnd (cluster : Nat) : Statement (.clockModeChangeEnd cluster) := by simp [Statement, encode]

end Sys2Proof.Laws.Words
end

