-- ==== Sys2Proof/Laws/Shapes.lean ====
section
/-! SUPPORT. The shapes of scalar instructions (R102 to R106): a register written from one or two others, and the flags that
a body may set. -/

namespace Sys2Proof.Machine

/-- `t` has gd = v and the pc behind the instruction, and nothing else changed. -/
def Puts (s t : State) (d : Reg) (v : Word) (len : Nat) : Prop :=
  gOf s t d = (if d = 0 then 0 else v) ∧ pcOf s t = pcAfter s len ∧ Keeps s t { g := [d] }

/-- A body that writes one register and completes. -/
theorem putsOf (s : State) (len : Nat) (d : Reg) (v : Word) (body : State → Ex Fx) (h : Runs s)
    (hb : body (begun s) = done (wg (begun s) d v)) : ∃ t, runBody s len body = .next t ∧ Puts s t d v len :=
  ⟨_, runBody_ok h hb, retire_wg s d v len⟩

/-- A readable register is read as it stands. -/
theorem rg_begun {s : State} {r : Reg} (h : Readable s r) : rg (begun s) r = .ok (s.arch.rg r) := by
  rw [rg_ok ((readable_begun s r).2 h), begun_arch]

/-- An instruction of two registers. -/
theorem alu_spec (f : Word → Word → Word) (d a b : Reg) (s : State) (h : Runs s) (ha : Readable s a) (hb : Readable s b) :
    ∃ t, alu f d a b s = .next t ∧ Puts s t d (f (s.arch.rg a) (s.arch.rg b)) 4 := by
  apply putsOf _ _ _ _ _ h
  simp only [rg_begun ha, rg_begun hb]
  rfl

/-- An instruction of one register. -/
theorem unary_spec (f : Word → Word) (d a : Reg) (s : State) (h : Runs s) (ha : Readable s a) :
    ∃ t, unary f d a s = .next t ∧ Puts s t d (f (s.arch.rg a)) 4 := by
  apply putsOf _ _ _ _ _ h
  simp only [rg_begun ha]
  rfl


theorem wg_me_opened (u : State) (d : Reg) (x : Word) : (wg u d x).me.opened.isSome = true := by simp [wg]

theorem stick_chunk (u : State) (f : Flagged) (h : u.me.opened.isSome = true) : (stick u f).chunk = u.chunk := by
  unfold stick; split
  · rfl
  · exact State.chunk_setArch _ _ h
theorem stickSF_chunk (u : State) (b : Bool) (h : u.me.opened.isSome = true) : (stickSF u b).chunk = u.chunk := by
  unfold stickSF; split
  · exact stick_chunk _ _ h
  · rfl
theorem stickSF_rg (u : State) (b : Bool) (r : Reg) : (stickSF u b).arch.rg r = u.arch.rg r := by
  unfold stickSF stick; split
  · split
    · rfl
    · simp
  · rfl
theorem stickSF_fcsr (u : State) (b : Bool) : (stickSF u b).arch.cr' 0x010 = if b then u.arch.fcsr ||| 0x4000 else u.arch.fcsr := by
  unfold stickSF stick noFlags Flagged.bits
  cases b <;> simp [Arch.cr'_wcr, Arch.fcsr]

theorem satNow_begun (s : State) : (pfxOf (begun s)).sat = satNow s := by
  rw [pfxOf_begun]; unfold satNow
  cases (chunkOf s s.cur).pfx <;> rfl

theorem wg_fcsr (u : State) (d : Reg) (x : Word) : (wg u d x).arch.fcsr = u.arch.fcsr := by
  rw [wg_arch]; unfold Arch.fcsr Arch.cr'; rw [Arch.cr_wg]

end Sys2Proof.Machine
end

