-- ==== Sys2Proof/Laws/Traps.lean ====
section
/-! SUPPORT. Taking a trap (R330, R23, R333): the fields of CAUSE, the trap registers, and all that `enterTrap` does. -/

namespace Sys2Proof.Machine

/-! ## CAUSE and the trap registers -/

/-- CAUSE field by field (Table 1.4). -/
theorem causeWord_fields (t : Trap) (p f : Bool) :
    (causeWord t p f).extractLsb' 0 8 = t.code ∧ (causeWord t p f).extractLsb' 8 4 = t.sub
    ∧ (causeWord t p f).getLsbD 12 = f ∧ (causeWord t p f).getLsbD 13 = p ∧ (causeWord t p f).toNat < 2 ^ 14 := by
  obtain ⟨code, sub, v⟩ := t
  have h1 := code.isLt
  have h2 := sub.isLt
  have e : (causeWord ⟨code, sub, v⟩ p f).toNat
      = (if p then 0x2000 else 0) + (if f then 0x1000 else 0) + sub.toNat * 0x100 + code.toNat := by
    unfold causeWord
    rw [BitVec.toNat_ofNat, Nat.mod_eq_of_lt]
    cases p <;> cases f <;> simp <;> omega
  refine ⟨?_, ?_, ?_, ?_, ?_⟩
  · apply BitVec.eq_of_toNat_eq
    rw [BitVec.extractLsb'_toNat, e, Nat.shiftRight_zero]
    cases p <;> cases f <;> simp <;> omega
  · apply BitVec.eq_of_toNat_eq
    rw [BitVec.extractLsb'_toNat, e, Nat.shiftRight_eq_div_pow]
    cases p <;> cases f <;> simp <;> omega
  · rw [← BitVec.testBit_toNat, e, Nat.testBit_eq_decide_div_mod_eq]
    cases p <;> cases f <;> simp <;> omega
  · rw [← BitVec.testBit_toNat, e, Nat.testBit_eq_decide_div_mod_eq]
    cases p <;> cases f <;> simp <;> omega
  · rw [e]; cases p <;> cases f <;> simp <;> omega

/-- The control registers that a trap writes, and the ones it leaves. -/
theorem trapArch_spec (a : Arch) (t : Trap) (pc : Word) (f : Bool) :
    (trapArch a t pc f).cr' 1 = causeWord t a.priv f ∧ (trapArch a t pc f).cr' 2 = pc &&& 0xFFFFFFFFFFFFFFFC
    ∧ (trapArch a t pc f).cr' 3 = t.val ∧ ∀ n, n ∉ [1, 2, 3] → (trapArch a t pc f).cr' n = a.cr' n := by
  have k : ∀ n, (trapArch a t pc f).cr' n
      = (((a.wcr 1 (causeWord t a.priv f)).wcr 2 (pc &&& 0xFFFFFFFFFFFFFFFC)).wcr 3 t.val).cr' n := fun _ => rfl
  refine ⟨?_, ?_, ?_, fun n hn => ?_⟩ <;> rw [k] <;> simp only [Arch.cr'_wcr] <;> simp_all


/-! ## Entry -/

/-- A write of a core's latch changes no strand. -/
theorem setLatch_strand (s : State) (c d : Sid) (x : Option Nat) :
    (s.setCore c.core { s.core c.core with latch := x }).strand d = s.strand d := by
  apply State.strand_setCore; rfl

/-- The state in which the handler starts: `enterTrap` but for what follows an absent handler. -/
def handlerEntered (s : State) (c : Sid) (t : Trap) (pc : Word) : State :=
  let s' := s.setCore c.core { s.core c.core with
    latch := if (s.core c.core).latch.isNone then some c.strand else (s.core c.core).latch }
  s'.setStrand c { s.strand c with
    arch := trapArch (s.strand c).arch t pc (s.core c.core).latch.isNone, run := .ready, sync := none,
    kw := none, opened := none, stepping := false, handler := true }

/-- A trap enters the handler, or stops the strand while TVEC is 0. -/
theorem enterTrap_eq (s : State) (c : Sid) (t : Trap) (pc : Word) :
    enterTrap s c t pc = if (s.strand c).arch.cr' 4 = 0 then unhandled (handlerEntered s c t pc) c else handlerEntered s c t pc := rfl

/-- An unhandled trap changes one strand, the launch unit's list and the debug records. -/
theorem unhandled_spec (s : State) (c : Sid) : OnlyStrand { s with lu := (unhandled s c).lu } (unhandled s c) c
    ∧ (unhandled s c).strand c = { s.strand c with run := .halted true, opened := none, handler := false, sync := none } := by
  have k : ∀ (u : State) (y : Strand), OnlyStrand { s with lu := u.lu } u c → u.strand c = y →
      ∀ n x, OnlyStrand { s with lu := (u.setLaunch n x).lu } (u.setLaunch n x) c ∧ (u.setLaunch n x).strand c = y :=
    fun u y h e n x => ⟨⟨h.1, h.2, h.3, h.4, h.5, h.6, h.7, h.8, h.9, h.10, rfl, h.12, h.13, h.14, h.15, h.16⟩, e⟩
  have h0 := (OnlyStrand.setStrand s c { s.strand c with run := .halted true, opened := none, handler := false, sync := none }).trans
    (OnlyStrand.debugRecord _ c 3 0 0 0 0)
  unfold unhandled
  dsimp only
  split
  · refine k _ _ ?_ (by simp) _ _
    exact ⟨h0.1, h0.2, h0.3, h0.4, h0.5, h0.6, h0.7, h0.8, h0.9, h0.10, rfl, h0.12, h0.13, h0.14, h0.15, h0.16⟩
  · refine ⟨?_, by simp⟩
    exact ⟨h0.1, h0.2, h0.3, h0.4, h0.5, h0.6, h0.7, h0.8, h0.9, h0.10, rfl, h0.12, h0.13, h0.14, h0.15, h0.16⟩

theorem handlerEntered_strand (s : State) (c : Sid) (t : Trap) (pc : Word) : (handlerEntered s c t pc).strand c = { s.strand c with
    arch := trapArch (s.strand c).arch t pc (s.core c.core).latch.isNone, run := .ready, sync := none,
    kw := none, opened := none, stepping := false, handler := true } := by simp [handlerEntered]

theorem handlerEntered_others (s : State) (c d : Sid) (t : Trap) (pc : Word) (h : d ≠ c) : (handlerEntered s c t pc).strand d = s.strand d := by
  unfold handlerEntered
  dsimp only
  rw [State.strand_setStrand_ne _ _ h, setLatch_strand]

theorem handlerEntered_core (s : State) (c : Sid) (t : Trap) (pc : Word) (l : Nat) :
    { (handlerEntered s c t pc).core l with strands := [] } = { s.core l with
      strands := [], latch := if l = c.core then some ((s.core c.core).latch.getD c.strand) else (s.core l).latch } := by
  unfold handlerEntered
  simp only [State.core_setStrand, State.core_setCore]
  by_cases h : l = c.core
  · subst h; cases hl : (s.core c.core).latch <;> simp [hl]
  · simp [h]

end Sys2Proof.Machine
end

