-- ==== Sys2Proof/Tests/Slice0.lean ====
section
/-! SUPPORT. Tests of the model's own author: ill-formed terms that `wf` refuses, words written out from the encoding
tables, one step of each instruction on a small state with the result computed by hand from the spec, and a witness for
the hypotheses of every statement. -/

set_option maxRecDepth 100000
set_option Elab.async false

open Sys2Proof Sys2Proof.Machine

namespace Sys2Proof.Tests

/-! ## Small states -/

/-- Strand 0 of core 0 of a bare launch, at pc 0x10000. -/
def one : State := ableToIssue State.reset ⟨0, 0⟩

/-- Changes the registers of the strand. -/
def regs (s : State) (f : Arch → Arch) : State := s.setStrand s.cur { s.me with arch := f s.me.arch }

/-- General registers g1, g2, … hold the values. -/
def gs (s : State) (xs : List Word) : State :=
  regs s fun a => (xs.foldl (fun (p : Arch × Reg) x => (p.1.wg p.2 x, p.2 + 1)) (a, (1 : Reg))).1

/-- Vector registers v1, v2, … hold the values. -/
def vs (s : State) (xs : List V512) : State :=
  regs s fun a => (xs.foldl (fun (p : Arch × Reg) x => (p.1.wv p.2 x, p.2 + 1)) (a, (1 : Reg))).1

/-- A control register holds a value. -/
def ctl (s : State) (n : Nat) (x : Word) : State := regs s fun a => { a with cr := fset a.cr n x }

/-- The strand is at level S. -/
def super (s : State) : State := regs s fun a => { a with priv := true }

/-- The core's TLB maps the page through the leaf. -/
def mapped (s : State) (page : Nat) (leaf : Word) : State :=
  let co := s.core s.cur.core
  s.setCore s.cur.core { co with tlb := ⟨s.ctx s.cur, page, false, leaf⟩ :: co.tlb }

/-- The pointer 0x20000 leads to byte 0x20000 of die 0. -/
def paged (s : State) : State := mapped s 2 (openLeaf 2)

/-- Writes bytes of the core's pool. -/
def pool (s : State) (key : Nat) (bs : List Byte) : State :=
  let co := s.core s.cur.core
  s.setCore s.cur.core { co with pool := Mem.store co.pool key bs }

/-- Runs one instruction and asks something of the state it leaves. -/
def ran (i : Instr) (s : State) (f : State → Bool) : Bool :=
  match exec i s with
  | .next t => f t
  | _ => false

def g (t : State) (r : Reg) : Word := t.me.arch.rg r
def v (t : State) (r : Reg) : V512 := t.me.arch.rv r
def pc (t : State) : Word := t.me.arch.pc
def cr (t : State) (n : Nat) : Word := t.me.arch.cr' n

/-- Takes a trap with this code, SUB and TRAPVAL at once. -/
def trapped (t : State) (code sub : Nat) (val : Word) : Bool :=
  bits (cr t 1) 7 0 == code && bits (cr t 1) 11 8 == sub && cr t 3 == val && t.me.arch.priv

/-- g1 after an instruction of two registers g2 and g3 with these values. -/
def two (f : Reg → Reg → Reg → Instr) (a b : Word) : Option Word :=
  match exec (f 1 2 3) (gs one [9, a, b]) with
  | .next t => some (g t 1)
  | _ => none

/-- g1 after an instruction of one register g2 with this value. -/
def uno (f : Reg → Reg → Instr) (a : Word) : Option Word :=
  match exec (f 1 2) (gs one [9, a]) with
  | .next t => some (g t 1)
  | _ => none

/-! ## Terms that are not well-formed -/

def m0 : Mask := ⟨0, false⟩
def m1 : Mask := ⟨1, false⟩

theorem test_wf_add_zero_word : (Instr.add 0 0 0).wf = false ∧ (Instr.add 0 0 1).wf = true := by decide
theorem test_wf_fields : (Instr.extI 1 1 63 1).wf = false ∧ (Instr.extN 1 1 0 63).wf = true
    ∧ (Instr.extN 1 1 1 63).wf = false ∧ (Instr.ins 1 1 32 32).wf = false := by decide
theorem test_wf_lea : (Instr.lea 1 1 1 7).wf = false := by decide
theorem test_wf_ldp : (Instr.ldp 0 3 1 3 0).wf = false ∧ (Instr.ldp 0 0 1 0 0).wf = true := by decide
theorem test_wf_pfx : (Instr.pfx ⟨7, false, 0, false, 0⟩).wf = false := by decide
theorem test_wf_float_only : (Instr.vfma m0 .i32 1 2 3).wf = false ∧ (Instr.vfms m0 .n8 1 2 3).wf = false
    ∧ (Instr.vdiv m0 .i16 1 2 3).wf = false ∧ (Instr.vsqrt m0 .n32 1 2).wf = false ∧ (Instr.vrsq m0 .i8 1 2).wf = false
    ∧ (Instr.vexp2 m0 .i32 1 2).wf = false ∧ (Instr.vlog2 m0 .i32 1 2).wf = false ∧ (Instr.vrcp m0 .i32 1 2).wf = false
    ∧ (Instr.vquant .i8 1 2).wf = false ∧ (Instr.vscale m0 .i32 1 2 3).wf = false := by decide
theorem test_wf_integer_only : (Instr.vshl m0 .f32 1 2 3).wf = false ∧ (Instr.vshr m0 .bf16 1 2 3).wf = false
    ∧ (Instr.vsra m0 .f16 1 2 3).wf = false ∧ (Instr.vidx m0 .f32 1 2 3).wf = false := by decide
theorem test_wf_vsel : (Instr.vsel 0 .f32 1 2 3).wf = false := by decide
theorem test_wf_views : (Instr.vcvtFromView m0 .f32 0 1 2).wf = false ∧ (Instr.vcvtFromView m0 .i32 1 1 2).wf = false
    ∧ (Instr.vcvtToView m0 .f32 0 1 2).wf = false ∧ (Instr.vcvtToView m0 .n8 1 1 2).wf = false
    ∧ (Instr.vsrndView m0 0 1 2).wf = false ∧ (Instr.vsrnd m0 .f32 1 2).wf = false := by decide
theorem test_wf_packs : (Instr.vpack m0 .f32 1 2 3).wf = false ∧ (Instr.vunpack m0 .i32 1 2 true).wf = false := by decide
theorem test_wf_reductions : (Instr.vredsum 0 .i8 1 2).wf = false ∧ (Instr.vredmax 0 .n8 1 2).wf = false
    ∧ (Instr.vredmin 0 .i8 1 2).wf = false ∧ (Instr.vtopk 0 .f32 3 1 2).wf = false ∧ (Instr.vtopk 0 .i16 2 1 2).wf = false
    ∧ (Instr.vbucket 0 .n32 3 1).wf = false ∧ (Instr.vbucket 0 .i32 2 1).wf = false := by decide
theorem test_wf_vld : (Instr.vld 0 ⟨0, true⟩ 1 2 0).wf = false ∧ (Instr.vgather m0 .bf16 1 2 3).wf = false
    ∧ (Instr.vscatter m0 .i16 1 2 3).wf = false := by decide
theorem test_wf_tgeom : (Instr.tgeom 0 0x00B 1).wf = false ∧ (Instr.tgeom 0 0x00A 1).wf = true := by decide
theorem test_wf_remote : (Instr.rld 0 .b64 0 1).wf = false ∧ (Instr.radd 0 .b8 0 1 2).wf = false
    ∧ (Instr.rcas 0 .b8 0 1 2).wf = false ∧ (Instr.rswp 0 .b8 0 1 2).wf = false ∧ (Instr.por .f32 1 2).wf = false := by decide
theorem test_wf_numbers : (Instr.xer 0 0x10A 1).wf = false ∧ (Instr.xer 0 0x208 1).wf = false ∧ (Instr.xer 0 0x00B 1).wf = false
    ∧ (Instr.xew 0x00A 1).wf = false ∧ (Instr.xew 0x20A 1).wf = false ∧ (Instr.sget 0x006 1).wf = false
    ∧ (Instr.sset 0x110 1).wf = false := by decide
theorem test_wf_strands : (Instr.pendingDrain ⟨25600, 0⟩).wf = false ∧ (Instr.chunkGrant ⟨0, 4⟩).wf = false
    ∧ (Instr.soloSlotGrant ⟨0, 4⟩).wf = false ∧ (Instr.resultReturn ⟨0, 4⟩).wf = false
    ∧ (Instr.steppingReexecution ⟨0, 4⟩).wf = false ∧ (Instr.trapEntry ⟨0, 4⟩).wf = false
    ∧ (Instr.peerReadTimeout ⟨0, 4⟩).wf = false ∧ (Instr.writeBlockResume ⟨0, 4⟩).wf = false
    ∧ (Instr.watchDelivery ⟨0, 4⟩).wf = false ∧ (Instr.debugStateWrite ⟨0, 4⟩ 0 0).wf = false
    ∧ (Instr.twinThirdRun ⟨0, 4⟩ 0).wf = false ∧ (Instr.haltedStrandRestart ⟨0, 4⟩).wf = false
    ∧ (Instr.chunkGrant ⟨25599, 3⟩).wf = true := by decide
theorem test_wf_dies : (Instr.collectivePartial 8 ⟨1, 0, 0, 0, []⟩).wf = false ∧ (Instr.dieHeartbeatMiss 8).wf = false
    ∧ (Instr.dieFatalError 8).wf = false ∧ (Instr.notificationRecord 8).wf = false ∧ (Instr.junctionTrip 8).wf = false := by decide
theorem test_wf_ports : (Instr.heartbeatSend 16).wf = false ∧ (Instr.flitReceive 16 ⟨0, [], 0, .idle⟩).wf = false
    ∧ (Instr.linkReplay 16 0).wf = false ∧ (Instr.portDown 16).wf = false ∧ (Instr.portUp 16).wf = false := by decide
theorem test_wf_modules : (Instr.heartbeat 128).wf = false ∧ (Instr.heartbeatTimeout 128).wf = false
    ∧ (Instr.ack 1 0 128).wf = false ∧ (Instr.suspect 1024).wf = false := by decide
theorem test_wf_groups : (Instr.propose 0 ⟨1, 0, [], [], 0⟩).wf = false ∧ (Instr.ack 4096 0 0).wf = false
    ∧ (Instr.viewCommit 0 ⟨1, 0, [], [], 0⟩).wf = false ∧ (Instr.proposalTimeout 0).wf = false
    ∧ (Instr.holdTimeout 4096).wf = false ∧ (Instr.force 0).wf = false ∧ (Instr.joinreq 0 0).wf = false
    ∧ (Instr.joinreq 1 1024).wf = false ∧ (Instr.joinack 1 1024).wf = false ∧ (Instr.joinack 4096 0).wf = false
    ∧ (Instr.groupEntryCreate 0 false [] ⟨[], []⟩).wf = false := by decide
theorem test_wf_hrd : (Instr.hrd 0 4).wf = false ∧ (Instr.hrd 8 16).wf = false ∧ (Instr.hrd 16 16).wf = true := by decide
theorem test_wf_cores : (Instr.pageWalk 25600 0).wf = false ∧ (Instr.instanceDispatch 1 0 0 25600 0).wf = false
    ∧ (Instr.instanceDispatch 1 0 0 0 4).wf = false ∧ (Instr.preempt 1 1 25600).wf = false ∧ (Instr.huskResume 1 25600).wf = false
    ∧ (Instr.idleDepthEntry 25600).wf = false ∧ (Instr.coreWake 25600).wf = false ∧ (Instr.debugHalt 25600).wf = false
    ∧ (Instr.debugResume 25600).wf = false ∧ (Instr.quiesceTimeout 25600).wf = false
    ∧ (Instr.watchpointArm 25600 0 0).wf = false ∧ (Instr.watchpointArm 0 4 0).wf = false := by decide
theorem test_wf_queues : (Instr.queuePoll 64).wf = false ∧ (Instr.modeChange 64).wf = false := by decide
theorem test_wf_clusters : (Instr.droopStretch 1600).wf = false ∧ (Instr.clockModeChange 1600).wf = false
    ∧ (Instr.elasticReturn 1600).wf = false ∧ (Instr.clockModeChangeEnd 1600).wf = false := by decide
theorem test_wf_slots : (Instr.keySlotLoad 0 5).wf = false ∧ (Instr.keySlotLoad 256 5).wf = false ∧ (Instr.keySlotClear 0).wf = false
    ∧ (Instr.flashSlotWrite 2 1 true).wf = false := by decide

/-! ## Words of the spec's worked examples and of its encoding tables -/

/-- Chapter 02 and Tables 2.11, 2.14: prefix, long immediates. -/
theorem test_decode_long : decode [0x00000507, 0x0E000000] = .instr (.lih 5 0x0E000000) 8
    ∧ decode [0x59E00903, 0x000048D1] = .instr (.li 9 0x12345678) 8 ∧ decode [0x00000507] = .more
    ∧ decode [0x50000002] = .instr (.pfx ⟨2, true, 0, false, 0⟩) 4 := by decide
/-- Table 4.7. -/
theorem test_decode_scalar : decode [0x000C0210] = .instr (.addImm 2 0 3) 4 ∧ decode [0x1000A358] = .instr (.ld64 1 3 5 0) 4
    ∧ decode [0x000C8400] = .instr (.add 4 4 3) 4 ∧ decode [0xFFA04084] = .instr (.dbnz 2 (-3)) 4 := by decide
/-- Table 2.2, format R: fn 17 in bits 27:23, gb in 22:18, ga in 17:13, gd in 12:8, major 1 in 7:2. -/
theorem test_decode_selW : decode [0b0000_10001_00011_00010_00001_000001_00] = .instr (.selW 1 2 3) 4 := by decide
/-- Table 2.2 with look 5: `mulh`, fn 1 of major 2. -/
theorem test_decode_mulh : decode [0b0101_00001_00011_00010_00001_000010_00] = .instr (.mulh 5 1 2 3) 4 := by decide
/-- Format I, `st.16` (major 0x19): imm14, ga, gd. -/
theorem test_decode_st16 : decode [0b11111111111110_00010_00001_011001_00] = .instr (.st16 1 2 (-2)) 4 := by decide
/-- Format B, `b.ge` (cond 3 of major 0x20). -/
theorem test_decode_branch : decode [0b00000000010_011_00001_00010_100000_00] = .instr (.bCc .ge 1 2 2) 4 := by decide
/-- Format J, `call` (major 0x23). -/
theorem test_decode_call : decode [0b111111111111111111111111_100011_00] = .instr (.call (-1)) 4 := by decide
/-- Tables 5.7 and 6.5. -/
theorem test_decode_vector : decode [0x50148301] = .instr (.vadd ⟨2, true⟩ .f32 3 4 5) 4
    ∧ decode [0x2008A315] = .instr (.vfma ⟨1, false⟩ .f32 3 5 2) 4 ∧ decode [0x00006651] = .instr (.vredsum 0 .f32 6 3) 4 := by
  decide
theorem test_decode_tile : decode [0x0000E099] = .instr (.tgeom 0 0 7) 4 ∧ decode [0x0200A681] = .instr (.tmma 0 2 5 6) 4 := by
  decide
/-- Tables 7.8 and 11.2. -/
theorem test_decode_sync : decode [0x003160B5] = .instr (.kwait 11 12) 4 ∧ decode [0x081920D5] = .instr (.xew 0x206 9) 4
    ∧ decode [0x028000E1] = .instr .idle 4 := by decide
/-- R57, Table 2.20: the all-zero word, the all-ones word and a reserved bit are no instruction. -/
theorem test_decode_refuses : decode [0] = .illop 4 ∧ decode [0xFFFFFFFF] = .illop 0
    ∧ decode [0x810C8400] = .illop 2 := by decide
theorem test_table_words : decodeTableWord 32 0x000C8400 = some (.add 4 4 3)
    ∧ decodeTableWord 64 0x0E00000000000507 = some (.lih 5 0x0E000000) := by decide
/-- `withFetchWord`: the placed word is the very next instruction. -/
theorem test_placed_word_runs :
    (match step (State.reset.withFetchWord 32 0x000C0210) with
      | .next t => g t 2 == 3 && pc t == 0x10004 && t.agenda == []
      | _ => false) = true := by decide

/-! ## Scalar instructions (chapter 04): results by hand from Tables 4.3 to 4.6 -/

theorem test_add : two .add 0xFFFFFFFFFFFFFFFF 2 = some 1 := by decide
theorem test_sub : two .sub 3 5 = some 0xFFFFFFFFFFFFFFFE := by decide
theorem test_and : two .band 0xF0F0 0xFF00 = some 0xF000 := by decide
theorem test_or : two .bor 0xF0F0 0xFF00 = some 0xFFF0 := by decide
theorem test_xor : two .bxor 0xF0F0 0xFF00 = some 0x0FF0 := by decide
theorem test_andn : two .bandn 0xF0F0 0xFF00 = some 0x00F0 := by decide
theorem test_shl : two .shl 3 65 = some 6 := by decide
theorem test_shr : two .shr 0x8000000000000000 127 = some 1 := by decide
theorem test_sra : two .sra 0x8000000000000000 63 = some 0xFFFFFFFFFFFFFFFF := by decide
theorem test_rol : two .rol 0x8000000000000001 1 = some 3 := by decide
theorem test_min : two .min 0xFFFFFFFFFFFFFFFF 1 = some 0xFFFFFFFFFFFFFFFF := by decide
theorem test_max : two .max 0xFFFFFFFFFFFFFFFF 1 = some 1 := by decide
theorem test_minn : two .minn 0xFFFFFFFFFFFFFFFF 1 = some 1 := by decide
theorem test_maxn : two .maxn 0xFFFFFFFFFFFFFFFF 1 = some 0xFFFFFFFFFFFFFFFF := by decide
theorem test_slt : two .slt 0xFFFFFFFFFFFFFFFF 1 = some 1 ∧ two .slt 1 1 = some 0 := by decide
theorem test_sltn : two .sltn 0xFFFFFFFFFFFFFFFF 1 = some 0 ∧ two .sltn 1 2 = some 1 := by decide
theorem test_seq : two .seq 7 7 = some 1 ∧ two .seq 7 8 = some 0 := by decide
theorem test_sel : two .sel 5 6 = some 5 ∧ ran (.sel 1 2 3) (gs one [0, 5, 6]) (fun t => g t 1 == 6) = true := by decide
theorem test_clz : uno .clz 1 = some 63 ∧ uno .clz 0 = some 64 := by decide
theorem test_ctz : uno .ctz 0x8000000000000000 = some 63 ∧ uno .ctz 0 = some 64 := by decide
theorem test_pop : uno .pop 0xF00000000000000F = some 8 := by decide
theorem test_bswap : uno .bswap 0x0102030405060708 = some 0x0807060504030201 := by decide
theorem test_addW : two .addW 0x7FFFFFFF 0xAAAAAAAA00000001 = some 0xFFFFFFFF80000000 := by decide
theorem test_subW : two .subW 0x100000000 1 = some 0xFFFFFFFFFFFFFFFF := by decide
theorem test_andW : two .bandW 0x1F0000000 0x1F0000001 = some 0xFFFFFFFFF0000000 := by decide
theorem test_orW : two .borW 0x100000000 2 = some 2 := by decide
theorem test_xorW : two .bxorW 0x80000001 1 = some 0xFFFFFFFF80000000 := by decide
theorem test_andnW : two .bandnW 0xFFFFFFFF 0x7FFFFFFF = some 0xFFFFFFFF80000000 := by decide
theorem test_shlW : two .shlW 3 33 = some 6 := by decide
theorem test_shrW : two .shrW 0xFFFFFFFF80000000 31 = some 1 := by decide
theorem test_sraW : two .sraW 0x80000000 31 = some 0xFFFFFFFFFFFFFFFF := by decide
theorem test_rolW : two .rolW 0x80000001 1 = some 3 := by decide
theorem test_minW : two .minW 0xFFFFFFFF 1 = some 0xFFFFFFFFFFFFFFFF := by decide
theorem test_maxW : two .maxW 0xFFFFFFFF 1 = some 1 := by decide
/-- R100's own example. -/
theorem test_minnW : two .minnW 0xFFFFFFFF 1 = some 1 := by decide
theorem test_maxnW : two .maxnW 0xFFFFFFFF 1 = some 0xFFFFFFFFFFFFFFFF := by decide
theorem test_sltW : two .sltW 0x80000000 0 = some 1 := by decide
theorem test_sltnW : two .sltnW 0x80000000 0 = some 0 := by decide
theorem test_seqW : two .seqW 0x100000007 7 = some 1 := by decide
theorem test_selW : ran (.selW 1 2 3) (gs one [0x100000000, 5, 0x80000000]) (fun t => g t 1 == 0xFFFFFFFF80000000) = true := by
  decide
theorem test_clzW : uno .clzW 0xFFFFFFFF00000000 = some 32 := by decide
theorem test_ctzW : uno .ctzW 0x100000000 = some 32 := by decide
theorem test_popW : uno .popW 0xFFFFFFFF00000003 = some 2 := by decide
theorem test_bswapW : uno .bswapW 0x01020380 = some 0xFFFFFFFF80030201 := by decide
theorem test_mul : two (.mul 0) 0xFFFFFFFFFFFFFFFF 3 = some 0xFFFFFFFFFFFFFFFD := by decide
theorem test_mulh : two (.mulh 0) 0xFFFFFFFFFFFFFFFF 3 = some 0xFFFFFFFFFFFFFFFF := by decide
theorem test_mulhn : two (.mulhn 0) 0xFFFFFFFFFFFFFFFF 3 = some 2 := by decide
theorem test_div : two (.div 0) 0xFFFFFFFFFFFFFFF9 2 = some 0xFFFFFFFFFFFFFFFD := by decide
theorem test_divn : two (.divn 0) 0xFFFFFFFFFFFFFFFF 2 = some 0x7FFFFFFFFFFFFFFF := by decide
theorem test_rem : two (.rem 0) 0xFFFFFFFFFFFFFFF9 2 = some 0xFFFFFFFFFFFFFFFF := by decide
theorem test_remn : two (.remn 0) 7 0 = some 7 := by decide
theorem test_mulW : two (.mulW 0) 0x100000003 0x40000000 = some 0xFFFFFFFFC0000000 := by decide
theorem test_mulhW : two (.mulhW 0) 0xFFFFFFFF 3 = some 0xFFFFFFFFFFFFFFFF := by decide
theorem test_mulhnW : two (.mulhnW 0) 0xFFFFFFFF 3 = some 2 := by decide
/-- Table 3.1: −2^31 ÷ −1. -/
theorem test_divW : two (.divW 0) 0x80000000 0xFFFFFFFF = some 0xFFFFFFFF80000000 := by decide
/-- R106's own examples. -/
theorem test_divnW : two (.divnW 0) 5 0 = some 0xFFFFFFFFFFFFFFFF := by decide
theorem test_remW : two (.remW 0) 0x80000000 0xFFFFFFFF = some 0 := by decide
theorem test_remnW : two (.remnW 0) 0x180000000 0 = some 0xFFFFFFFF80000000 := by decide
/-- R45: with look 3 the register keeps its old value for three instructions. -/
theorem test_mul_window : ran (.mul 3 1 2 3) (gs one [9, 5, 6]) (fun t => g t 1 == 9) = true := by decide
theorem test_div_traps : ran (.div 0 1 2 3) (ctl (ctl (gs one [9, 5, 0]) 0x010 0x2001) 4 0x4000)
    (fun t => trapped t 9 0 0 && pc t == 0x4000 && cr t 2 == 0x10000) = true := by decide
/-- R101's own example; the prefix is one instruction with its word. -/
theorem test_add_saturates :
    (match exec (.pfx ⟨0, true, 0, false, 0⟩) (State.withFetchWord (gs one [0x7FFFFFFFFFFFFFF0, 0x20]) 64 0x0008230000000002) with
      | .next t => ran (.add 3 1 2) t fun u => g u 3 == 0x7FFFFFFFFFFFFFFF && bitOf (cr u 0x010) 14 && pc u == 0x10008
      | _ => false) = true := by decide
theorem test_addImm : uno (.addImm · · (-1)) 0 = some 0xFFFFFFFFFFFFFFFF := by decide
theorem test_andImm : uno (.bandImm · · 0x3FFE) 0xFFFF = some 0x3FFE := by decide
theorem test_orImm : uno (.borImm · · 0x3FFF) 0x10000 = some 0x13FFF := by decide
theorem test_xorImm : uno (.bxorImm · · 0x3FFF) 0xF = some 0x3FF0 := by decide
theorem test_sltImm : uno (.sltImm · · (-1)) 0 = some 0 := by decide
/-- R102's own example: every value but all ones is below −1 as n64. -/
theorem test_sltnImm : uno (.sltnImm · · (-1)) 5 = some 1 ∧ uno (.sltnImm · · (-1)) 0xFFFFFFFFFFFFFFFF = some 0 := by decide
theorem test_shlImm : uno (.shlImm · · 63) 3 = some 0x8000000000000000 := by decide
theorem test_shrImm : uno (.shrImm · · 63) 0x8000000000000000 = some 1 := by decide
theorem test_sraImm : uno (.sraImm · · 4) 0x8000000000000000 = some 0xF800000000000000 := by decide
theorem test_rolImm : uno (.rolImm · · 4) 0xF000000000000001 = some 0x1F := by decide
theorem test_addWImm : uno (.addWImm · · 1) 0x7FFFFFFF = some 0xFFFFFFFF80000000 := by decide
theorem test_extI : uno (.extI · · 3 4) 0x1A5 = some 0xFFFFFFFFFFFFFFFA := by decide
theorem test_extN : uno (.extN · · 3 4) 0x1A5 = some 0xA := by decide
theorem test_ins : ran (.ins 1 2 3 4) (gs one [0xFFFF, 0x12]) (fun t => g t 1 == 0xFF2F) = true := by decide
theorem test_lea : two (.lea · · · 3) 0x1000 5 = some 0x1028 := by decide
theorem test_lpc : ran (.lpc 1 (-1)) one (fun t => g t 1 == 0xFFFC && pc t == 0x10004) = true := by decide
theorem test_g0_discards : ran (.add 0 1 2) (gs one [5, 6]) (fun t => g t 0 == 0 && pc t == 0x10004) = true := by decide

/-! Memory: the bytes 0x80 and 0x81 … stand at 0x20000. -/

def data : State :=
  let s := gs (paged one) [9, 0x20000, 0x1122334455667788]
  { s with mem := s.mem.store 0x20000 [0x80, 0x81, 0x82, 0x83, 0x84, 0x85, 0x86, 0x87, 1, 2, 3, 4, 5, 6, 7, 8] }

theorem test_ldI8 : ran (.ldI8 0 1 2 1) data (fun t => g t 1 == 0xFFFFFFFFFFFFFF81) = true := by decide
theorem test_ldN8 : ran (.ldN8 0 1 2 1) data (fun t => g t 1 == 0x81) = true := by decide
theorem test_ldI16 : ran (.ldI16 0 1 2 1) data (fun t => g t 1 == 0xFFFFFFFFFFFF8382) = true := by decide
theorem test_ldN16 : ran (.ldN16 0 1 2 1) data (fun t => g t 1 == 0x8382) = true := by decide
theorem test_ldI32 : ran (.ldI32 0 1 2 1) data (fun t => g t 1 == 0xFFFFFFFF87868584) = true := by decide
theorem test_ldN32 : ran (.ldN32 0 1 2 1) data (fun t => g t 1 == 0x87868584) = true := by decide
theorem test_ld64 : ran (.ld64 0 1 2 1) data (fun t => g t 1 == 0x0807060504030201) = true := by decide
theorem test_ld_misaligned : ran (.ldN16 0 1 2 0) (ctl (gs (paged one) [9, 0x20001]) 4 0x4000)
    (fun t => trapped t 4 0 0x20001) = true := by decide
theorem test_st8 : ran (.st8 3 2 (-1)) (gs (paged one) [9, 0x20001, 0x1122334455667788])
    (fun t => seenByte t 0x20000 == 0x88 && seenByte t 0x20001 == 0 && t.mem.read 0x20000 == 0) = true := by decide
theorem test_st16 : ran (.st16 3 2 2) data (fun t => seenByte t 0x20002 == 0x88 && seenByte t 0x20003 == 0x77
    && seenByte t 0x20004 == 0x84) = true := by decide
theorem test_st32 : ran (.st32 3 2 4) data (fun t => seenByte t 0x20004 == 0x88 && seenByte t 0x20007 == 0x55
    && seenByte t 0x20008 == 1) = true := by decide
theorem test_st64 : ran (.st64 3 2 8) data (fun t => seenByte t 0x20008 == 0x88 && seenByte t 0x2000F == 0x11) = true := by decide
theorem test_ldp : ran (.ldp 0 1 2 4 0) data (fun t => g t 1 == 0x8786858483828180 && g t 4 == 0x0807060504030201) = true := by
  decide
theorem test_stp : ran (.stp 3 2 0 1) data (fun t => seenByte t 0x20010 == 0x88 && seenByte t 0x20017 == 0x11
    && seenByte t 0x20018 == 0) = true := by decide
theorem test_bCc : ran (.bCc .ltn 1 2 (-2)) (gs one [1, 2]) (fun t => pc t == 0xFFF8) = true
    ∧ ran (.bCc .lt 1 2 (-2)) (gs one [1, 0xFFFFFFFFFFFFFFFF]) (fun t => pc t == 0x10004) = true := by decide
theorem test_dbnz : ran (.dbnz 1 4) (gs one [1]) (fun t => g t 1 == 0 && pc t == 0x10004) = true
    ∧ ran (.dbnz 0 4) one (fun t => g t 0 == 0 && pc t == 0x10010) = true := by decide
theorem test_j : ran (.j (-1)) one (fun t => pc t == 0xFFFC) = true := by decide
theorem test_call : ran (.call 2) one (fun t => pc t == 0x10008 && g t 31 == 0x10004) = true := by decide
theorem test_jr : ran (.jr 1) (gs one [0x30000]) (fun t => pc t == 0x30000) = true
    ∧ ran (.jr 1) (ctl (gs one [0x30002]) 4 0x4000) (fun t => trapped t 4 0 0x30002) = true := by decide
theorem test_callr : ran (.callr 31) (regs one (·.wg 31 0x30000)) (fun t => pc t == 0x30000 && g t 31 == 0x10004) = true := by
  decide
theorem test_li : ran (.li 1 (-1)) one (fun t => g t 1 == 0xFFFFFFFFFFFFFFFF && pc t == 0x10008) = true := by decide
theorem test_lih : ran (.lih 1 0xAABBCCDD) (gs one [0x1122334455667788]) (fun t => g t 1 == 0xAABBCCDD55667788) = true := by decide
theorem test_addl : ran (.addl 1 2 0xFFFFFFFF) (gs one [9, 3]) (fun t => g t 1 == 2 && pc t == 0x10008) = true := by decide
theorem test_bCcLong : ran (.bCcLong .eq 1 1 0x40000000) one (fun t => pc t == 0x100010000) = true := by decide
theorem test_jLong : ran (.jLong 0xFFFFFFFF) one (fun t => pc t == 0xFFFC) = true := by decide
theorem test_callLong : ran (.callLong 1) one (fun t => pc t == 0x10004 && g t 31 == 0x10008) = true := by decide

/-! ## Vector instructions (chapter 05) -/

/-- A vector from its 32-bit lanes; missing ones are 0. -/
def vec (xs : List Nat) : V512 := BitVec.ofNat 512 ((upto 0 16).foldl (fun n i => n + (xs[i]?).getD 0 * 2 ^ (32 * i)) 0)
/-- All 16 lanes alike. -/
def splat (x : Nat) : V512 := vec (List.replicate 16 x)
/-- A 32-bit lane. -/
def lane (x : V512) (i : Nat) : Nat := (x.extractLsb' (32 * i) 32).toNat

/-- v1 after an instruction of v2 and v3 with these values; v1 held 16 times 0x3F800000 (1.0). -/
def vtwo (f : Reg → Reg → Reg → Instr) (a b : V512) (i : Nat) : Option Nat :=
  match exec (f 1 2 3) (vs one [splat 0x3F800000, a, b]) with
  | .next t => some (lane (v t 1) i)
  | _ => none

/-- The same for one source register. -/
def vone (f : Reg → Reg → Instr) (a : V512) (i : Nat) : Option Nat :=
  match exec (f 1 2) (vs one [splat 0x3F800000, a]) with
  | .next t => some (lane (v t 1) i)
  | _ => none

-- 1.5 + 2.25 = 3.75; +∞ + 1 = +∞
theorem test_vadd : vtwo (.vadd m0 .f32) (vec [0x3FC00000]) (vec [0x40100000]) 0 = some 0x40700000
    ∧ vtwo (.vadd m0 .n8) (vec [0x01FF]) (vec [0x0101]) 0 = some 0x0200 := by decide +kernel
-- an inactive lane keeps its value under keep: mask v3 has lane 0 only
theorem test_vadd_mask : ran (.vadd ⟨3, false⟩ .i32 1 2 2) (vs one [splat 7, splat 5, vec [1]])
    (fun t => lane (v t 1) 0 == 10 && lane (v t 1) 1 == 7) = true
    ∧ ran (.vadd ⟨3, true⟩ .i32 1 2 2) (vs one [splat 7, splat 5, vec [1]]) (fun t => lane (v t 1) 1 == 0) = true := by
  decide +kernel
-- 1 − 1.5 = −0.5
theorem test_vsub : vtwo (.vsub m0 .f32) (vec [0x3F800000]) (vec [0x3FC00000]) 0 = some 0xBF000000 := by decide +kernel
-- bf16 1.5 × 1.5 = 2.25 = 0x4010
theorem test_vmul : vtwo (.vmul m0 .bf16) (vec [0x3FC0]) (vec [0x3FC0]) 0 = some 0x4010
    ∧ vtwo (.vmul m0 .i32) (vec [0x10001]) (vec [0x10001]) 0 = some 0x20001 := by decide +kernel
-- −0 < +0
theorem test_vmin : vtwo (.vmin m0 .f32) (vec [0]) (vec [0x80000000]) 0 = some 0x80000000
    ∧ vtwo (.vmin m0 .n32) (vec [1]) (vec [0xFFFFFFFF]) 0 = some 1 := by decide +kernel
-- a NaN operand gives the canonical NaN
theorem test_vmax : vtwo (.vmax m0 .f32) (vec [0x3F800000]) (vec [0xFFC12345]) 0 = some 0x7FC00000
    ∧ vtwo (.vmax m0 .i32) (vec [1]) (vec [0xFFFFFFFF]) 0 = some 1 := by decide +kernel
-- 2 × 3 + 1 = 7; 1 − 2 × 3 = −5
theorem test_vfma : vtwo (.vfma m0 .f32) (vec [0x40000000]) (vec [0x40400000]) 0 = some 0x40E00000 := by decide +kernel
theorem test_vfms : vtwo (.vfms m0 .f32) (vec [0x40000000]) (vec [0x40400000]) 0 = some 0xC0A00000 := by decide +kernel
-- 1 ÷ 3 to nearest = 0x3EAAAAAB; 1 ÷ 0 = +∞
theorem test_vdiv : vtwo (.vdiv m0 .f32) (vec [0x3F800000]) (vec [0x40400000]) 0 = some 0x3EAAAAAB
    ∧ vtwo (.vdiv m0 .f32) (vec [0x3F800000]) (vec [0]) 0 = some 0x7F800000 := by decide +kernel
theorem test_vabs : vone (.vabs m0 .i32) (vec [0x80000000]) 0 = some 0x80000000
    ∧ vone (.vabs m0 .f32) (vec [0xC0A00000]) 0 = some 0x40A00000 := by decide +kernel
theorem test_vneg : vone (.vneg m0 .f32) (vec [0]) 0 = some 0x80000000 ∧ vone (.vneg m0 .n32) (vec [1]) 0 = some 0xFFFFFFFF := by
  decide +kernel
-- √2 to nearest = 0x3FB504F3
theorem test_vsqrt : vone (.vsqrt m0 .f32) (vec [0x40000000]) 0 = some 0x3FB504F3 := by decide +kernel
-- 1 ÷ √4 = 0.5
theorem test_vrsq : vone (.vrsq m0 .f32) (vec [0x40800000]) 0 = some 0x3F000000 := by decide +kernel
-- 2^3 = 8
theorem test_vexp2 : vone (.vexp2 m0 .f32) (vec [0x40400000]) 0 = some 0x41000000 := by decide +kernel
-- log2 8 = 3; log2 0 = −∞
theorem test_vlog2 : vone (.vlog2 m0 .f32) (vec [0x41000000]) 0 = some 0x40400000
    ∧ vone (.vlog2 m0 .f32) (vec [0]) 0 = some 0xFF800000 := by decide +kernel
theorem test_vrcp : vone (.vrcp m0 .f32) (vec [0x40000000]) 0 = some 0x3F000000 := by decide +kernel
theorem test_vand : vtwo (.vand m0 .f32) (vec [0xF0F0]) (vec [0xFF00]) 0 = some 0xF000 := by decide +kernel
theorem test_vor : vtwo (.vor m0 .f32) (vec [0xF0F0]) (vec [0xFF00]) 0 = some 0xFFF0 := by decide +kernel
theorem test_vxor : vtwo (.vxor m0 .n8) (vec [0xF0F0]) (vec [0xFF00]) 0 = some 0x0FF0 := by decide +kernel
theorem test_vandn : vtwo (.vandn m0 .i16) (vec [0xF0F0]) (vec [0xFF00]) 0 = some 0x00F0 := by decide +kernel
-- R133: the amount is the low log2 W bits
theorem test_vshl : vtwo (.vshl m0 .i16) (vec [0x00018001]) (vec [0x00110011]) 0 = some 0x00020002 := by decide +kernel
theorem test_vshr : vtwo (.vshr m0 .i32) (vec [0x80000000]) (vec [31]) 0 = some 1 := by decide +kernel
theorem test_vsra : vtwo (.vsra m0 .n32) (vec [0x80000000]) (vec [31]) 0 = some 0xFFFFFFFF := by decide +kernel
-- lanes 0 and 1: 1 < 2 holds, 2 < 1 does not; bits above N are zero
theorem test_vcmp : vtwo (.vcmp .lt m0 .i32) (vec [1, 2]) (vec [2, 1]) 0 = some 1
    ∧ vtwo (.vcmp .eq m0 .f32) (splat 0) (splat 0x80000000) 0 = some 0xFFFF := by decide +kernel
theorem test_vsel : ran (.vsel 3 .i32 1 2 4) (vs one [0, splat 5, vec [2], splat 6])
    (fun t => lane (v t 1) 0 == 6 && lane (v t 1) 1 == 5) = true := by decide +kernel
theorem test_mand : vtwo .mand (vec [0xF0F0, 1, 1]) (vec [0xFF00, 1, 1]) 0 = some 0xF000
    ∧ vtwo .mand (vec [0, 1, 1]) (vec [0, 1, 1]) 2 = some 0 := by decide +kernel
theorem test_mor : vtwo .mor (vec [0xF0F0]) (vec [0xFF00]) 0 = some 0xFFF0 := by decide +kernel
theorem test_mxor : vtwo .mxor (vec [0, 3]) (vec [0, 1]) 1 = some 2 := by decide +kernel
theorem test_mnot : vone .mnot (vec [0]) 1 = some 0xFFFFFFFF ∧ vone .mnot (vec [0]) 2 = some 0 := by decide +kernel
theorem test_mpop : ran (.mpop 1 2) (vs one [0, vec [7, 1, 1]]) (fun t => g t 1 == 4) = true := by decide +kernel
theorem test_mfirst : ran (.mfirst 1 2) (vs one [0, vec [0, 4]]) (fun t => g t 1 == 34) = true
    ∧ ran (.mfirst 1 2) (vs one [0, vec [0, 0, 4]]) (fun t => g t 1 == 64) = true := by decide +kernel
-- 2.5 to i32 under RNE is 2; i32 −1 to f32 is −1.0
theorem test_vcvt : vone (.vcvt m0 .i32 .f32) (vec [0x40200000]) 0 = some 2
    ∧ vone (.vcvt m0 .f32 .i32) (vec [0xFFFFFFFF]) 0 = some 0xBF800000 := by decide +kernel

/-- View 3 of the worked decode of chapter 03: 4-bit codes, sign, e 2, m 1, bias 1, blocks of 32 with E8 scales (VALID set, R80); its
bytes at 0x50000 and its scale 2^-1 at 0x60000 of local memory. -/
def viewed (s : State) : State :=
  let s := ctl (ctl (ctl s 0x103 0x8000000100081214) 0x10B 0x0000004000000000) 0x113 0x0000004000100000
  let s := mapped (mapped s 0x400000 (openLeaf 5)) 0x400010 (openLeaf 6)
  { s with mem := (s.mem.store 0x50000 [0x4B, 0xF2, 0x21]).store 0x60000 [0x7E] }

/-- The pointer of view 3 to its first element. -/
def view3 : Word := 0x3000004000000000

-- codes 0xB and 0x4 without a scale: −1.5 and 2.0
theorem test_vcvtFromView : ran (.vcvtFromView m0 .f32 3 1 2) (vs (viewed one) [0, vec [0x4B]])
    (fun t => lane (v t 1) 0 == 0xBFC00000 && lane (v t 1) 1 == 0x40000000) = true := by decide +kernel
theorem test_vcvtToView : ran (.vcvtToView m0 .f32 3 1 2) (vs (viewed one) [0, vec [0xBFC00000, 0x40000000]])
    (fun t => lane (v t 1) 0 == 0x4B) = true := by decide +kernel
theorem test_vpack : vtwo (.vpack m0 .i16) (vec [0x12345]) (vec [0xFFFFFFFF]) 0 = some 0x2345
    ∧ vtwo (.vpack m0 .i16) (vec [0x12345]) (vec [0xFFFFFFFF]) 8 = some 0xFFFF := by decide +kernel
theorem test_vunpack : ran (.vunpack m0 .i8 1 2 false) (vs one [0, vec [0x80]]) (fun t => lane (v t 1) 0 == 0xFF80) = true
    ∧ ran (.vunpack m0 .n8 1 2 true) (vs one [0, vec [0, 0, 0, 0, 0, 0, 0, 0, 0x80]]) (fun t => lane (v t 1) 0 == 0x80) = true := by
  decide +kernel
theorem test_vperm : vtwo (.vperm m0 .i32) (vec [10, 11, 12]) (vec [0x12, 0]) 0 = some 12 := by decide +kernel
theorem test_vslide : ran (.vslide m0 .i32 1 2 3) (gs (vs one [0, vec [10, 11]]) [0, 0, 0xFFFFFFFFFFFFFFFF])
    (fun t => lane (v t 1) 0 == 0 && lane (v t 1) 1 == 10) = true := by decide +kernel
theorem test_vbcast : ran (.vbcast m0 .n8 1 2) (gs one [0, 0x1AB]) (fun t => lane (v t 1) 15 == 0xABABABAB) = true := by
  decide +kernel
theorem test_vextr : ran (.vextr .i16 1 2 3) (gs (vs one [0, vec [0, 0x80000000]]) [0, 0, 35])
    (fun t => g t 1 == 0xFFFFFFFFFFFF8000) = true
    ∧ ran (.vextr .f16 1 2 3) (gs (vs one [0, vec [0, 0x80000000]]) [0, 0, 3]) (fun t => g t 1 == 0x8000) = true := by decide +kernel
theorem test_vins : ran (.vins .n8 1 2 3) (gs (vs one [splat 0x01020304]) [0, 0x1FF, 5])
    (fun t => lane (v t 1) 1 == 0x0102FF04 && lane (v t 1) 0 == 0x01020304) = true := by decide +kernel
theorem test_vidx : ran (.vidx m0 .i32 1 2 3) (gs one [0, 5, 0xFFFFFFFFFFFFFFFF])
    (fun t => lane (v t 1) 0 == 5 && lane (v t 1) 6 == 0xFFFFFFFF) = true := by decide +kernel
-- 16 × 1.0 = 16.0, and the other elements are zero
theorem test_vredsum : vone (.vredsum 0 .f32) (splat 0x3F800000) 0 = some 0x41800000
    ∧ vone (.vredsum 0 .f32) (splat 0x3F800000) 1 = some 0 := by decide +kernel
theorem test_vredmax : vone (.vredmax 0 .i32) (vec [0xFFFFFFFF, 3, 2]) 0 = some 3 := by decide +kernel
theorem test_vredmin : vone (.vredmin 0 .i32) (vec [0xFFFFFFFF, 3, 2]) 0 = some 0xFFFFFFFF := by decide +kernel
-- lane 1, base 100
theorem test_vargmax : ran (.vargmax 0 .n32 1 2 3) (gs (vs one [0, vec [1, 9, 7]]) [0, 0, 100]) (fun t => g t 1 == 101) = true := by
  decide +kernel
theorem test_vtopk : ran (.vtopk 0 .n32 4 2 3) (gs (vs one [0, vec [1, 9, 7]]) [0, 0, 0x200000064])
    (fun t => lane (v t 4) 0 == 9 && lane (v t 4) 1 == 7 && lane (v t 4) 2 == 0 && lane (v t 5) 0 == 101
      && lane (v t 5) 1 == 102 && lane (v t 5) 2 == 0xFFFFFFFF) = true := by decide +kernel
-- keys 2, 1, then fourteen 0: lanes 2 … 15, then 1, then 0
theorem test_vbucket : ran (.vbucket 0 .n32 4 2) (vs one [0, vec [2, 1]])
    (fun t => lane (v t 4) 0 == 2 && lane (v t 4) 14 == 1 && lane (v t 4) 15 == 0 && lane (v t 5) 0 == 14
      && lane (v t 5) 1 == 1 && lane (v t 5) 2 == 1) = true := by decide +kernel
-- scale 2^-1
theorem test_vscale : ran (.vscale m0 .f32 1 2 3) (gs (vs (viewed one) [0, vec [0xBFC00000]]) [0, 0, view3])
    (fun t => lane (v t 1) 0 == 0xBF400000) = true := by decide +kernel
-- a bf16 value is on its grid; SEED advances
theorem test_vsrnd : vone (.vsrnd m0 .bf16) (vec [0x3F810000]) 0 = some 0x3F810000 := by decide +kernel
theorem test_vsrndView : ran (.vsrndView m0 3 1 2) (vs (viewed one) [0, vec [0xBFC00000]])
    (fun t => lane (v t 1) 0 == 0xBFC00000) = true := by decide +kernel
theorem test_vmov : vone (.vmov m0 .f32) (vec [0xFFC12345]) 0 = some 0xFFC12345 := by decide +kernel
theorem test_vli : ran (.vli m0 .n8 1 0x11223344) one (fun t => lane (v t 1) 3 == 0x11223344 && pc t == 0x10008) = true := by
  decide +kernel

/-- 64 bytes 0, 1, 2, … at 0x20000; g2 points to them. -/
def line : State :=
  let s := gs (paged one) [0, 0x20000, 4]
  { s with mem := s.mem.store 0x20000 ((upto 0 64).map fun i => BitVec.ofNat 8 i) }

theorem test_vld : ran (.vld 0 m0 1 2 0) line (fun t => lane (v t 1) 0 == 0x03020100 && lane (v t 1) 15 == 0x3F3E3D3C) = true := by
  decide +kernel
/-- The worked example of chapter 05. -/
theorem test_vld_view : ran (.vld 0 m0 5 4 0) (gs (viewed one) [0, 0, 0, view3])
    (fun t => (upto 0 7).map (lane (v t 5)) == [0xBF400000, 0x3F800000, 0x3F000000, 0xC0400000, 0x3E800000, 0x3F000000, 0]) = true := by
  decide +kernel
theorem test_vldb : ran (.vldb 0 1 2 0) line (fun t => lane (v t 1) 14 == 0x03020100 && lane (v t 1) 15 == 0x07060504) = true := by
  decide +kernel
-- mask v3: byte 1 only
theorem test_vst : ran (.vst 3 1 2 0) (vs line [splat 0xAABBCCDD, 0, vec [2]])
    (fun t => seenByte t 0x20000 == 0 && seenByte t 0x20001 == 0xCC && seenByte t 0x20002 == 2) = true := by decide +kernel
-- stride 4 elements of 2 bytes
theorem test_vlds : ran (.vlds m0 .n8 1 2 3) (gs (vs line []) [0, 0x20000, 2])
    (fun t => lane (v t 1) 0 == 0x06040200) = true := by decide +kernel
theorem test_vsts : ran (.vsts ⟨3, false⟩ .i32 1 2 3) (gs (vs line [vec [0x11111111, 0x22222222], 0, vec [3]]) [0, 0x20000, 0])
    (fun t => seenByte t 0x20000 == 0x22 && seenByte t 0x20004 == 4) = true := by decide +kernel
theorem test_vgather : ran (.vgather m0 .i32 1 2 3) (vs line [0, 0, vec [2, 1]])
    (fun t => lane (v t 1) 0 == 0x0B0A0908 && lane (v t 1) 1 == 0x07060504) = true := by decide +kernel
theorem test_vscatter : ran (.vscatter ⟨4, false⟩ .i32 1 2 3) (vs line [vec [0x11111111, 0x22222222], 0, vec [5, 5], vec [3]])
    (fun t => seenByte t 0x20014 == 0x22 && seenByte t 0x20018 == 0x18) = true := by decide +kernel
theorem test_vld_misaligned : ran (.vld 0 m0 1 2 0) (ctl (gs (paged one) [0, 0x20008]) 4 0x4000)
    (fun t => trapped t 4 0 0x20008) = true := by decide +kernel

/-! ## Tile instructions (chapter 06) -/

/-- Element (i, j) of accumulator `a`. -/
def acc (t : State) (a i j : Nat) : Nat :=
  let co := t.core t.cur.core
  leNat ((upto 0 4).map fun k => fget co.pool 0 (accKey a (64 * i + 4 * j + k)))

def lit (xs : List Nat) : List Byte := xs.flatMap fun x => leBytes 4 x

/-- Only rows and columns 0 and 1 are enabled (tg.mask of the example of chapter 06). -/
def corner (s : State) : State := regs s fun a => { a with eng := fset a.eng 3 0x00030003 }

/-- Operands of bf16 in the scratchpad: row 0 of A holds 1.0, 2.0; B holds 3.0 and 4.0 in column 0; K = 2. -/
def operands : State :=
  let s := pool (pool (corner one) 0 [0x80, 0x3F, 0x00, 0x40]) 0x800 [0x40, 0x40]
  let s := pool s 0x820 [0x80, 0x40]
  regs (gs s [0, 0, 0, 0, 0x0E00000000000000, 0x0E00000000000800]) fun a => { a with eng := fset (fset a.eng 0 2) 1 32 }

-- 1 × 3 + 2 × 4 = 11
theorem test_tmma : ran (.tmma 0 2 5 6) operands (fun t => acc t 2 0 0 == 0x41300000 && acc t 2 1 0 == 0 && pc t == 0x10004) = true := by
  decide +kernel
-- A transposed: A^T holds 1.0 and 2.0 in its first column's rows 0 and 1: element (0, 0) is 1 × 3, (1, 0) is 2 × 3
theorem test_tmmat : ran (.tmmat 0 2 5 6) operands (fun t => acc t 2 0 0 == 0x40400000 && acc t 2 1 0 == 0x40C00000) = true := by
  decide +kernel
theorem test_tzero : ran (.tzero 0 2) (pool (pool (corner one) (accKey 2 0) (lit [7])) (accKey 2 8) (lit [7]))
    (fun t => acc t 2 0 0 == 0 && acc t 2 0 2 == 7) = true := by decide +kernel
theorem test_tld : ran (.tld 0 2 5) (pool (gs (corner one) [0, 0, 0, 0, 0x0E00000000000000]) 0 (lit [0x7FC12345, 5, 6]))
    (fun t => acc t 2 0 0 == 0x7FC12345 && acc t 2 0 1 == 5 && acc t 2 0 2 == 0) = true := by decide +kernel
theorem test_tst : ran (.tst 0 2 5) (pool (gs (corner one) [0, 0, 0, 0, 0x0E00000000000000]) (accKey 2 0) (lit [0x11223344, 5, 6]))
    (fun t => poolByte t 0 0 == 0x44 && poolByte t 0 4 == 5 && poolByte t 0 8 == 0) = true := by decide +kernel
/-- R174, R176: one row of one byte at 0x20000: its line is fetched and pinned, and released. -/
def shaped : State := regs line fun a => { a with eng := fset a.eng 10 0x00010001 }
theorem test_tfetch : ran (.tfetch 0 2) shaped (fun t => (chunkOf t t.cur).pins.length == 1 && pc t == 0x10004) = true := by
  decide +kernel
theorem test_tunpin : ran (.tfetch 0 2) shaped (fun t => ran (.tunpin 0 2) t fun u => (chunkOf u u.cur).pins.isEmpty) = true := by
  decide +kernel
theorem test_tgeom : ran (.tgeom 0 0 7) (gs one [0, 0, 0, 0, 0, 0, 20]) (fun t => t.me.arch.re 0 == 20) = true := by decide +kernel
-- 1 + 2 = 3
theorem test_tadd : ran (.tadd 0 2 3) (pool (pool (corner one) (accKey 2 0) (lit [0x3F800000])) (accKey 3 0) (lit [0x40000000]))
    (fun t => acc t 2 0 0 == 0x40400000) = true := by decide +kernel
-- column 1 scales by lane 1: 3 × 2 = 6
theorem test_tscale : ran (.tscale 0 2 1) (vs (pool (corner one) (accKey 2 0) (lit [0x3F800000, 0x40400000])) [vec [0x3F800000, 0x40000000]])
    (fun t => acc t 2 0 0 == 0x3F800000 && acc t 2 0 1 == 0x40C00000) = true := by decide +kernel
-- row 17 mod 16 = 1, whatever the masks
theorem test_trget : ran (.trget 0 2 4 1) (gs (pool (corner one) (accKey 2 64) (lit [1, 2, 3])) [17])
    (fun t => lane (v t 4) 0 == 1 && lane (v t 4) 2 == 3) = true := by decide +kernel
theorem test_trput : ran (.trput 0 2 1 4) (gs (vs (corner one) [0, 0, 0, vec [1, 2, 3]]) [1])
    (fun t => acc t 2 1 0 == 1 && acc t 2 1 1 == 2 && acc t 2 1 2 == 0) = true := by decide +kernel
-- max (−1, 2) = 2; lanes of disabled rows stay
theorem test_trmax : ran (.trmax 0 2 4) (vs (pool (corner one) (accKey 2 0) (lit [0xBF800000, 0x40000000, 0x41000000])) [0, 0, 0, splat 7])
    (fun t => lane (v t 4) 0 == 0x40000000 && lane (v t 4) 2 == 7) = true := by decide +kernel
theorem test_trsum : ran (.trsum 0 2 4) (vs (pool (corner one) (accKey 2 0) (lit [0xBF800000, 0x40000000, 0x41000000])) [0, 0, 0, splat 7])
    (fun t => lane (v t 4) 0 == 0x3F800000 && lane (v t 4) 2 == 7) = true := by decide +kernel
-- all zero: the scale code is 0x00 and the codes are 0; blocks of 32 with tg.cstr 16
theorem test_tquant_view0 : ran (.tquant 0 2 4) (ctl (gs (viewed one) [0, 0, 0, 0x20000]) 4 0x4000)
    (fun t => trapped t 5 0 0x20000) = true := by decide +kernel
theorem test_vquant : ran (.vquant .bf16 1 4) (gs (vs (viewed one) [0]) [0, 0, 0, view3])
    (fun t => seenByte t 0x60000 == 0 && seenByte t 0x50000 == 0 && cr t 1 == 0) = true := by decide +kernel

/-! ## Counters, remote operations, engines, system (chapter 07) -/

/-- The handle of counter 6 of core 0; the window base is 0x0C00_0000_0000_0000. -/
def handle : Word := 0x0C00000000000030

/-- What the newest chunk of the strand releases. -/
def released (t : State) : List Rel := (t.me.chunks.getLast?.map fun ch => ch.ops).getD []

/-- The chunk has ended and awaits its grant. -/
def ended (t : State) : Bool := t.me.opened.isNone && t.me.waiting.length == 1

theorem test_kadd : ran (.kadd 1 2) (gs one [handle, 0x500000007])
    (fun t => released t == [.add handle 7] && t.me.opened.isSome && pc t == 0x10004) = true := by decide
theorem test_kadd_address : ran (.kadd 1 2) (ctl (gs one [0x20000, 1]) 4 0x4000) (fun t => trapped t 5 0 0x20000) = true := by decide
theorem test_kaddi : ran (.kaddi 1 9) (gs one [handle]) (fun t => released t == [.add handle 9] && pc t == 0x10008) = true := by
  decide
theorem test_kwait : ran (.kwait 1 2) (gs one [handle, 100])
    (fun t => released t == [.arm handle 100 0x10000] && ended t && t.me.run == .kwait) = true := by decide
theorem test_kread : ran (.kread 0 2 1) (gs (one.setCore 0 { one.core 0 with ctr := [(6, 77)] }) [handle])
    (fun t => g t 2 == 77) = true := by decide
theorem test_kdraw : ran (.kdraw 0 3 1) (gs one [handle])
    (fun t => released t == [.draw handle 0x10000] && ended t && t.me.run == .result) = true := by decide
/-- An odd counter number raises ADDR (R197). -/
theorem test_kdraw_odd : ran (.kdraw 0 3 1) (ctl (gs one [handle + 8]) 4 0x4000) (fun t => trapped t 5 0 (handle + 8)) = true := by
  decide
theorem test_kset : ran (.kset 1 2) (super (gs one [handle, 5])) (fun t => released t == [.set handle 5]) = true := by decide
theorem test_kset_user : ran (.kset 1 2) (ctl (gs one [handle, 5]) 4 0x4000) (fun t => bits (cr t 1) 7 0 == 2) = true := by decide

/-- Byte 16 of the scratchpad of core 1 in the global scratchpad window. -/
def far : Word := 0x0D00000000020010

theorem test_rld : ran (.rld 0 .b64 3 1) (gs one [far]) (fun t => released t == [.remote 0 8 far 0 0 true] && ended t) = true := by
  decide
theorem test_rst : ran (.rst .b8 1 2) (gs one [far, 5]) (fun t => released t == [.remote 1 1 far 5 0 false] && !ended t) = true := by
  decide
theorem test_radd : ran (.radd 0 .b32 3 1 2) (gs one [far, 5]) (fun t => released t == [.remote 2 4 far 5 0 true] && ended t) = true := by
  decide
theorem test_raddPosted : ran (.raddPosted .b32 1 2) (gs one [far, 5])
    (fun t => released t == [.remote 2 4 far 5 0 false] && !ended t) = true := by decide
theorem test_rcas : ran (.rcas 0 .b64 3 1 2) (gs one [far, 5, 9]) (fun t => released t == [.remote 3 8 far 5 9 true] && ended t) = true := by
  decide
theorem test_rswp : ran (.rswp 0 .b16 3 1 2) (gs one [far, 5]) (fun t => released t == [.remote 4 2 far 5 0 true] && ended t) = true := by
  decide
theorem test_padd : ran (.padd .i64 1 2) (gs (paged one) [0x20008, 5])
    (fun t => released t == [.posted 0 .i64 0x20008 0x20008 (openLeaf 2) 5] && seenByte t 0x20008 == 0) = true := by decide
theorem test_pmin : ran (.pmin .i32 1 2) (gs (paged one) [0x20004, 5])
    (fun t => released t == [.posted 1 .i32 0x20004 0x20004 (openLeaf 2) 5]) = true := by decide
theorem test_pmax : ran (.pmax .f32 1 2) (gs (paged one) [0x20004, 5])
    (fun t => released t == [.posted 2 .f32 0x20004 0x20004 (openLeaf 2) 5]) = true := by decide
theorem test_por : ran (.por .i64 1 2) (ctl (gs (paged one) [0x20004, 5]) 4 0x4000) (fun t => trapped t 4 0 0x20004) = true := by decide
theorem test_cut : ran .cut one (fun t => ended t && pc t == 0x10004) = true := by decide
theorem test_hold : ran .hold one (fun t => (chunkOf t t.cur).held && !ended t) = true := by decide
theorem test_unhold : ran .hold one (fun t => ran .unhold t fun u => ended u) = true := by decide
/-- R205: `cut` inside a held region raises HOLDOVF with SUB 4, TRAPPC at the `hold`. -/
theorem test_cut_held : ran .hold (ctl one 4 0x4000) (fun t => ran .cut t fun u => trapped u 0x0A 4 0 && cr u 2 == 0x10000) = true := by
  decide
theorem test_chk : ran .chk one (fun t => !ended t && pc t == 0x10004) = true := by decide
theorem test_xer : ran (.xer 0 0x001 1) one (fun t => g t 1 == 16) = true := by decide
theorem test_xew : ran (.xew 0x104 1) (gs one [0xFFFFFFFFFFFFFFFF]) (fun t => t.me.arch.re 0x104 == 0xFFFF) = true := by decide
theorem test_xeGo : ran (.xeGo 0 1) one (fun t => ended t && (released t).length == 1 && t.me.run == .result
    && t.me.arch.re 0x10B == 1) = true := by decide
theorem test_ceGo : ran (.ceGo 0 1) (regs one fun a => { a with eng := fset a.eng 0x203 4 })
    (fun t => ended t && (released t).length == 1) = true := by decide
/-- R211: a count of 0 raises ADDR with SUB 3. -/
theorem test_ceGo_count : ran (.ceGo 0 1) (ctl one 4 0x4000) (fun t => trapped t 5 3 0) = true := by decide
theorem test_ceJoin : ran (.ceJoin 1) (super (gs one [0x10005])) (fun t => released t == [.join 5]) = true := by decide
theorem test_compose : ran (.compose 1 2) (gs one [0, 4]) (fun t => released t == [.compose 4] && ended t) = true := by decide
theorem test_compose_width : ran (.compose 1 2) (ctl (gs one [0, 3]) 4 0x4000) (fun t => trapped t 0x0B 1 0) = true := by decide
theorem test_release : ran .release (ctl one 4 0x4000) (fun t => trapped t 0x0B 3 0) = true := by decide
theorem test_bq : ran (.bq 1) one (fun t => g t 1 == 1) = true := by decide
theorem test_launch : ran (.launch 1) (gs (paged one) [0x20100]) (fun t => released t == [.launch 0x20100 1] && ended t) = true := by
  decide
theorem test_launch_misaligned : ran (.launch 1) (ctl (gs (paged one) [0x20080]) 4 0x4000) (fun t => trapped t 4 0 0x20080) = true := by
  decide
theorem test_nop : ran .nop one (fun t => pc t == 0x10004 && !ended t) = true := by decide
/-- Table 13.1: TRAPVAL is n. -/
theorem test_trap : ran (.trap 3) (ctl one 4 0x4000) (fun t => trapped t 0x0E 0 3 && pc t == 0x4000 && cr t 2 == 0x10000) = true := by
  decide
theorem test_tret : ran .tret (ctl (ctl (super one) 2 0x30000) 1 0) (fun t => pc t == 0x30000 && !t.me.arch.priv && ended t) = true := by
  decide
theorem test_tret_user : ran .tret (ctl one 4 0x4000) (fun t => bits (cr t 1) 7 0 == 2) = true := by decide
theorem test_brk : ran (.brk 3) (ctl one 4 0x4000) (fun t => trapped t 0x0D 0 3) = true := by decide
theorem test_halt : ran .halt (super one) (fun t => released t == [.halt] && ended t) = true := by decide
theorem test_idle : ran .idle one (fun t => released t == [.idle] && ended t) = true := by decide
theorem test_sget : ran (.sget 0x021 1) (super one) (fun t => g t 1 == 0xF00) = true := by decide
theorem test_sset : ran (.sset 0x004 1) (super (gs one [0x4003])) (fun t => cr t 4 == 0x4000) = true := by decide
theorem test_lflush : ran (.lflush 1) (gs (paged one) [0x20000]) (fun t => released t == [.lineFlush 0x20000]) = true := by decide
theorem test_linv : ran (.linv 1) (super (gs (paged one) [0x20000])) (fun t => released t == [.lineInv 0x20000]) = true := by decide
theorem test_tlbinv : ran (.tlbinv 1) (super (gs one [5])) (fun t => released t == [.tlbinv 5]) = true := by decide
theorem test_xfence : ran .xfence one (fun t => released t == [.fence] && pc t == 0x10004) = true := by decide
/-- Table 10.9: g1 at offset 8 of the record. -/
theorem test_hsave : ran (.hsave 1) (super (gs (paged one) [0x20000])) (fun t => t.me.arch.pc == 0x10004) = true
    ∧ (recordBytes one one.cur 0x12345).take 10 = [0x45, 0x23, 1, 0, 0, 0, 0, 0, 0, 0] ∧ (recordBytes (gs one [0x77]) one.cur 0).getD 8 0 = 0x77
    ∧ (recordBytes one one.cur 0).length = 4096 := by decide +kernel
theorem test_hload : ran (.hload 1) (super (gs { paged one with mem := (paged one).mem.store 0x20010 [7] } [0x20000]))
    (fun t => g t 2 == 7 && g t 1 == 0) = true := by decide +kernel
/-- R57, Table 2.20 and R58: what fetch itself raises. -/
theorem test_unallocatedEncoding : ran (.unallocatedEncoding 4 0) (ctl one 4 0x4000) (fun t => trapped t 1 4 0) = true := by decide
theorem test_instructionFetchFault : ran (.instructionFetchFault 8 0 0x30000) (ctl one 4 0x4000) (fun t => trapped t 8 0 0x30000) = true := by
  decide

/-! ## Events of chunks and operations -/

def c0 : Sid := ⟨0, 0⟩

/-- The state after an instruction. -/
def after (i : Instr) (s : State) : State := match exec i s with | .next t => t | _ => s

/-- A chunk that stores 0x1122334455667788 to 0x20008 has ended. -/
def stored : State := after .cut (after (.st64 3 2 8) data)

/-- The strand with one field changed. -/
def me (s : State) (f : Strand → Strand) : State := s.setStrand s.cur (f s.me)

theorem test_pendingDrain : ran (.pendingDrain c0) stored (fun t => t.me.waiting.map (fun ch => ch.drained) == [true]) = true := by
  decide +kernel
/-- R231: the stores of a chunk reach committed memory at its grant, not before. -/
theorem test_chunkGrant : stored.mem.read 0x20008 = 1 ∧ ran (.chunkGrant c0) (after (.pendingDrain c0) stored)
    (fun t => t.mem.read 0x20008 == 0x88 && t.mem.read 0x2000F == 0x11 && t.mem.read 0x20007 == 0x87 && t.me.waiting.isEmpty
      && t.me.chunkSeq == 1) = true := by decide +kernel
theorem test_chunkGrant_undrained : ran (.chunkGrant c0) stored (fun t => t.me.waiting.length == 1) = true := by decide +kernel

/-- The strand has asked for the solo slot of its core (R234). -/
def soloist : State := me { one with solo := [(.core 0, c0)] } fun st => { st with solo := some (.core 0), sqcnt := 4 }
theorem test_soloSlotGrant : ran (.soloSlotGrant c0) soloist (fun t => t.me.soloHeld) = true := by decide
/-- The strand waits for a result that has come: 77 for g3. -/
def resulted : State := me one fun st => { st with run := .result, await := some ⟨3, some (some 77)⟩ }
theorem test_resultReturn : ran (.resultReturn c0) resulted (fun t => g t 3 == 77 && t.me.run == .ready && t.me.await.isNone) = true := by
  decide
theorem test_steppingReexecution : ran (.steppingReexecution c0) (me one fun st => { st with stepping := true })
    (fun t => (t.me.opened.map fun ch => ch.stepping) == some true) = true := by decide
/-- A VIEWCHG is pending; a strand that waits on a counter leaves its wait, with TRAPPC at the `kwait` (R195, R332). -/
def pended : State := me (ctl one 4 0x4000) fun st =>
  { st with pend := [⟨mkTrap 0x11 0 0x50001, none⟩], run := .kwait, kw := some ⟨handle, 5, 0xFFFC⟩ }
theorem test_trapEntry : ran (.trapEntry c0) pended (fun t => trapped t 0x11 0 0x50001 && cr t 2 == 0xFFFC && pc t == 0x4000
    && t.me.run == .ready) = true := by decide
/-- The strand's launch at D1, the strand at its quantum boundary. -/
def quantal : State :=
  let s := match one.launch 1 with | some x => one.setLaunch 1 { x with det := 1, running := [(0, 0, [c0])] } | none => one
  me s fun st => { st with run := .boundary, quantum := 4096 }
theorem test_quantumEnd : ran (.quantumEnd 1) quantal (fun t => t.me.run == .ready && t.me.quantum == 0) = true := by decide +kernel
theorem test_haltedStrandRestart : ran (.haltedStrandRestart c0) (me one fun st => { st with run := .halted false })
    (fun t => t.me.run == .ready) = true := by decide
/-- R33, R348: the strand waits at IDLEDEPTH 2, so the core sleeps at depth 2. -/
theorem test_idleDepthEntry : ran (.idleDepthEntry 0)
    (me (ctl one 0x070 2) fun st => { st with run := .kwait, kw := some ⟨handle, 5, 0x10000⟩ })
    (fun t => (t.core 0).asleep && (t.core 0).depth == 2) = true := by decide
theorem test_coreWake : ran (.coreWake 0) (one.setCore 0 { one.core 0 with asleep := true }) (fun t => !(t.core 0).asleep) = true := by
  decide
theorem test_peerReadTimeout : ran (.peerReadTimeout c0) one (fun t => t.me.peerLate) = true := by decide
theorem test_writeBlockResume : ran (.writeBlockResume c0)
    (me one fun st => { st with issued := 2, blocked := some (⟨0, 0, false⟩, true) }) (fun t => t.me.issued == 1) = true := by
  decide

/-- Operation 1 of strand 0 of core 0, released and on its way. -/
def op (r : Rel) : Op :=
  { num := 1, src := c0, ctx := 0, rel := r, epoch := 0, spilled := false, unit := false, held := false, grp := 0 }
/-- The operation is under way, and counters 6 and 7 of core 0 hold the values. -/
def flying (r : Rel) (a b : Word) : State :=
  let s := { one with eng := { one.eng with ops := [op r], nextOp := 2 } }
  s.setCore 0 { s.core 0 with ctr := [(6, a), (7, b)] }
/-- Counter 6 of core 0. -/
def six (t : State) : Word := fget (t.core 0).ctr 0 6

theorem test_counterAdd : ran (.counterAdd 1) (flying (.add handle 7) 5 0) (fun t => six t == 12 && t.eng.ops.isEmpty) = true
    ∧ ran (.counterAdd 1) (flying (.add handle 7) 0xFFFFFFFFFFFFFFFE 0) (fun t => six t == 0xFFFFFFFFFFFFFFFF) = true := by decide
theorem test_counterSet : ran (.counterSet 1) (flying (.set handle 9) 5 0) (fun t => six t == 9) = true := by decide
def waiting (r : Rel) (a b : Word) : State :=
  me (flying r a b) fun st => { st with run := .kwait, kw := some ⟨handle, 5, 0x10000⟩ }
theorem test_checkAndArm : ran (.checkAndArm 1) (waiting (.arm handle 5 0x10000) 5 0) (fun t => t.me.run == .ready) = true
    ∧ ran (.checkAndArm 1) (waiting (.arm handle 5 0x10000) 4 0) (fun t => t.me.run == .kwait && (t.core 0).arms.length == 1) = true := by
  decide
/-- Table 7.9, quantum 1, the second drawer: cursor 25, P = 2, MIN = 4, END = 100. -/
theorem test_counterDraw : ran (.counterDraw 1)
    (me (flying (.draw handle 0x10000) 25 0x0002000400000064) fun st => { st with run := .result, await := some ⟨3, none⟩ })
    (fun t => six t == 44 && (t.me.await.map fun w => w.got) == some (some (some 0x0000001300000019))) = true := by decide
theorem test_spillRetry : ran (.spillRetry 1)
    (let s := flying (.add handle 7) 5 0; { s with eng := { s.eng with ops := [{ op (.add handle 7) with held := true }] } })
    (fun t => six t == 12 && t.eng.ops.isEmpty) = true := by decide
/-- `rcas` on 8 bytes at offset 16 of core 0's own scratchpad: equal to the comparand, so replaced; the old value returns. -/
theorem test_remoteOperation : ran (.remoteOperation 1)
    (me (pool (flying (.remote 3 8 0x0D00000000000010 0x55 0x1234 true) 0 0) 16 [0x34, 0x12])
      fun st => { st with run := .result, await := some ⟨3, none⟩ })
    (fun t => poolByte t 0 16 == 0x55 && poolByte t 0 17 == 0 && (t.me.await.map fun w => w.got) == some (some (some 0x1234))) = true := by
  decide +kernel

/-- Page tables for context 0 at 0x1000000: the first 512 MiB map to themselves. -/
def tabled (s : State) : State :=
  { s with mem := (((s.mem.store 0 (leBytes 8 0x1000000)).store 0x1000000 (leBytes 8 0x8000000001010000)).store 0x1010000
      (leBytes 8 0x8000000001020000)).store 0x1020000 (leBytes 8 0xFD00000000000000) }

theorem test_postedAtomic : ran (.postedAtomic 1)
    (let s := tabled (flying (.posted 2 .i32 0x20004 0x20004 (openLeaf 2) 5) 0 0); { s with mem := s.mem.store 0x20004 [0xFF, 0xFF, 0xFF, 0xFF] })
    (fun t => t.mem.read 0x20004 == 5 && t.mem.read 0x20007 == 0) = true := by decide +kernel
theorem test_pageWalk : ran (.pageWalk 0 0x20000) (tabled one)
    (fun t => (t.core 0).tlb.any fun e => e.big && e.leaf == 0xFD00000000000000) = true := by decide +kernel

/-! ## Engines -/

/-- A transfer of one row of 6 bytes from 0x20000 to 0x30002 with completion counter 6. -/
def transfer : FMap Word :=
  [(0x100, 0x20000), (0x101, 0x30002), (0x104, 1), (0x105, 6), (0x108, handle)]
def copying (st : CopyState) : State :=
  let s := tabled data
  let s := s.setCore 0 { s.core 0 with ctr := [(6, 5)] }
  let s := me s fun st => { st with run := .result, await := some ⟨3, none⟩ }
  let x : Copy := { num := 1, ident := 77, src := c0, ctx := 0, set := transfer, st := st, done := [], epoch := 0, grp := 0, sent := [], owed := [],
                    snap := if st == .running then some ⟨s.mem, s.poison, s.tags, s.cores⟩ else none }
  { s with eng := { s.eng with copies := [x], nextOp := 2 } }

theorem test_copyTransferStart : ran (.copyTransferStart 1) (copying .queued)
    (fun t => (t.eng.copies.map fun x => x.st) == [.running] && (t.me.await.map fun w => w.got) == some (some (some 77))) = true := by
  decide +kernel
/-- The only block of the row is the 512-byte block of 0x30000. Whenever its line is read, it holds the same bytes. -/
theorem copy_gathers : ∀ x, findCopy (copying .running) 1 = some x → gather (copying .running) x 384
    = ⟨[(0x30002, 0x80, false), (0x30003, 0x81, false), (0x30004, 0x82, false), (0x30005, 0x83, false),
        (0x30006, 0x84, false), (0x30007, 0x85, false)], 0⟩ := by
  intro x hx
  have h : atSnap (copying .running) x = copying .running := by
    rw [show x = (findCopy (copying .running) 1).get (by decide +kernel) by simp [hx]]
    decide +kernel
  unfold gather
  simp only [h, ite_self]
  rw [show x = (findCopy (copying .running) 1).get (by decide +kernel) by simp [hx]]
  decide +kernel
theorem test_copyBlockWrite : ran (.copyBlockWrite 1 384) (copying .running)
    (fun t => t.mem.read 0x30002 == 0x80 && t.mem.read 0x30007 == 0x85 && t.mem.read 0x30008 == 0 && six t == 6
      && t.eng.copies.isEmpty) = true := by
  have hx : findCopy (copying .running) 1 = some ((findCopy (copying .running) 1).get (by decide +kernel)) := by simp
  simp only [ran, exec, execCopyBlockWrite, copyBlock]
  rw [hx]
  simp only [placeBlock, copy_gathers _ hx, Option.bind_eq_bind, Option.bind_some]
  decide +kernel

/-- Group 5 of dies 0 and 1 of module 0, view 3. -/
def group5 : Group := { Group.reset with valid := true, viewN := 3, full := [0, 1] }
/-- Both dies' contribution to an allreduce of two i32 sums (1 and 2 from die 0, 10 and 20 from die 1): the operation of
strand 0 of core 0 and that of strand 0 of core 3200. -/
def reducing (r : Bool) : State :=
  let s := tabled one
  let s := { s with mem := (s.mem.store 0x20000 (leBytes 4 1 ++ leBytes 4 2)).store 0x30000 (leBytes 4 10 ++ leBytes 4 20) }
  let s := s.setCore 0 { s.core 0 with ctr := [(6, 5)] }
  let ce := fun (src dst : Word) => [(0x200, (5 : Word) <<< 16 ||| 0), (0x201, src), (0x202, dst), (0x203, 2), (0x204, 3), (0x207, handle)]
  let x : Coll := { num := 1, ident := 77, src := c0, ctx := 0, set := ce 0x20000 0x40000, grp := 5, seq := 0, qgrp := 0, running := r,
                    n0 := 2, view := 3, changed := false, slotted := true, failed := false, out := none, placed := 0 }
  let y : Coll := { x with num := 2, src := ⟨3200, 0⟩, set := ce 0x30000 0x50000, ident := 78 }
  let s := s.setGroup 5 group5
  let ps : List (Nat × Partial) := if r then (upto 0 2).flatMap fun d => [(d, ⟨5, 3, 0, 0, [1, 2]⟩), (d, ⟨5, 3, 0, 1, [10, 20]⟩)] else []
  { s with eng := { s.eng with colls := [x, y], nextOp := 3, partials := ps } }

/-- R313, R320: the operation that both dies have issued starts with its own contribution. -/
theorem test_collectiveStart : ran (.collectiveStart 1) (reducing false)
    (fun t => (t.eng.colls.map fun (x : Coll) => x.running) == [true, false] && t.eng.partials == [(0, ⟨5, 3, 0, 0, [1, 2]⟩)]) = true := by
  decide +kernel
/-- R320: a partial of view 2 is dropped under view 3; one of view 3 is kept. -/
theorem test_collectivePartial :
    (let s := reducing false
     let s := { s with eng := { s.eng with flying := [(1, ⟨5, 2, 0, 0, [1, 2]⟩), (1, ⟨5, 3, 0, 0, [1, 2]⟩)] } }
     ran (.collectivePartial 1 ⟨5, 2, 0, 0, [1, 2]⟩) s (fun t => t.eng.partials.isEmpty && t.eng.flying.length == 1)
     && ran (.collectivePartial 1 ⟨5, 3, 0, 0, [1, 2]⟩) s (fun t => t.eng.partials.length == 1)) = true := by decide +kernel
/-- R315: 1 + 10 and 2 + 20 at the destination, and 1 on the completion counter. -/
theorem test_collectiveComplete : ran (.collectiveComplete 1) (reducing true)
    (fun t => t.mem.read 0x40000 == 11 && t.mem.read 0x40004 == 22 && t.mem.read 0x40008 == 0 && six t == 6
      && (t.eng.colls.map fun (x : Coll) => x.num) == [2]) = true := by decide +kernel

/-! ## Views, links, the host, units of memory -/

/-- A running module with group 5 of dies 0 and 1 (members 0 and 1) and of module 1's die 0 (member 8), view 3. -/
def grouped (g : Group) : State := { (State.reset.setGroup 5 { g with full := [0, 1, 8] }) with time := 100000 }
def prop4 : Proposal := ⟨4, 0, [0, 1], [], 0⟩
def grp (t : State) : Group := t.group 5

theorem test_heartbeatSend : ran (.heartbeatSend 2) State.reset (fun t => (t.port 2).buffer.length == 1 && (t.port 2).txSeq == 1) = true := by
  decide +kernel
/-- R327, R366: a beat comes over a port of the route; with none up there is no beat. -/
theorem test_heartbeat : (let s := grouped group5
    ran (.heartbeat 1) { s with net := { s.net with routes := [(1, 4)] } } (fun t => fget t.net.beats 0 1 == 100000)
      && ran (.heartbeat 1) s (fun t => fget t.net.beats 0 1 == 0)) = true := by decide
/-- R366: 8 µs of silence make the module's member suspect. -/
theorem test_heartbeatTimeout : ran (.heartbeatTimeout 1) (grouped group5) (fun t => (grp t).suspects.contains 8) = true
    ∧ ran (.heartbeatTimeout 1) { grouped group5 with net := { (grouped group5).net with beats := [(1, 92001)] } }
      (fun t => (grp t).suspects.isEmpty) = true := by decide
theorem test_dieHeartbeatMiss : ran (.dieHeartbeatMiss 1) (grouped group5) (fun t => (grp t).suspects.contains 1 && !(t.die 1).lost) = true := by
  decide
theorem test_dieFatalError : ran (.dieFatalError 1) (grouped group5) (fun t => (grp t).suspects.contains 1 && (t.die 1).lost) = true := by
  decide +kernel
theorem test_suspect : ran (.suspect 8) (grouped group5) (fun t => (grp t).suspects.contains 8) = true := by decide
theorem test_propose : ran (.propose 5 prop4) (grouped group5) (fun t => (grp t).state == 2 && (grp t).pendN == 4) = true
    ∧ ran (.propose 5 { prop4 with num := 3 }) (grouped group5) (fun t => (grp t).state == 0) = true := by decide
/-- The proposer's own hub and module 1 must acknowledge; here only module 0 is left to. -/
theorem test_ack : ran (.ack 5 4 0) (grouped { group5 with state := 1, pendN := 4, prop := some prop4 })
    (fun t => (grp t).viewN == 4 && (grp t).full == [0, 1] && (grp t).state == 0) = true := by decide +kernel
theorem test_viewCommit : ran (.viewCommit 5 prop4) (grouped { group5 with state := 2, pendN := 4, prop := some prop4 })
    (fun t => (grp t).viewN == 4 && (grp t).full == [0, 1]) = true := by decide +kernel
theorem test_proposalTimeout : ran (.proposalTimeout 5) (grouped { group5 with state := 1, pendN := 4, prop := some { prop4 with full := [0, 1, 8] }, deadline := 90000 })
    (fun t => (grp t).state == 1 && (grp t).pendN == 5 && ((grp t).prop.map fun q => q.full) == some [0, 1]) = true := by decide +kernel
theorem test_holdTimeout : ran (.holdTimeout 5) (grouped { group5 with state := 2, pendN := 4, prop := some { prop4 with leader := 8 }, deadline := 90000 })
    (fun t => (grp t).suspects.contains 8) = true := by decide +kernel
theorem test_force : ran (.force 5) (grouped { group5 with state := 3 }) (fun t => (grp t).state == 1 && (grp t).pendN == 4) = true := by
  decide +kernel
theorem test_joinreq : ran (.joinreq 5 9) (grouped group5) (fun t => (grp t).joinReq.contains 9) = true := by decide +kernel
theorem test_joinack : ran (.joinack 5 9) (grouped { group5 with joining := [9] }) (fun t => (grp t).joinAck.contains 9) = true := by
  decide +kernel
theorem test_groupEntryCreate : ran (.groupEntryCreate 7 true [1, 0] ⟨[3], []⟩) State.reset
    (fun t => (t.group 7).valid && (t.group 7).full == [0, 1] && (t.group 7).joining == [3] && (t.group 7).state == 1
      && (t.group 7).pendN == 1) = true := by decide +kernel

/-! ### Ports, host, patrol, notices -/

/-- A flit of SEQ 1 from module 1 with a payload of zeros; its CRC by the polynomial of R326. -/
def flit1 : Flit := { hdr := 0x1000000010000, payload := List.replicate 240 0, crc := 0xb2ea6c2e996b333f, msg := .block 1 0 0 0x20000 [some (1, false), some (2, false), some (3, false)] }

/-- The same without a message. -/
def idle1 : Flit := { flit1 with msg := .idle }

theorem test_flitReceive : ran (.flitReceive 2 flit1) State.reset
    (fun t => (t.port 2).rxSeq == 1 && t.mem.read 0x20002 == 3) = true
    ∧ ran (.flitReceive 2 { flit1 with crc := 0 }) State.reset (fun t => (t.port 2).rxSeq == 0 && t.mem.isEmpty) = true := by decide +kernel
/-- R327: the same operation in a resent flit is placed once. -/
theorem test_flit_again : ran (.flitReceive 2 flit1) { State.reset with net := { State.reset.net with applied := [(1, 0)] } }
    (fun t => (t.port 2).rxSeq == 1 && t.mem.isEmpty) = true := by decide +kernel
def buffered : State := State.reset.setPort 2 { Port.reset with txSeq := 1, buffer := [⟨flit1, none, none⟩] }
theorem test_linkReplay : ran (.linkReplay 2 1) buffered (fun t => (t.port 2).buffer.isEmpty) = true
    ∧ ran (.linkReplay 2 0) buffered (fun t => (t.port 2).buffer.length == 1 && (t.port 2).fails == 1) = true := by decide +kernel
theorem test_portDown : ran (.portDown 2) (State.reset.setPort 2 { (buffered.port 2) with fails := 16 }) (fun t => !(t.port 2).up) = true := by
  decide +kernel
theorem test_portUp : ran (.portUp 2) (State.reset.setPort 2 { Port.reset with up := false }) (fun t => (t.port 2).up) = true := by decide
theorem test_hrd : ran (.hrd 0x20000 16) data (fun t => (t.net.hrdr.map fun p => (p.1.take 2, p.2)) == some ([0x80, 0x81], false)) = true := by
  decide
/-- R328: a counter of core 1 in the window's second terabyte. -/
theorem test_hrd_counter : ran (.hrd 0x10000000208 8) (State.reset.setCore 1 { Core.reset with ctr := [(1, 0x1234)] })
    (fun t => t.net.hrdr == some ([0x34, 0x12, 0, 0, 0, 0, 0, 0], false)) = true := by decide
theorem test_hwr : ran (.hwr (.window 0x20000) 0xAABBCC 0x5) State.reset
    (fun t => t.mem.read 0x20000 == 0xCC && t.mem.read 0x20001 == 0 && t.mem.read 0x20002 == 0xAA) = true := by decide +kernel
theorem test_hcadd : ran (.hcadd 0x0C00000000000030 7) (one.setCore 0 { one.core 0 with ctr := [(6, 5)] }) (fun t => six t == 12) = true := by
  decide +kernel
theorem test_patrolScrub : ran (.patrolScrub 0x20000 .uncorrectable) State.reset (fun t => poisonedAt t 0x2001F && !poisonedAt t 0x20020) = true
    ∧ ran (.patrolScrub 0x20000 .corrected) State.reset (fun t => (t.dies.any fun d => d.2.ce.any fun e => e.2 == 1)) = true := by decide
/-- R259: the context's ring at 0x50000 (address in dword 1), counter in dword 2, size in dword 3. -/
def noticed : State :=
  let s := tabled (one.setCore 0 { one.core 0 with ctr := [(6, 5)] })
  let s := { s with mem := s.mem.store 8 (leBytes 8 0x50000 ++ leBytes 8 handle.toNat ++ leBytes 8 4) }
  s.setDie 0 { s.die 0 with notices := [⟨0, 0x123, 1, 9, 77⟩] }
theorem test_notificationRecord : ran (.notificationRecord 0) noticed
    (fun t => (t.die 0).notices.isEmpty && six t == 6 && (upto 0x50020 32).any fun k => t.mem.read k != 0) = true := by decide +kernel
theorem test_tfetchFill : ran (.tfetchFill 1) { State.reset with eng := { State.reset.eng with fills := [(1, 0x20000)] } }
    (fun t => t.eng.fills.isEmpty && t.mem.isEmpty) = true := by decide

/-! ## Launches (chapter 10) -/

def ctx1 : Nat := 0x3000000
/-- Context 0x3000000 over the tables at 0x1000000, and queue 0 (QBASE 0): ring of 4 records at 0x4000000, submission
counter 0 of core 100. Record 0: one node, one level; NSTR 1, anchor 0, ARG 42, TVEC 0x4003, RETCTR counter 9 of core 100
by 3. Node: entry 0x10000, count 2, level 0, counters 1 and 2. -/
def hub : State :=
  let s := tabled State.reset
  let put := fun (s : State) (a : Nat) (ws : List Nat) => { s with mem := s.mem.store a (ws.flatMap (leBytes 8)) }
  let s := put s ctx1 [0x1000000, 0, 0, 0, 0x2100000, 0x6000000, 4, 0]
  let s := put s 0 [0x4000000, 0x10004, 0x0C00000000000000 + 100 * 0x200, ctx1]
  let s := put s 0x4000000 [0x100000000001, 1, 0x4001000, 42, 0, 0, 0x4003, 0, 2]
  let s := put s 0x4000088 [0x0C00000000000000 + 100 * 0x200 + 72, 3]
  let s := put s 0x4001000 [0x10000, 2 + 1 * 2 ^ 46 + 2 * 2 ^ 40, 0, 1]
  { s with time := 20000 }

/-- The state after an event. -/
def nxt (f : State → Res) (s : State) : State := match f s with | .next t => t | _ => s

/-- The queue is served, one record has been submitted, and it is accepted. -/
def served : State := nxt (execQueuePoll 0) hub
def submitted : State := nxt (execHcadd (0x0C00000000000000 + 100 * 0x200) 1) served
def accepted : State := nxt (execRecordFetch 0) submitted
/-- The first strand of die 1. -/
def d0 : Sid := ⟨3200, 0⟩
def due : State := nxt (execNodeReady 1 0) accepted
def started : State := nxt (execInstanceDispatch 1 0 0 3200 0) due

theorem test_queuePoll : ran (.queuePoll 0) hub
    (fun t => (t.queue 0).served && (t.queue 0).hold == some 100 && (t.core 100).hold == some ctx1) = true := by decide +kernel
/-- R267: a size that is no power of two is invalid. -/
theorem test_queuePoll_invalid : ran (.queuePoll 0) { hub with mem := hub.mem.store 8 [3] }
    (fun t => !(t.queue 0).served && (t.queue 0).lastErr == 0x1A) = true := by decide +kernel
/-- R272: STATE 1 and LID at offset 0x98 of the record. -/
theorem test_recordFetch : ran (.recordFetch 0) submitted
    (fun t => ((t.launch 1).map fun x => (x.ctx, x.anchor, x.nstr, x.arg)) == some (ctx1, 0, 1, 42) && (t.core 0).claim == some 1
      && t.mem.read 0x4000098 == 1 && t.mem.read 0x400009C == 1) = true := by decide +kernel
/-- R270: a reserved bit gives STATE 0x13, with the add to RETCTR. -/
theorem test_recordFetch_refused : ran (.recordFetch 0) { submitted with mem := submitted.mem.store 0x4000002 [1] }
    (fun t => (t.launch 1).isNone && t.mem.read 0x4000098 == 0x13 && (t.queue 0).lastErr == 0x13
      && fget (t.core 100).ctr 0 9 == 3) = true := by decide +kernel
theorem test_nodeReady : ran (.nodeReady 1 0) accepted (fun t => ((t.launch 1).map fun x => x.nodes.map fun n => n.st) == some [.ready]) = true := by
  decide +kernel
/-- R39: pc at the entry, g1 = ARG, TVEC with its low bits clear. R280: core 0 is taken, so die 1 has the most free slots. -/
theorem test_instanceDispatch : ran (.instanceDispatch 1 0 0 3200 0) due
    (fun t => (t.strand d0).run == .ready && (t.strand d0).arch.pc == 0x10000 && (t.strand d0).arch.rg 1 == 42
      && (t.strand d0).arch.cr' 4 == 0x4000 && (t.strand d0).inst == 0 && (t.core 3200).claim == some 1) = true := by decide +kernel
/-- The record of another mode waits; once the queue's launches have retired the context takes the mode (R290). -/
def otherMode : State := nxt (execRecordFetch 0) { submitted with mem := submitted.mem.store 0x4000004 [0x40, 0x10] }
theorem test_modeChange : ((otherMode.queue 0).waitingRec.isSome && (otherMode.launch 1).isNone) = true
    ∧ ran (.modeChange 0) otherMode (fun t => (ctxCopy t ctx1).det == 1 && (t.queue 0).waitingRec.isNone) = true := by decide +kernel
/-- Core 0 is the anchor of another launch, so the record waits; once the core is free it is accepted (R272). -/
def blocked : State :=
  let s := submitted.setLaunch 9 { bareLaunch 9 0 with ctx := ctx1 }
  nxt (execRecordFetch 0) (s.setCore 0 { s.core 0 with claim := some 9 })
theorem test_footprintReserve : ((blocked.queue 0).waitingRec.isSome && (blocked.launch 1).isNone) = true
    ∧ ran (.footprintReserve 0) (blocked.setCore 0 { blocked.core 0 with claim := none })
      (fun t => (t.launch 1).isSome && (t.queue 0).waitingRec.isNone) = true := by decide +kernel
/-- R278: every node done; STATE 2 and the add of 3 to RETCTR. -/
def allDone : State :=
  match accepted.launch 1 with
  | some x => accepted.setLaunch 1 { x with nodes := x.nodes.map fun n => { n with st := .done } }
  | none => accepted
theorem test_launchRetire : ran (.launchRetire 1) allDone
    (fun t => (t.launch 1).isNone && (t.core 0).claim.isNone && t.mem.read 0x4000098 == 2 && fget (t.core 100).ctr 0 9 == 3) = true := by
  decide +kernel
theorem test_launchTerminate : ran (.launchTerminate 1) started (fun t => (t.launch 1).isNone && (t.strand d0).run == .none) = true := by
  decide +kernel

/-- A D1 record of PRIO 5 of another context has waited 980 µs for its footprint, cores 20 and 3200 (R281, R283). -/
def pressed : State :=
  let s := { started with time := 1000000, mem := started.mem.store 0x3100038 [1] }
  let l : Level := ⟨false, 0, 0, 1⟩
  match s.launch 1 with
  | some x =>
    let ns : List Node := x.nodes.map fun n => { n with st := .waiting, since := 0, sites := [], completed := 0, count := 1 }
    let y : Launch := { x with lid := 0, queue := some 1, ctx := 0x3100000, det := 1, prio := 5, anchor := 20, placeBase := 3200, levels := [l],
                               running := [], cores := [], husks := [], nodes := ns }
    setWaiting s 1 (some ⟨some 1, none, 0x3100000, 0x4000100, [0x4000000000], 20000, some y⟩)
  | none => s
theorem test_preempt : ran (.preempt 0 1 3200) pressed (fun t => (t.strand d0).preReq) = true := by decide +kernel
/-- A strand asked to leave, on its launch's anchor (whose core section stays where it is, R284); husk area at 0x22000000,
which the tables of context 0 at 0x1000000 map to 0x2000000. -/
def asked : State :=
  let s := me (gs one [42]) fun st => { st with preReq := true }
  { s with mem := [(3, 1), (0x23, 0x22), (0x1000003, 1), (0x1000007, 0x80), (0x100000F, 0xFD)] }

/-- A husked strand of the same launch, whose record holds pc 0x10010 and g1 = 42 (Table 10.9). -/
def husked : State :=
  let s := { asked with mem := asked.mem.store 0x2000000 (leBytes 8 0x10010 ++ leBytes 8 42) }
  let s := match s.launch 1 with
    | some x => s.setLaunch 1 { x with husks := [⟨0, 0, [(0, { Strand.reset with run := .ready, lid := 1 })], none, false⟩] }
    | none => s
  s.setCore 0 { s.core 0 with strands := [], husked := [1] }
theorem test_huskResume : ran (.huskResume 1 0) husked
    (fun t => (t.strand c0).run == .ready && (t.strand c0).arch.rg 1 == 42 && (t.strand c0).arch.pc == 0x10010
      && (t.core 0).husked.isEmpty) = true := by decide +kernel

/-! ## Repair, clocks, power, starts, debug (chapters 13, 14, 17) -/

/-- Die 0's corrected-error counters of the site of core 3 stand at the threshold 3000 of the configuration (Table 17.3). -/
def worn : State :=
  let p := siteCode State.reset (.core 0 0 3)
  State.reset.setDie p.1 { State.reset.die p.1 with ce := [(p.2, 3000)] }
theorem test_cethreshReached : ran (.cethreshReached (.core 0 0 3)) worn (fun t => t.boot.repair.length == 1 && t.boot.repairStore.length == 1) = true
    ∧ ran (.cethreshReached (.core 0 0 3)) State.reset (fun t => t.boot.repair.isEmpty) = true := by decide +kernel
theorem test_liveRetirement : ran (.liveRetirement (.core 0 0 3)) State.reset
    (fun t => t.boot.repair.length == 1 && !(unavail t 3)) = true := by decide +kernel

/-- Twins on cores 0 and 32 with chunks that differ a second time. -/
def twins : State :=
  let s := ableToIssue (after .cut (after (.addImm 1 0 5) one)) ⟨32, 0⟩
  let b : Sid := ⟨32, 0⟩
  let s := s.setStrand c0 { s.strand c0 with twin := some (b, true), mismatch := 1, lid := 1 }
  let ch : Chunk := match (s.strand c0).waiting with | x :: _ => x | [] => chunkOf s c0
  s.setStrand b { s.strand b with twin := some (c0, false), mismatch := 1, lid := 1,
                                  waiting := [{ ch with writes := [(0x20000, 9)] }] }
/-- The hash of a strand's oldest chunk. -/
def hashOf (s : State) (c : Sid) : Option (BitVec 64) := (s.strand c).waiting.head?.map fun ch => crc64 (writeSet s c ch)
/-- The third run has ended its chunk; the copies' hashes were `x` and `y`, or are that of the third run where they are 0. -/
def third (x y : BitVec 64) : State :=
  let s := after (.pendingDrain c0) twins
  let h := (hashOf s c0).getD 0
  let s := s.setStrand c0 { s.strand c0 with third := some ⟨if x = 0 then h else x, if y = 0 then h else y, 0, 0, 199⟩ }
  s.setStrand ⟨32, 0⟩ { s.strand ⟨32, 0⟩ with waiting := [] }
/-- R292: after a second mismatch the third run begins from the common start state; it agrees with no copy, or with the first. -/
theorem test_twinThirdRun :
    ran (.twinThirdRun c0 0) twins (fun t => (t.strand c0).third.isSome && (t.strand c0).waiting.isEmpty
      && (t.strand ⟨32, 0⟩).waiting.isEmpty && (t.strand c0).arch.pc == 0x10000) = true
    ∧ ran (.twinThirdRun c0 ((hashOf (third 1 2) c0).getD 0)) (third 1 2)
      (fun t => (t.strand c0).sync == some ⟨0x15, 1, 0⟩ && (t.strand ⟨32, 0⟩).sync == some ⟨0x15, 1, 0⟩) = true
    ∧ ran (.twinThirdRun c0 ((hashOf (third 0 2) c0).getD 0)) (third 0 2)
      (fun t => (t.strand c0).sync.isNone && (t.strand c0).waiting.isEmpty && (t.strand ⟨32, 0⟩).arch.rg 1 == 5) = true := by
  decide +kernel

theorem test_correctedErrorWindow : ran .correctedErrorWindow { worn with time := 86400000000000 }
    (fun t => (t.dies.all fun d => d.2.ce.isEmpty) && t.boot.window == 1) = true
    ∧ ran .correctedErrorWindow { worn with time := 86399999999999 } (fun t => t.boot.window == 0) = true := by decide +kernel
theorem test_droopStretch : ran (.droopStretch 0) one (fun t => t == one) = true := by decide +kernel

/-- A steady launch has the cores of cluster 0. -/
def steadied : State :=
  let s := one
  match s.launch 1 with | some x => s.setLaunch 1 { x with steady := true } | none => s
theorem test_clockModeChange : ran (.clockModeChange 0) steadied (fun t => (t.cluster 0).changing == some (2000, true)) = true := by
  decide +kernel
theorem test_clockModeChangeEnd :
    (let s := { steadied with time := 2000 }
     ran (.clockModeChangeEnd 0) (s.setCluster 0 { s.cluster 0 with changing := some (2000, true) })
      (fun t => (t.cluster 0).steady && (t.cluster 0).changing.isNone)) = true := by decide +kernel
/-- R346: the last steady occupancy left at 0, so the cluster is elastic from 2000 ns on. -/
theorem test_elasticReturn :
    (let s := { State.reset with time := 300 }
     ran (.elasticReturn 0) (s.setCluster 0 { s.cluster 0 with steady := true, idleSince := some 0 })
      (fun t => (t.cluster 0).changing == some (2000, false))) = true := by decide +kernel
/-- R372: PLIMIT is 3000 W; the hottest die goes 50 MHz down. -/
theorem test_powerSample : ran (.powerSample 3001 2) State.reset (fun t => (t.die 2).mhz == 1050 && (t.die 1).mhz == 1100) = true
    ∧ ran (.powerSample 3000 2) State.reset (fun t => (t.die 2).mhz == 1100) = true := by decide
theorem test_dispatchThrottle :
    ran .dispatchThrottle { State.reset with time := 1000000, boot := { State.reset.boot with overSince := some 0 } } (fun t => t.lu.throttled) = true
    ∧ ran .dispatchThrottle { State.reset with time := 999999, boot := { State.reset.boot with overSince := some 0 } } (fun t => !t.lu.throttled) = true := by
  decide
theorem test_junctionTrip : ran (.junctionTrip 3) data (fun t => !t.boot.powered && t.mem.isEmpty) = true := by decide +kernel
theorem test_powerLoss : ran .powerLoss data (fun t => !t.boot.powered && t.mem.isEmpty && t.me.run == .none) = true := by decide +kernel
/-- The starts run stage by stage (R367, R369): BOOTSTAT shows RESULT 0, the kind, the stage and TRIES 1 meanwhile. -/
theorem test_coldStart : ran (.coldStart []) data
    (fun t => t.boot.powered && t.mem == data.mem && bits t.boot.bootstat 11 8 == 0 && bits t.boot.bootstat 15 12 == 0
      && t.boot.start.isSome) = true := by decide +kernel
theorem test_warmStart : ran (.warmStart []) { data with time := 77 }
    (fun t => t.time == 77 && bits t.boot.bootstat 15 12 == 1 && t.boot.start.isSome) = true := by decide +kernel
theorem test_keepMemoryWarmStart : ran (.keepMemoryWarmStart []) data
    (fun t => t.mem == data.mem && bits t.boot.bootstat 15 12 == 2 && t.me.run == .none) = true := by decide +kernel
theorem test_keySlotLoad : ran (.keySlotLoad 3 0x1234) State.reset (fun t => t.boot.keys.any fun p => p.1 == 3) = true := by decide
theorem test_keySlotClear : ran (.keySlotLoad 3 0x1234) State.reset (fun t => ran (.keySlotClear 3) t fun u => u.boot.keys.isEmpty) = true := by
  decide
/-- R371: what is stored counts from the next start. -/
theorem test_storeWrite : ran (.storeWrite (.config 0 0xFF)) State.reset (fun t => fget t.boot.store 0 0 == 0x7F && modNum t == 0) = true := by
  decide
theorem test_unlockToken : ran (.unlockToken true) State.reset (fun t => !t.boot.testLocked && t.boot.keys.isEmpty) = true := by decide
theorem test_flashSlotWrite : ran (.flashSlotWrite 1 7 true) State.reset (fun t => (ffind t.boot.flash 1) == some (7, true)) = true
    ∧ ran (.flashSlotWrite 0 7 true) State.reset (fun t => t.boot.flash == State.reset.boot.flash) = true := by decide

theorem test_debugHalt : ran (.debugHalt 0) one (fun t => (t.core 0).dbgHalt && t.me.debugReq == some 0) = true := by decide +kernel
theorem test_debugResume : ran (.debugHalt 0) one (fun t => ran (.debugResume 0) t fun u => !(u.core 0).dbgHalt && u.me.debugReq.isNone) = true := by
  decide +kernel
theorem test_dbgstopStop : ran (.dbgstopStop 1) one (fun t => t.me.debugReq == some 0 && t.dbg.stopLid == 1) = true := by decide +kernel
theorem test_dbgstopResume : ran (.dbgstopStop 1) one (fun t => ran (.dbgstopResume 1) t fun u => u.me.debugReq.isNone) = true := by decide +kernel
/-- A quiesced halt of 1 ms while a copy of the core's context is not joined (R352). -/
def quiet : State :=
  let s := { me one (fun st => { st with stopped := true }) with time := 1000000 }
  let s := s.setCore 0 { s.core 0 with dbgHalt := true, quiesce := true, quiesceSince := some 0 }
  { s with eng := { s.eng with copies := (copying .slotted).eng.copies } }
theorem test_quiesceTimeout : ran (.quiesceTimeout 0) quiet (fun t => (t.core 0).qopen) = true := by decide +kernel
def recorded : State := { State.reset with dbg := { State.reset.dbg with records := [[1, 2, 3, 4, 5, 6]], rlost := 2 } }
theorem test_dbgrecRead : ran .dbgrecRead recorded (fun t => t.dbg.lastRead == 1 && t.dbg.recPos == 1) = true
    ∧ ran .dbgrecRead { recorded with dbg := { recorded.dbg with recPos := 5 } } (fun t => t.dbg.lastRead == 6 && t.dbg.records.isEmpty) = true := by
  decide
theorem test_dbgstatRead : ran .dbgstatRead recorded (fun t => t.dbg.lastRead == 0x200000001 && t.dbg.rlost == 0) = true := by decide
/-- R358: strand 0, ACT 0: WATCH pends. -/
def watched : State := { one with dbg := { one.dbg with reports := [⟨0, 1, 0x80000000, 2, 0x20000, 0x77⟩] } }
theorem test_watchDelivery : ran (.watchDelivery c0) watched
    (fun t => (t.me.pend.map fun p => (p.trap.code, p.trap.sub, p.trap.val)) == [(0x0C, 2, 0x77)] && t.dbg.reports.isEmpty) = true := by decide +kernel
def halted : State := me one fun st => { st with stopped := true }
/-- R354: the write waits for the resume; a strand that is not stopped takes none. -/
theorem test_debugStateWrite : ran (.debugStateWrite c0 0x18 99)
      (halted.setCore 0 { halted.core 0 with dbgHalt := true }) (fun t => g t 3 == 0 && ran (.debugResume 0) t fun u => g u 3 == 99) = true
    ∧ ran (.debugStateWrite c0 0x18 99) one (fun t => t.me.written.isEmpty) = true := by decide +kernel +kernel
theorem test_watchpointArm : ran (.watchpointArm 0 1 0x80000001) (one.setCore 0 { one.core 0 with watches := [(1, { Watch.reset with base := 0x0E00000000000010 })] })
    (fun t => (fget (t.core 0).watches Watch.reset 1).place == some (true, 16)) = true := by decide +kernel
theorem test_traceArm : ran (.traceArm 0x5) State.reset (fun t => t.dbg.trctl == 5 && !t.dbg.tracing) = true := by decide +kernel
/-- R359: a start trigger by TIME (code 3 of bits 63:62) and its record of 32 bytes. -/
def armed : State :=
  { State.reset with time := 100, dbg := { State.reset.dbg with trctl := 1, trstart := 0xC000000000000050, trbase := 0x20000, trsize := 16 } }
theorem test_traceTrigger : ran (.traceTrigger false) armed (fun t => t.dbg.tracing && t.dbg.trnext == 1) = true := by decide +kernel
/-- R361: 10 ms have passed without the logged event. -/
def replaying (time : Nat) : State :=
  { one with time := time, dbg := { one.dbg with replay := some ⟨1, [[0, 0, 0, 0]], 0⟩ } }
theorem test_replayDivergence : ran (.replayDivergence 1) (replaying 10000000) (fun t => t.me.debugReq == some 4) = true
    ∧ ran (.replayDivergence 1) (replaying 9999999) (fun t => t.me.debugReq.isNone) = true := by decide +kernel
/-- R363: no room for the header: DUMPSTAT 2. -/
theorem test_dumpRequest : ran (.dumpRequest 0) { State.reset with dbg := { State.reset.dbg with dumpbuf := 0xFFFFFFFFFFFF } }
    (fun t => t.dbg.dumpstat == 2 && t.mem.isEmpty) = true := by decide +kernel
theorem test_registerWrite : ran (.registerWrite .dbgcore 3) one (fun t => (t.core 0).dbgHalt && (t.core 0).armBrk) = true
    ∧ ran (.registerWrite (.route 5) 0x3) State.reset (fun t => fget t.net.routes 0 5 == 3) = true := by decide +kernel

/-! ## Witnesses: states and operands that meet the hypotheses of the statements, each clause's at an edge of its range -/

/-- An access or a check succeeds. -/
def answers {ε α : Type} (x : Except ε α) : Bool := match x with | .ok _ => true | .error _ => false

theorem answers_iff {ε α : Type} (x : Except ε α) : answers x = true ↔ ∃ a, x = .ok a := by
  cases x <;> simp [answers]

/-- An event leaves a next state. -/
def goes (r : Res) : Bool := match r with | .next _ => true | _ => false

theorem ffind_all {α : Type} (p : α → Bool) : ∀ (m : FMap α) (k : Nat) (x : α), m.all (fun e => p e.2) = true →
    ffind m k = some x → p x = true
  | [], _, _, _, h => by cases h
  | (a, v) :: t, k, x, ha, h => by
    simp only [List.all_cons, Bool.and_eq_true] at ha
    simp only [ffind] at h
    split at h
    · cases h; exact ha.1
    · exact ffind_all p t k x ha.2 h

/-- What holds of every listed entry and of the default holds of every entry. -/
theorem fget_all {α : Type} (p : α → Bool) (m : FMap α) (d : α) (k : Nat) (h : m.all (fun e => p e.2) = true)
    (hd : p d = true) : p (fget m d k) = true := by
  unfold fget
  cases hf : ffind m k with
  | none => exact hd
  | some x => exact ffind_all p m k x h hf

/-- Every listed strand has a property. -/
def strandsAll (s : State) (p : Strand → Bool) : Bool := s.cores.all fun e => e.2.strands.all fun q => p q.2

theorem strand_all (s : State) (p : Strand → Bool) (h : strandsAll s p = true) (hd : p Strand.reset = true) (c : Sid) :
    p (s.strand c) = true := by
  refine fget_all p _ _ _ ?_ hd
  exact fget_all (fun co : Core => co.strands.all fun q => p q.2) s.cores Core.reset c.core h rfl

def inv (s : State) : Bool := s.mem.wf && s.cores.all fun e => Mem.wf e.2.pool

theorem inv_of {s : State} (h : inv s = true) : s.Inv := by
  simp only [inv, Bool.and_eq_true] at h
  exact ⟨h.1, fun l => fget_all (fun co : Core => Mem.wf co.pool) s.cores Core.reset l h.2 rfl⟩

def calm (s : State) : Bool :=
  inv s && s.poison.isEmpty && s.tags.isEmpty && !bitOf s.dbg.trctl 0 && s.dbg.replay.isNone && strandsAll s (fun st => st.chunks.all fun ch => !ch.solo)
    && s.dies.all fun d => !d.2.lost

theorem calm_of {s : State} (h : calm s = true) : Claims.Calm s := by
  simp only [calm, Bool.and_eq_true] at h
  obtain ⟨⟨⟨⟨⟨⟨h1, h2⟩, h3⟩, h4⟩, h7⟩, h5⟩, h6⟩ := h
  refine ⟨inv_of h1, by simpa using h2, by simpa using h3, by simpa using h4, by simpa using h7, fun c ch hc => ?_, fun d => ?_⟩
  · have := strand_all s (fun st => st.chunks.all fun ch => !ch.solo) h5 (by decide) c
    simpa using List.all_eq_true.1 this ch hc
  · have := fget_all (fun d : Die => !d.lost) s.dies Die.reset d h6 (by decide)
    simpa [State.die] using this

theorem scalarOk_of {s : State} {ea : Word} {n : Nat} (h : bits ea 63 60 = 0 ∧ ea.toNat % n = 0 ∧ placeOf ea = .paged) :
    ScalarOk s ea n := ⟨h.1, h.2.1, .inl h.2.2⟩

theorem witness_DecodeOfEncode : (Instr.lih 31 0xFFFFFFFF).wf = true ∧ encode (Instr.lih 31 0xFFFFFFFF) ≠ []
    ∧ (Instr.bCc .gen 31 31 0x7FF).wf = true ∧ encode (Instr.bCc .gen 31 31 0x7FF) ≠ [] := by decide

/-- The next instruction is `addImm 2 0 3`, an 8-byte `lih`, or a word that is no instruction. -/
def short : State := State.reset.withFetchWord 32 0x000C0210
def long : State := State.reset.withFetchWord 64 0x0E00000000000507
def wrong : State := State.reset.withFetchWord 32 0xFFFFFFFF

/-- A prefix before a `vadd`; a pc whose page is not mapped. -/
def prefixed0 : State := State.reset.withFetchWord 64 0x5014830150000002
def astray : State := me { short with cur := ⟨0, 0⟩ } fun st => { st with arch := { st.arch with pc := 0x7FFFFFFF0000 } }

/-- What `step` fetches first in such a state: the strand's turn has come, the word, the word behind it. -/
def fetches (s : State) (p : W32 → Option W32 → Bool) : Bool :=
  match s.agenda with
  | .issue c :: rest =>
    readiness { s with agenda := rest, cur := c } c == .go &&
    match fetchWord { s with agenda := rest, cur := c } c (fetchPc (s.strand c)) with
    | .ok (w, s1) =>
      match fetchWord s1 c (fetchPc (s.strand c) + 4) with
      | .ok (x, _) => p w (some x)
      | .error _ => p w none
    | .error _ => false
  | _ => false

theorem witness_StepRunsDecodedInstruction :
    fetches short (fun w _ => decode [w] == .instr (.addImm 2 0 3) 4) = true
    ∧ fetches long (fun w x => decode [w] == .more && x.any fun x => decode [w, x] == .instr (.lih 5 0x0E000000) 8) = true
    ∧ fetches wrong (fun w _ => match decode [w] with | .illop _ => true | _ => false) = true
    ∧ (match step prefixed0 with
      | .next t => (match t.agenda with | .issue c :: _ => readiness { t with agenda := [], cur := c } c == .go | _ => true)
          && (t.me.opened.bind fun ch => ch.pair) == some 0x50148301
      | _ => false) = true
    ∧ (match astray.agenda with
      | .issue c :: rest => readiness { astray with agenda := rest, cur := c } c == .go
          && !answers (nextWord { astray with agenda := rest, cur := c } c)
      | _ => false) = true := by decide +kernel

theorem witness_StepKeepsInvariant : short.Inv ∧ goes (step short) = true := ⟨inv_of (by decide +kernel), by decide +kernel⟩

theorem witness_InstructionsLeaveCommittedMemory :
    encode (.st64 3 2 0) ≠ [] ∧ bitOf data.dbg.trctl 0 = false ∧ goes (exec (.st64 3 2 0) data) = true := by decide +kernel



theorem witness_registers : Runs one ∧ Readable one 0 ∧ Readable one 31 ∧ NoPrefix one
    ∧ Runs (gs one [1]) ∧ (31 : BitVec 6).toNat + (32 : BitVec 6).toNat < 64 := by
  unfold Runs Readable NoPrefix; decide +kernel

/-! ### Scalar instructions -/

theorem runs_of {s : State} (h : (s.me.run != .none && (!(chunkOf s s.cur).held || decide ((chunkOf s s.cur).retired < 1024))) = true) :
    Runs s := by
  simp only [Bool.and_eq_true, bne_iff_ne, Bool.or_eq_true, Bool.not_eq_true', decide_eq_true_eq] at h
  exact ⟨h.1, fun hh => h.2.resolve_left (by simp [hh])⟩

/-- Enabled in FCSR, a divisor of zero traps. -/
def strict : State := ctl (ctl (gs one [7, 9]) 4 0x4000) 0x010 0x2000

theorem witness_MultiplyAndDivide :
    (Runs (gs one [7, 9]) ∧ Readable (gs one [7, 9]) 1 ∧ Readable (gs one [7, 9]) 0
      ∧ ¬ (Claims.value 64 true ((gs one [7, 9]).arch.rg 2) = 0 ∧ Claims.divzOn (gs one [7, 9])))
    ∧ (Runs strict ∧ Claims.value 64 true (strict.arch.rg 0) = 0 ∧ Claims.divzOn strict) := by
  refine ⟨⟨runs_of (by decide +kernel), .inr (by decide +kernel), .inl rfl, fun h => absurd h.1 (by decide +kernel)⟩,
    runs_of (by decide +kernel), by decide +kernel, ?_⟩
  unfold Claims.divzOn
  rw [show (chunkOf strict strict.cur).pfx = none by decide +kernel]
  decide +kernel

theorem witness_ScalarLoads :
    (Runs data ∧ Readable data 2 ∧ ScalarOk data (data.arch.rg 2 + 8) 8 ∧ answers (loadAt (begun data) (data.arch.rg 2 + 8) 8) = true
      ∧ Alone data)
    ∧ (ScalarOk data (data.arch.rg 2 + 1) 1 ∧ answers (loadAt (begun data) (data.arch.rg 2 + 1) 1) = true)
    ∧ ScalarOk data (data.arch.rg 2) 16 ∧ answers (loadAt (begun data) (data.arch.rg 2) 16) = true
    ∧ ((3 : Reg) ≠ 4 ∨ (3 : Reg) = 0) := by
  refine ⟨⟨runs_of (by decide +kernel), .inr (by decide +kernel), scalarOk_of (by decide +kernel), by decide +kernel, ?_⟩,
    ⟨scalarOk_of (by decide +kernel), by decide +kernel⟩, scalarOk_of (by decide +kernel), by decide +kernel, by decide⟩
  unfold Alone; decide +kernel

theorem witness_StoreResults : data.Inv ∧ Runs data ∧ Readable data 2 ∧ Readable data 3
    ∧ (ScalarOk data (data.arch.rg 2 + 1) 1 ∧ answers (storeAt (begun data) (data.arch.rg 2 + 1) (leBytes 1 5)) = true)
    ∧ ScalarOk data (data.arch.rg 2) 16
    ∧ answers (storeAt (begun data) (data.arch.rg 2) (leBytes 8 (data.arch.rg 3).toNat ++ leBytes 8 9)) = true :=
  ⟨inv_of (by decide +kernel), runs_of (by decide +kernel), .inr (by decide +kernel), .inr (by decide +kernel),
    ⟨scalarOk_of (by decide +kernel), by decide +kernel⟩, scalarOk_of (by decide +kernel), by decide +kernel⟩

theorem witness_ReadBytes :
    (placeOf 0x20008 = .paged ∧ (begun data).me.opened.isSome = true
      ∧ (∃ p u, resolveOwn (begun data) 0x20008 .read false = .ok (p, u) ∧ leafTier p.leaf ≠ 2 ∧ bits p.leaf 15 8 = 0
          ∧ (p.key + 8 - 1) / 64 = p.key / 64 ∧ fget data.tags 0 (p.key / 64) = 0 ∧ poisonedAt data p.key = false)
      ∧ (begun data).chunk.watches = [] ∧ (begun data).chunk.solo = false ∧ ∀ ch ∈ (begun data).me.chunks, ch.taint = [])
    ∧ (placeOf 0x0E00000000000000 = .scratch 0 ∧ Alone (begun data) ∧ poolBadIn (begun data) 0 8 = false)
    ∧ placeOf 0x0C000000000001F8 = .counter 0 504 ∧ (data.die (dieOf 0)).lost = false ∧ (data.core 0).husked = [] ∧ claims data 0 0 = true
    ∧ fget (data.core 0).ctrBad false 63 = false
    ∧ claims data 0 1 = false ∧ holds data 0 1 = false := by
  refine ⟨⟨by decide +kernel, by decide +kernel, ?_, by decide +kernel, by decide +kernel, by decide +kernel⟩,
    ⟨by decide +kernel, by unfold Alone; decide +kernel, by decide +kernel⟩, by decide +kernel, by decide +kernel, by decide +kernel,
    by decide +kernel, by decide +kernel, by decide +kernel, by decide +kernel⟩
  have h : (match resolveOwn (begun data) 0x20008 .read false with
    | .ok (p, _) => decide (leafTier p.leaf ≠ 2 ∧ bits p.leaf 15 8 = 0 ∧ (p.key + 8 - 1) / 64 = p.key / 64
        ∧ fget data.tags 0 (p.key / 64) = 0 ∧ poisonedAt data p.key = false)
    | .error _ => false) = true := by decide +kernel
  split at h
  · rename_i p u e; exact ⟨p, u, e, by simpa using h⟩
  · cases h

/-- The first address beyond a window of R36 or the last in it, for each clause of `ScalarAccessTraps`. -/
theorem witness_ScalarAccessTraps :
    (∀ a ∈ [(0x1000000000000000 : Word), 0x0C00000000C80000, 0x0D00000000000000, 0x0E00000000013400, 0x0C000000000001F8],
      Runs (gs one [9, a]) ∧ Readable (gs one [9, a]) 2 ∧ (gs one [9, a]).arch.rg 2 + (0 : BitVec 10).signExtend 64 * 8 = a)
    ∧ bits 0x1000000000000000 63 60 ≠ 0 ∧ placeOf 0x0C00000000C80000 = .nowhere
    ∧ placeOf 0x0D00000000000000 = .remote 0 0 ∧ placeOf 0x0E00000000013400 = .scratch 78848
    ∧ (one.core one.cur.core).spBytes < 78848 + 1 ∧ placeOf 0x0C000000000001F8 = .counter 0 504 ∧ (4 : Nat) ≠ 8
    ∧ placeOf 0x0BFFFFFFFFFFFFFF = .paged ∧ (0x0BFFFFFFFFFFFFFF : Word).toNat % 2 ≠ 0
    ∧ placeOf 0 = .paged ∧ (resolveOwn (begun one) 0 .read false).toBool = false
    ∧ (resolveOwn (begun one) 0 .write false).toBool = false
    ∧ ∀ write ld64 : Bool, ∀ a ∈ [(0x1000000000000000 : Word), 0x0C00000000C80000, 0x0D00000000000000, 0x0E00000000013400,
        0x0C000000000001FC, 0x0BFFFFFFFFFFFFFF, 0], write = false ∨ ld64 = false → ∃ x, Claims.ScalarFails (begun one) a 8 write ld64 x := by
  refine ⟨fun a h => ?_, by decide +kernel, by decide +kernel, by decide +kernel, by decide +kernel, by decide +kernel, by decide +kernel,
    by decide +kernel, by decide +kernel, by decide +kernel, by decide +kernel, by decide +kernel, by decide +kernel, fun write ld64 a h hw => ?_⟩
  · fin_cases h <;> exact ⟨runs_of (by decide +kernel), .inr (by decide +kernel), by decide +kernel⟩
  · have hp : ∀ a, placeOf a = .paged → ¬ Claims.ScalarShut (begun one) a 8 write ld64 := fun a hp hs => by
      rcases hs with hs | ⟨_, _, hs⟩ | ⟨_, hs, _⟩ | ⟨_, _, _, _, hs⟩ <;> rw [hp] at hs <;> cases hs
    fin_cases h
    · exact ⟨_, .inl ⟨by decide +kernel, rfl⟩⟩
    · exact ⟨_, .inr (.inl ⟨by decide +kernel, .inl (by decide +kernel), rfl⟩)⟩
    · exact ⟨_, .inr (.inl ⟨by decide +kernel, .inr (.inl ⟨0, 0, by decide +kernel⟩), rfl⟩)⟩
    · exact ⟨_, .inr (.inl ⟨by decide +kernel, .inr (.inr (.inl ⟨78848, by decide +kernel, by decide +kernel⟩)), rfl⟩)⟩
    · have hc : placeOf 0x0C000000000001FC = .counter 0 508 := by decide +kernel
      cases write
      · cases ld64
        · exact ⟨_, .inr (.inl ⟨by decide +kernel, .inr (.inr (.inr ⟨rfl, rfl, 0, 508, hc⟩)), rfl⟩)⟩
        · refine ⟨_, .inr (.inr (.inr (.inl ⟨by decide +kernel, (fun hs => ?_), (fun hs => by cases hs.1), by decide +kernel, rfl⟩)))⟩
          rcases hs with hs | ⟨_, _, hs⟩ | ⟨_, hs, _⟩ | ⟨_, hs, _⟩
          · rw [hc] at hs; cases hs
          · rw [hc] at hs; cases hs
          · rw [hc] at hs; cases hs
          · cases hs
      · exact ⟨_, .inr (.inr (.inl ⟨by decide +kernel, rfl, ⟨0, 508, hc⟩, rfl⟩))⟩
    · have hc : placeOf 0x0BFFFFFFFFFFFFFF = .paged := by decide +kernel
      exact ⟨_, .inr (.inr (.inr (.inl ⟨by decide +kernel, hp _ hc, (fun hs => by obtain ⟨_, _, _, hs⟩ := hs; rw [hc] at hs; cases hs),
        by decide +kernel, rfl⟩)))⟩
    · have he : ∃ e, resolveOwn (begun one) 0 (if write then .write else .read) false = .error e := by
        have h1 : (match resolveOwn (begun one) 0 .read false with | .error _ => true | .ok _ => false) = true := by decide +kernel
        have h2 : (match resolveOwn (begun one) 0 .write false with | .error _ => true | .ok _ => false) = true := by decide +kernel
        cases write
        · cases hr : resolveOwn (begun one) 0 .read false with
          | error e => exact ⟨e, hr⟩
          | ok v => rw [hr] at h1; cases h1
        · cases hr : resolveOwn (begun one) 0 .write false with
          | error e => exact ⟨e, hr⟩
          | ok v => rw [hr] at h2; cases h2
      obtain ⟨e, he⟩ := he
      exact ⟨(e.1, e.2, 0), .inr (.inr (.inr (.inr ⟨by decide +kernel, by decide +kernel, by decide +kernel, e, he, rfl⟩)))⟩

theorem witness_BranchesAndJumps :
    (Runs (gs one [7, 0x10002]) ∧ NoPrefix (gs one [7, 0x10002]) ∧ Readable (gs one [7, 0x10002]) 2
      ∧ ((gs one [7, 0x10002]).arch.rg 2).toNat % 4 ≠ 0)
    ∧ Runs (gs one [7, 0xFFFFFFFFFFFFFFFC]) ∧ NoPrefix (gs one [7, 0xFFFFFFFFFFFFFFFC])
    ∧ ((gs one [7, 0xFFFFFFFFFFFFFFFC]).arch.rg 2).toNat % 4 = 0
    ∧ Claims.taken .eq 7 7 ∧ ¬ Claims.taken .lt 7 7 ∧ Claims.taken .ge 7 7 := by
  refine ⟨⟨runs_of (by decide +kernel), ?_, .inr (by decide +kernel), by decide +kernel⟩, runs_of (by decide +kernel), ?_,
    by decide +kernel, rfl, ?_, ?_⟩ <;> first | (unfold NoPrefix; decide +kernel) | (unfold Claims.taken; decide +kernel)

/-- A prefix word stands at the pc: before a `vadd` that takes it, and before a `bCc` that takes none. -/
def prefixed : State := State.reset.withFetchWord 64 0x5014830150000002
def orphaned : State := State.reset.withFetchWord 64 (((encode (.bCc .eq 1 2 3)).headD 0).toNat * 2 ^ 32 + 0x50000002)

/-- The prefix before an `ldp` of one register twice, and before a scalar `add`, which has no rounding. -/
def badPair : State := State.reset.withFetchWord 64 (((encode (.ldp 0 3 1 3 0)).headD 0).toNat * 2 ^ 32 + 0x50000002)
def badField : State := State.reset.withFetchWord 64 (((encode (.add 1 2 3)).headD 0).toNat * 2 ^ 32 + 0x50000002)

theorem witness_PrefixWaitsForItsWord :
    (Runs prefixed ∧ (match fetchWord (begun prefixed) prefixed.cur (prefixed.arch.pc + 4) with
      | .ok (w, _) => pairCheck ⟨2, true, 0, false, 0⟩ w (accOk (prefixed.core prefixed.cur.core).nacc) == .ok | .error _ => false) = true)
    ∧ Runs orphaned ∧ (match fetchWord (begun orphaned) orphaned.cur (orphaned.arch.pc + 4) with
      | .ok (w, _) => pairCheck ⟨2, true, 0, false, 0⟩ w (accOk (orphaned.core orphaned.cur.core).nacc) == .orphan | .error _ => false) = true
    ∧ (Runs badPair ∧ (match fetchWord (begun badPair) badPair.cur (badPair.arch.pc + 4) with
      | .ok (w, _) => pairCheck ⟨2, true, 0, false, 0⟩ w (accOk (badPair.core badPair.cur.core).nacc) == .illop 3 true
      | .error _ => false) = true)
    ∧ (Runs badField ∧ (match fetchWord (begun badField) badField.cur (badField.arch.pc + 4) with
      | .ok (w, _) => pairCheck ⟨2, true, 0, false, 0⟩ w (accOk (badField.core badField.cur.core).nacc) == .illop 2 false
      | .error _ => false) = true) :=
  ⟨⟨runs_of (by decide +kernel), by decide +kernel⟩, runs_of (by decide +kernel), by decide +kernel,
    ⟨runs_of (by decide +kernel), by decide +kernel⟩, runs_of (by decide +kernel), by decide +kernel⟩

/-- A window of g2 with no instruction to go, and one with the longest look. -/
def windows (n : Nat) : Fx :=
  let s := begun one
  fx (s.setCh { s.chunk with late := [⟨2, 7, n, 0⟩] })

theorem witness_WindowsCountDown :
    ((windows 0).late = [] ∧ (chunkOf (windows 0).s c0).late = [⟨2, 7, 0, 0⟩] ∧ (2 : Reg) ≠ 0)
    ∧ (windows 14).late = [] ∧ (chunkOf (windows 14).s c0).late = [⟨2, 7, 14, 0⟩] := by decide +kernel

/-! ### Exceptions -/

/-- The chunk of the strand has retired instructions; in stepping mode it has too. -/
def later : State := after .nop one
def laterStep : State := after .nop (after (.steppingReexecution c0) (me one fun st => { st with stepping := true }))

theorem witness_SyncTraps :
    (Runs one ∧ AtBoundary one ∧ ¬ ((⟨0x0E, 0, 3⟩ : Trap).code = 0x0D ∧ (one.core one.cur.core).armBrk = true)
      ∧ (one.core one.cur.core).armBrk = false)
    ∧ (∃ ch, (later.strand later.cur).opened = some ch ∧ ch.held = false ∧ ch.retired ≠ 0 ∧ ch.badShadow = false
        ∧ later.me.waiting = [] ∧ ch.stepping = false)
    ∧ (∃ ch, (laterStep.strand laterStep.cur).opened = some ch ∧ ch.held = false ∧ ch.retired ≠ 0 ∧ ch.badShadow = false
        ∧ laterStep.me.waiting = [] ∧ ch.stepping = true)
    ∧ ¬ Readable (regs one fun a => { a with bad := [(31, true)] }) 31
    ∧ Readable (regs one fun a => { a with bad := [(31, true)] }) 1 := by
  refine ⟨⟨runs_of (by decide +kernel), by unfold AtBoundary; decide +kernel, by decide +kernel, by decide +kernel⟩, ?_, ?_,
    by unfold Readable; decide +kernel, .inr (by decide +kernel)⟩
  · exact ⟨(later.strand later.cur).opened.get (by decide +kernel), by simp, by decide +kernel⟩
  · exact ⟨(laterStep.strand laterStep.cur).opened.get (by decide +kernel), by simp, by decide +kernel⟩

/-- The debug unit has armed the core. -/
def armedCore : State := one.setCore 0 { one.core 0 with armBrk := true }

theorem witness_TrapAndBreakInstructions :
    (Runs one ∧ AtBoundary one ∧ (one.core one.cur.core).armBrk = false)
    ∧ Runs armedCore ∧ AtBoundary armedCore ∧ (armedCore.core armedCore.cur.core).armBrk = true
    ∧ armedCore.dbg.records.length < 256 :=
  ⟨⟨runs_of (by decide +kernel), by unfold AtBoundary; decide +kernel, by decide +kernel⟩, runs_of (by decide +kernel),
    by unfold AtBoundary; decide +kernel, by decide +kernel, by decide +kernel⟩

theorem witness_TrapReturn :
    (Runs (super one) ∧ (super one).arch.priv = true ∧ (chunkOf (super one) (super one).cur).held = false)
    ∧ Runs one ∧ one.arch.priv = false :=
  ⟨⟨runs_of (by decide +kernel), by decide +kernel, by decide +kernel⟩, runs_of (by decide +kernel), by decide +kernel⟩

theorem witness_PrivilegedTrapsInUser : Runs one ∧ one.arch.priv = false
    ∧ 0x001 ≤ (0x001 : BitVec 12).toNat ∧ (0x005 : BitVec 12).toNat ≤ 0x005 :=
  ⟨runs_of (by decide +kernel), by decide +kernel, by decide +kernel, by decide +kernel⟩

theorem witness_FetchTraps : (one.me.run ≠ .none ∧ AtBoundary one
      ∧ (0x08 : BitVec 8) ≠ 0x0D ∧ one.me.handler = false)
    ∧ let s := me one fun st => { st with handler := true }
      s.me.run ≠ .none ∧ AtBoundary s ∧ s.me.handler = true := by unfold AtBoundary; decide +kernel

/-! ### Synchronisation, engines, system -/

/-- g1 is a handle of the first or the last counter of the last core, or one off it. -/
def lastHandle : Word := 0x0C00000000C7FFF8
def counted (h : Word) : State := gs one [h, 0xFFFFFFFFFFFFFFFF]

theorem witness_CounterInstructions :
    (Runs (counted lastHandle) ∧ Readable (counted lastHandle) 1 ∧ Readable (counted lastHandle) 2
      ∧ Claims.Handle ((counted lastHandle).arch.rg 1) ∧ handleOf lastHandle = some (25599, 63))
    ∧ (Runs (super (counted handle)) ∧ Readable (super (counted handle)) 1 ∧ (super (counted handle)).arch.priv = true
      ∧ handleOf ((super (counted handle)).arch.rg 1) = some (0, 6)
      ∧ (chunkOf (super (counted handle)) c0).held = false ∧ handle.getLsbD 3 = false
      ∧ claims one (one.ctx one.cur) 0 = true ∧ (one.core 0).husked = []
      ∧ fget (one.core 0).ctrBad false 6 = false ∧ (one.die (dieOf 0)).lost = false)
    ∧ (Runs (counted (handle + 8)) ∧ handleOf ((counted (handle + 8)).arch.rg 1) = some (0, 7) ∧ (handle + 8).getLsbD 3 = true)
    ∧ (Runs (counted 0xFFFFFFFFFFFFFFFF) ∧ bits ((counted 0xFFFFFFFFFFFFFFFF).arch.rg 1) 63 60 ≠ 0)
    ∧ Runs (counted (handle + 7)) ∧ bits ((counted (handle + 7)).arch.rg 1) 63 60 = 0
    ∧ placeOf ((counted (handle + 7)).arch.rg 1) = .counter 0 55 ∧ 55 % 8 ≠ 0
    ∧ (claims one (one.ctx one.cur) 25599 = false ∧ holds one (one.ctx one.cur) 25599 = false ∧ (one.core 25599).husked = [])
    ∧ (let s := one.setDie 0 { one.die 0 with lost := true }
       claims s (s.ctx s.cur) 0 = true ∧ (s.die (dieOf 0)).lost = true)
    ∧ (let s := one.setCore 0 { one.core 0 with ctrBad := [(6, true)] }
       claims s (s.ctx s.cur) 0 = true ∧ (s.die (dieOf 0)).lost = false ∧ fget (s.core 0).ctrBad false 6 = true) :=
  ⟨⟨runs_of (by decide +kernel), .inr (by decide +kernel), .inr (by decide +kernel), by unfold Claims.Handle; decide +kernel,
      by decide +kernel⟩,
    ⟨runs_of (by decide +kernel), .inr (by decide +kernel), by decide +kernel⟩,
    ⟨runs_of (by decide +kernel), by decide +kernel⟩, ⟨runs_of (by decide +kernel), by decide +kernel⟩,
    runs_of (by decide +kernel), by decide +kernel⟩

/-- The last dword of the scratchpad of the last core. -/
def remote : State := gs one [0x0D000000C7FFFFF8, 5]

/-- The page at 0x20000 is write-blocked (leaf bit 6). -/
def writeBlocked : State := gs (mapped one 2 (openLeaf 2 ||| 0x40)) [9, 0x2FFFC]

/-- The translation of a posted atomic and whether its page is blocked. -/
def postedPage (s : State) (ea : Word) : Option Bool :=
  match resolveLead (begun s) ea .write true with
  | .ok (x, _) => some (x.leaf.getLsbD 6)
  | .error _ => none

theorem witness_RemoteAndPosted :
    (Runs remote ∧ Readable remote 1 ∧ Readable remote 2 ∧ Readable remote 0 ∧ Claims.Remote (remote.arch.rg 1) 8
      ∧ (chunkOf remote remote.cur).held = false)
    ∧ (Runs data ∧ Readable data 2 ∧ bits (data.arch.rg 2) 63 60 = 0 ∧ placeOf (data.arch.rg 2) = .paged
      ∧ (data.arch.rg 2).toNat % 8 = 0 ∧ postedPage data (data.arch.rg 2) = some false)
    ∧ Runs writeBlocked ∧ Readable writeBlocked 2 ∧ placeOf (writeBlocked.arch.rg 2) = .paged ∧ (writeBlocked.arch.rg 2).toNat % 4 = 0
    ∧ postedPage writeBlocked (writeBlocked.arch.rg 2) = some true :=
  ⟨⟨runs_of (by decide +kernel), .inr (by decide +kernel), .inr (by decide +kernel), .inl rfl,
      ⟨by decide +kernel, ⟨25599, 131064, by decide +kernel⟩, by decide +kernel⟩, by decide +kernel⟩,
    ⟨runs_of (by decide +kernel), .inr (by decide +kernel), by decide +kernel⟩,
    runs_of (by decide +kernel), .inr (by decide +kernel), by decide +kernel⟩

/-- A held region that has retired one instruction. -/
def heldOpen : State := after .hold one

theorem witness_ChunkControl :
    (Runs one ∧ (chunkOf one one.cur).held = false ∧ (chunkOf one one.cur).retired = 0)
    ∧ (Runs later ∧ (chunkOf later later.cur).held = false ∧ (chunkOf later later.cur).retired ≠ 0)
    ∧ (Runs heldOpen ∧ (chunkOf heldOpen heldOpen.cur).held = true)
    ∧ Runs (super heldOpen) ∧ (chunkOf (super heldOpen) c0).held = true
    ∧ ∀ look w d b n, n = 0x004 → (Claims.alwaysCut (super heldOpen) look w d 1 b n).all (fun p => !(p.1 == .chk)) = true
        ∧ leads (super heldOpen) c0 = none ∧ (super heldOpen).arch.priv = true ∧ crCuts 0x000 = true ∧ crReadOnly 0x000 = false :=
  ⟨⟨runs_of (by decide +kernel), by decide +kernel⟩, ⟨runs_of (by decide +kernel), by decide +kernel⟩,
    ⟨runs_of (by decide +kernel), by decide +kernel⟩, runs_of (by decide +kernel), by decide +kernel, fun look w d b n h => by
      subst h; exact ⟨rfl, by decide +kernel, by decide +kernel, by decide +kernel, by decide +kernel⟩⟩

/-- The collective registers hold a count of 1. -/
def collective : State := super (regs one fun a => { a with eng := fset a.eng 0x203 1 })
/-- One register of the copy and the collective engine does not pass its check. -/
def badEngine (n : Nat) : State := regs collective fun a => { a with eng := fset a.eng n (if n = 0x203 then 0 else 0x8000000000000007) }
/-- Those before it in a list of checks pass, it does not (the two bits of 0x206 have no value that fails). -/
def firstBad (l : List (Nat × (Word → Bool))) : Bool :=
  (upto 0 l.length).all fun j =>
    match l.drop j with
    | q :: _ => q.1 == 0x206 || (l.take j).all (fun p => p.2 ((badEngine q.1).arch.re p.1)) && !q.2 ((badEngine q.1).arch.re q.1)
    | [] => false

theorem witness_EngineInstructions :
    (Runs collective ∧ Readable collective 31 ∧ (chunkOf collective collective.cur).held = false ∧ Claims.xeReady collective.arch
      ∧ Claims.ceReady collective.arch ∧ collective.arch.priv = true)
    ∧ (∀ n ∈ [0x100, 0x207], Runs (badEngine n) ∧ (chunkOf (badEngine n) (badEngine n).cur).held = false)
    ∧ firstBad Claims.xeChecks = true ∧ firstBad Claims.ceChecks = true :=
  ⟨⟨runs_of (by decide +kernel), .inr (by decide +kernel), by decide +kernel, by unfold Claims.xeReady; decide +kernel,
      by unfold Claims.ceReady; decide +kernel, by decide +kernel⟩,
    fun n h => by fin_cases h <;> exact ⟨runs_of (by decide +kernel), by decide +kernel⟩, by decide +kernel, by decide +kernel⟩

/-- The strand leads a bunch of two cores. -/
def leader : State := one.setCore 0 { one.core 0 with bunch := some ⟨0, 2, c0⟩ }

theorem witness_BunchInstructions :
    (∀ w ∈ [(2 : Word), 16, 3], Runs (gs one [9, w]) ∧ Readable (gs one [9, w]) 2 ∧ (gs one [9, w]).arch.rg 2 = w
      ∧ (chunkOf (gs one [9, w]) c0).held = false ∧ (gs one [9, w]).me.twin = none ∧ leads (gs one [9, w]) c0 = none)
    ∧ ¬ ((3 : Word) = 2 ∨ (3 : Word) = 4 ∨ (3 : Word) = 8 ∨ (3 : Word) = 16)
    ∧ (Runs leader ∧ Readable leader 0 ∧ (chunkOf leader leader.cur).held = false ∧ (leads leader leader.cur).isSome = true
      ∧ leader.me.twin = none)
    ∧ (let s := me one fun st => { st with twin := some (⟨32, 0⟩, true) }
       Runs s ∧ Readable s 1 ∧ (chunkOf s s.cur).held = false ∧ s.me.twin.isSome = true) := by
  refine ⟨fun w h => ?_, by decide, ⟨runs_of (by decide +kernel), .inl rfl, by decide +kernel⟩, runs_of (by decide +kernel),
    .inr (by decide +kernel), by decide +kernel⟩
  fin_cases h <;> exact ⟨runs_of (by decide +kernel), .inr (by decide +kernel), by decide +kernel⟩

def launching : State := super (gs (paged one) [0x2FF00])

theorem witness_LaunchAndStop :
    (Runs launching ∧ (chunkOf launching launching.cur).held = false ∧ Readable launching 1
      ∧ bits (launching.arch.rg 1) 63 60 = 0 ∧ placeOf (launching.arch.rg 1) = .paged ∧ (launching.arch.rg 1).toNat % 256 = 0
      ∧ answers ((upto 0 4).foldlM (fun s k => enterRead s (launching.arch.rg 1 + BitVec.ofNat 64 (64 * k))) (begun launching)) = true
      ∧ leads launching launching.cur = none ∧ launching.arch.priv = true)
    ∧ (Runs leader ∧ (chunkOf leader leader.cur).held = false ∧ (leads leader leader.cur).isSome = true)
    ∧ (super leader).arch.priv = true
    ∧ bits (0x1000000000000000 : Word) 63 60 ≠ 0 ∧ placeOf 0x0C00000000000000 ≠ .paged ∧ placeOf 0x20080 = .paged
    ∧ (0x20080 : Word).toNat % 256 ≠ 0 ∧ answers (resolveLead (begun one) 0x100 .read false) = false :=
  ⟨⟨runs_of (by decide +kernel), by decide +kernel, .inr (by decide +kernel), by decide +kernel⟩,
    ⟨runs_of (by decide +kernel), by decide +kernel⟩, by decide +kernel⟩

theorem witness_ControlRegisterAccess : Runs (super one) ∧ (super one).arch.priv = true ∧ Readable (super one) 1
    ∧ (chunkOf (super one) c0).held = false
    ∧ crReadOnly 0x004 = false ∧ (0x004 : BitVec 12) ≠ 0x000 ∧ (0x004 : BitVec 12) ≠ 0x020 ∧ crReadOnly 0x081 = true
    ∧ crReadOnly 0x000 = false ∧ crReadOnly 0x020 = false ∧ crCuts 0x000 = true
    ∧ (one.arch.priv = false ∧ crNoUser 0x010 = false ∧ crNoUserWrite 0x010 = false ∧ crCuts 0x010 = false)
    ∧ Runs heldOpen ∧ (chunkOf heldOpen c0).held = true :=
  ⟨runs_of (by decide +kernel), by decide +kernel, .inr (by decide +kernel), by decide +kernel, by decide +kernel, by decide +kernel,
    by decide +kernel, by decide +kernel, by decide +kernel, by decide +kernel, by decide +kernel, by decide +kernel,
    runs_of (by decide +kernel), by decide +kernel⟩

theorem witness_Maintenance :
    (Runs launching ∧ Readable launching 1 ∧ launching.arch.priv = true ∧ bits (launching.arch.rg 1) 63 60 = 0
      ∧ placeOf (launching.arch.rg 1) = .paged
      ∧ answers (resolveLead (begun launching) (launching.arch.rg 1) .read false) = true)
    ∧ (Runs (gs one [far]) ∧ Readable (gs one [far]) 1 ∧ placeOf ((gs one [far]).arch.rg 1) ≠ .paged)
    ∧ Runs one ∧ Readable one 0 ∧ answers (translate (begun one) one.cur.core (one.ctx one.cur) (one.arch.rg 0)) = false :=
  ⟨⟨runs_of (by decide +kernel), .inr (by decide +kernel), by decide +kernel⟩,
    ⟨runs_of (by decide +kernel), .inr (by decide +kernel), by decide +kernel⟩,
    runs_of (by decide +kernel), .inl rfl, by decide +kernel⟩

/-- The record goes to the last 4,096 bytes of a mapped page. -/
def saving : State := super (gs (paged one) [0x2F000])

theorem witness_StrandRecords :
    Runs saving ∧ Readable saving 1 ∧ saving.arch.priv = true ∧ leads saving saving.cur = none
    ∧ bits (saving.arch.rg 1) 63 60 = 0 ∧ placeOf (saving.arch.rg 1) = .paged ∧ (saving.arch.rg 1).toNat % 4096 = 0
    ∧ recordTaint saving.arch = []
    ∧ answers (resolveOwn (begun saving) (saving.arch.rg 1) .write false) = true
    ∧ answers (Claims.saveLines (begun saving) (saving.arch.rg 1) (recordBytes (begun saving) saving.cur (saving.arch.cr' 2))) = true
    ∧ answers (Claims.loadLines (begun saving) (saving.arch.rg 1)) = true :=
  ⟨runs_of (by decide +kernel), .inr (by decide +kernel), by decide +kernel⟩

/-! ### Vector unit -/

/-- The environment of the strand's vector operations. -/
def env (s : State) : VEnv :=
  match venv (begun s) with
  | .ok e => e
  | .error _ => { mode := 1, ftz := false, sat := false, te := 0, view := none, seed := 0 }

theorem env_of {s : State} (h : answers (venv (begun s)) = true) : venv (begun s) = .ok (env s) := by
  unfold env
  cases hv : venv (begun s) with
  | ok e => rfl
  | error x => rw [hv] at h; cases h

/-- Every lane of v1 is 1.0, v2 +∞, v3 −∞, v4 zero; mask v7 has the last lane of 64; no trap is enabled, or every one is. -/
def vectors : State := vs (gs one [7, 3, 16]) [splat 0x3F800000, splat 0x7F800000, splat 0xFF800000, 0, 0, 0, 0x8000000000000000]
def trapping : State := ctl (ctl vectors 0x010 0x1E00) 4 0x4000

theorem witness_VectorArithmetic :
    (Runs vectors ∧ Claims.MaskOk vectors ⟨7, false⟩ 1 ∧ VReadable vectors 1 ∧ VReadable vectors 31
      ∧ venv (begun vectors) = .ok (env vectors)
      ∧ Claims.lowestTrap (env vectors).te 16 (Claims.activeIn vectors 0) (fun k => (env vectors).result f32 k
          (addX 1 (Claims.num (env vectors) .f32 k (vectors.arch.rv 2)) (Claims.num (env vectors) .f32 k (vectors.arch.rv 3)))) = none)
    ∧ Runs trapping ∧ Claims.MaskOk trapping ⟨0, false⟩ 1 ∧ venv (begun trapping) = .ok (env trapping)
      ∧ (Claims.lowestTrap (env trapping).te 16 (Claims.activeIn trapping 0) (fun k => (env trapping).result f32 k
          (addX 1 (Claims.num (env trapping) .f32 k (trapping.arch.rv 2)) (Claims.num (env trapping) .f32 k (trapping.arch.rv 3))))).isSome
        = true :=
  ⟨⟨runs_of (by decide +kernel), by unfold Claims.MaskOk MaskReadable VReadable; decide +kernel, by unfold VReadable; decide +kernel,
      by unfold VReadable; decide +kernel, env_of (by decide +kernel), by decide +kernel⟩,
    runs_of (by decide +kernel), ⟨.inl rfl, .inl rfl⟩, env_of (by decide +kernel), by decide +kernel⟩

/-- The operands of the patterns, comparisons, selections, conversions and rankings. -/
theorem witness_VectorPatterns : Runs vectors ∧ Claims.MaskOk vectors ⟨7, true⟩ 1 ∧ Claims.MaskOk vectors ⟨0, false⟩ 31
    ∧ VReadable vectors 1 ∧ VReadable vectors 31 ∧ Readable vectors 0 ∧ Readable vectors 3 ∧ venv (begun vectors) = .ok (env vectors)
    ∧ Claims.lowestTrap (env vectors).te 16 (Claims.activeIn vectors 7)
        (fun k => (Claims.lane 32 k (vectors.arch.rv 1), noFlags)) = none :=
  ⟨runs_of (by decide +kernel), by unfold Claims.MaskOk MaskReadable VReadable; decide +kernel, ⟨.inl rfl, .inl rfl⟩,
    by unfold VReadable; decide +kernel, by unfold VReadable; decide +kernel, .inl rfl, .inr (by decide +kernel),
    env_of (by decide +kernel), by decide +kernel⟩

/-- v2 holds a NaN: an ordering of it traps where the invalid trap is enabled. -/
def unordered : State := ctl (ctl (vs one [splat 0, splat 0x7FC00000]) 0x010 0x1E00) 4 0x4000

theorem witness_VectorCompareAndSelect :
    (Runs vectors ∧ MaskReadable vectors 7 ∧ VReadable vectors 1 ∧ VReadable vectors 2 ∧ Readable vectors 3)
    ∧ Runs unordered ∧ Claims.MaskOk unordered ⟨0, false⟩ 1 ∧ VReadable unordered 2 ∧ venv (begun unordered) = .ok (env unordered)
    ∧ Claims.lowestTrap (unordered.arch.fcsr.extractLsb' 9 4) 16 (Claims.activeIn unordered 0) (fun k =>
        (0, if (Claims.num (env unordered) .f32 k (unordered.arch.rv 2)).isNan then invalidFlag else noFlags)) = some (0, 0) :=
  ⟨⟨runs_of (by decide +kernel), by unfold MaskReadable VReadable; decide +kernel, by unfold VReadable; decide +kernel,
      by unfold VReadable; decide +kernel, .inr (by decide +kernel)⟩,
    runs_of (by decide +kernel), ⟨.inl rfl, .inl rfl⟩, by unfold VReadable; decide +kernel, env_of (by decide +kernel),
    by decide +kernel⟩

/-- View 3 is a valid block format of 4-bit elements. -/
def formats : State := viewed (vs one [splat 0x3F800000, splat 0x3F800000])

theorem witness_VectorConversions : Runs formats ∧ Claims.MaskOk formats ⟨0, false⟩ 1 ∧ VReadable formats 2
    ∧ venv (begun formats) = .ok (env formats)
    ∧ (match namedView (begun formats) 3 with | .ok v => decide (v.width ≤ 8) | .error _ => false) = true
    ∧ Claims.lowestTrap (env formats).te 16 (Claims.activeIn formats 0)
        (fun k => convert (env formats) .i32 .f32 k (Claims.lane 32 k (formats.arch.rv 2))) = none :=
  ⟨runs_of (by decide +kernel), ⟨.inl rfl, .inl rfl⟩, by unfold VReadable; decide +kernel, env_of (by decide +kernel),
    by decide +kernel, by decide +kernel⟩

theorem witness_FormatsAndIntegers : (fdStore 0x8000000100081214).getLsbD 63 = true
    ∧ (viewOf (formats.arch) 3).fd = fdStore 0x8000000100081214
    ∧ (0x101 : Nat) ≤ 0x107 ∧ VTy.i8.float = false ∧ VTy.n32.float = false := by decide +kernel

theorem witness_VectorReductions :
    (Runs vectors ∧ MaskReadable vectors 7 ∧ VReadable vectors 2 ∧ venv (begun vectors) = .ok (env vectors)
      ∧ (env vectors).sat = false
      ∧ Claims.lowestTrap (env vectors).te 15 (fun _ => true) (fun _ => (0, noFlags)) = none)
    ∧ Claims.participants vectors 0 16 ≠ [] ∧ Claims.participants vectors 7 16 = []
    ∧ Runs trapping ∧ venv (begun trapping) = .ok (env trapping) := by
  refine ⟨⟨runs_of (by decide +kernel), by unfold MaskReadable VReadable; decide +kernel, by unfold VReadable; decide +kernel,
      env_of (by decide +kernel), by decide +kernel⟩, by decide +kernel, by decide +kernel, runs_of (by decide +kernel),
    env_of (by decide +kernel)⟩

theorem witness_VectorRanking : Runs vectors ∧ MaskReadable vectors 7 ∧ MaskReadable vectors 0 ∧ VReadable vectors 31
    ∧ Readable vectors 3 ∧ Claims.participants vectors 0 16 ≠ [] ∧ Claims.participants vectors 7 16 = [] :=
  ⟨runs_of (by decide +kernel), by unfold MaskReadable VReadable; decide +kernel, .inl rfl, by unfold VReadable; decide +kernel,
    .inr (by decide +kernel), by decide +kernel, by decide +kernel⟩

/-- Pointers of view 0 to a line and of view 3 to elements; v1 is all 1.0 and mask v7 names no element below 16. -/
def memory : State := vs line [splat 0x3F800000, 0, 0, 0, 0, 0, 0x8000000000000000, 0xFFFF0000]
def viewing : State := gs (viewed (vs one [splat 0x3F800000, splat 0x3F800000])) [0, 0, 0, view3]

/-- Mask v7 names no element below 64; a pointer to view 3, and one to view 4, which is not valid. -/
def allOff : State := vs viewing [splat 0x3F800000, splat 0x3F800000, 0, 0, 0, 0, 0]
def badView : State := gs viewing [0, 0, 0, 0x4000004000000000]

theorem witness_VectorLoads :
    (Runs memory ∧ Claims.MaskOk memory ⟨0, false⟩ 1 ∧ Readable memory 2 ∧ venv (begun memory) = .ok (env memory)
      ∧ bits (memory.arch.rg 2) 62 60 = 0 ∧ Claims.participants memory 0 64 ≠ []
      ∧ answers (flatCheck (begun memory) (memory.arch.rg 2) 64 .read) = true
      ∧ answers (Claims.byteReads (begun memory) (memory.arch.rg 2) (Claims.participants memory 0 64)) = true
      ∧ answers (flatCheck (begun memory) (memory.arch.rg 2) 8 .read) = true
      ∧ answers (loadAt (begun memory) (memory.arch.rg 2) 8 true true) = true)
    ∧ (Claims.participants allOff 7 16 = [] ∧ Claims.MaskOk allOff ⟨7, true⟩ 1 ∧ Runs allOff ∧ Readable allOff 4
      ∧ venv (begun allOff) = .ok (env allOff) ∧ bits (allOff.arch.rg 4) 62 60 ≠ 0)
    ∧ Claims.participants memory 6 64 = [] ∧ Claims.MaskOk memory ⟨6, true⟩ 1
    ∧ Runs viewing ∧ Readable viewing 4 ∧ venv (begun viewing) = .ok (env viewing) ∧ bits (viewing.arch.rg 4) 62 60 ≠ 0
    ∧ Claims.participants viewing 0 16 ≠ []
    ∧ (match viewStart (begun viewing) (viewing.arch.rg 4) (firstOf (activeElems 16 (Claims.activeIn viewing 0) fun i => i)) with
        | .ok (x, n0) =>
          answers (loadView (begun viewing) ((env viewing).result f32) x (viewing.arch.rg 4)
            (activeElems 16 (Claims.activeIn viewing 0) fun i => n0 + i))
          && (match loadView (begun viewing) ((env viewing).result f32) x (viewing.arch.rg 4) [(0, n0)] with
              | .ok ([(0, c)], _) => enabledTrap (env viewing).te c.2 == none
              | _ => false)
        | .error _ => false) = true :=
  ⟨⟨runs_of (by decide +kernel), ⟨.inl rfl, .inl rfl⟩, .inr (by decide +kernel), env_of (by decide +kernel), by decide +kernel⟩,
    ⟨by decide +kernel, by unfold Claims.MaskOk MaskReadable VReadable; decide +kernel, runs_of (by decide +kernel),
      .inr (by decide +kernel), env_of (by decide +kernel), by decide +kernel⟩,
    by decide +kernel, by unfold Claims.MaskOk MaskReadable VReadable; decide +kernel, runs_of (by decide +kernel),
    .inr (by decide +kernel), env_of (by decide +kernel), by decide +kernel⟩

/-- Every address has its translation at hand, or lies in the scratchpad. -/
def atHand (s : State) (l : List Word) : Bool :=
  l.all fun q => (tlbFind (s.core (memCore s q)).tlb (s.ctx s.cur) (bits q 59 16)).isSome
    || (match placeOf q with | .scratch _ => true | _ => false)

theorem atHand_of {s : State} {l : List Word} (h : atHand s l = true) : Claims.AtHand s l := by
  intro q hq
  have := List.all_eq_true.1 h q hq
  rw [Bool.or_eq_true] at this
  refine this.imp id fun hs => ?_
  cases hp : placeOf q <;> simp_all

theorem witness_VectorStores :
    (memory.Inv ∧ Runs memory ∧ MaskReadable memory 0 ∧ Readable memory 2 ∧ VReadable memory 1
      ∧ venv (begun memory) = .ok (env memory) ∧ bits (memory.arch.rg 2) 62 60 = 0 ∧ Claims.participants memory 0 64 ≠ []
      ∧ answers (flatCheck (begun memory) (memory.arch.rg 2) 64 .write) = true
      ∧ answers (partCheck (begun memory) (memory.arch.rg 2)
          ((Claims.participants memory 0 64).map fun i => [bits (memory.arch.rg 2) 59 0 + i])) = true
      ∧ answers (writeBytes (begun memory, []) (memory.arch.rg 2) ((Claims.participants memory 0 64).foldl
          (fun m i => collect m (bits (memory.arch.rg 2) 59 0 + i) [(memory.arch.rv 1).extractLsb' (8 * i) 8]) ([] : FMap Byte))) = true
      ∧ Alone memory)
    ∧ Claims.participants memory 6 64 = []
    ∧ (viewing.Inv ∧ Runs viewing ∧ Readable viewing 4 ∧ VReadable viewing 1 ∧ venv (begun viewing) = .ok (env viewing)
      ∧ bits (viewing.arch.rg 4) 62 60 ≠ 0 ∧ Claims.participants viewing 0 16 ≠ []
      ∧ Alone viewing
      ∧ (match viewStart (begun viewing) (viewing.arch.rg 4) (firstOf (activeElems 16 (Claims.activeIn viewing 0) fun i => i)) with
        | .ok (x, n0) => answers (storeView (begun viewing) (env viewing).rnd 16 (fun s l => settle s (env viewing) true l) x (viewing.arch.rg 4)
            (activeElems 16 (Claims.activeIn viewing 0) fun i => n0 + i) (fun i => Claims.num (env viewing) .f32 i (viewing.arch.rv 1)))
          && atHand viewing (((Claims.participants viewing 0 16).flatMap fun (i : Nat) =>
            x.bytesOf (n0 + i).toNat ++ x.scales (n0 + i).toNat).map (withView (viewing.arch.rg 4)))
        | .error _ => false) = true) :=
  ⟨⟨inv_of (by decide +kernel), runs_of (by decide +kernel), .inl rfl, .inr (by decide +kernel), by unfold VReadable; decide +kernel,
      env_of (by decide +kernel), by decide +kernel, by decide +kernel, by decide +kernel, by decide +kernel, by decide +kernel,
      by unfold Alone; decide +kernel⟩, by decide +kernel,
    inv_of (by decide +kernel), runs_of (by decide +kernel), .inr (by decide +kernel), by unfold VReadable; decide +kernel,
    env_of (by decide +kernel), by decide +kernel, by decide +kernel, by unfold Alone; decide +kernel, by decide +kernel⟩

/-- Elements at the pointer with stride 0 and with the last stride that stays in the page. -/
def strided (n : Word) : State := gs (vs line [splat 7, 0, vec [15]]) [0, 0x20000, n]

theorem witness_VectorElementAccesses : ∀ n ∈ [(0 : Word), 4],
    (strided n).Inv ∧ Runs (strided n) ∧ Claims.MaskOk (strided n) ⟨0, false⟩ 1 ∧ Readable (strided n) 2 ∧ Readable (strided n) 3
    ∧ VReadable (strided n) 1 ∧ VReadable (strided n) 3 ∧ venv (begun (strided n)) = .ok (env (strided n))
    ∧ bits ((strided n).arch.rg 2) 62 60 = 0
    ∧ (let l := Claims.elemAddrs (strided n) 0 .i32 ((strided n).arch.rg 2)
          fun i => (BitVec.ofInt 64 (i * ((strided n).arch.rg 3).toInt)).toInt
       (l.all fun q => answers (elemCheck (begun (strided n)) q.2 4 .read) && answers (elemCheck (begun (strided n)) q.2 4 .write))
        && atHand (strided n) (l.map Prod.snd) && answers (Claims.elemReads (begun (strided n)) 4 l)
        && answers (partCheck (begun (strided n)) 0 (l.map fun q => upto (bits q.2 59 0) 4))
        && answers (writeBytes (begun (strided n), []) 0 (l.foldl (fun c q => collect c (bits q.2 59 0)
            (leBytes 4 (Claims.lane 32 q.1 ((strided n).arch.rv 1)))) ([] : FMap Byte)))) = true
    ∧ (let l := Claims.elemAddrs (strided n) 0 .i32 ((strided n).arch.rg 2) fun i => elemInt 32 true (Claims.lane 32 i ((strided n).arch.rv 3))
       (l.all fun q => answers (elemCheck (begun (strided n)) q.2 4 .read) && answers (elemCheck (begun (strided n)) q.2 4 .write))
        && answers (Claims.elemReads (begun (strided n)) 4 l) && atHand (strided n) (l.map Prod.snd)
        && answers (partCheck (begun (strided n)) 0 (l.map fun q => upto (bits q.2 59 0) 4))
        && answers (writeBytes (begun (strided n), []) 0 (l.foldl (fun c q => collect c (bits q.2 59 0)
            (leBytes 4 (Claims.lane 32 q.1 ((strided n).arch.rv 1)))) ([] : FMap Byte)))) = true
    ∧ Alone (strided n) := by
  intro n h
  fin_cases h <;> exact ⟨inv_of (by decide +kernel), runs_of (by decide +kernel), ⟨.inl rfl, .inl rfl⟩, .inr (by decide +kernel),
    .inr (by decide +kernel), by unfold VReadable; decide +kernel, by unfold VReadable; decide +kernel, env_of (by decide +kernel),
    by decide +kernel, by decide +kernel, by decide +kernel, by unfold Alone; decide +kernel⟩

/-- The elements of view 3 that stand at the base, offsets all 0; the same behind a mask without an element. -/
theorem witness_viewElements :
    (viewing.Inv ∧ Runs viewing ∧ Claims.MaskOk viewing ⟨0, false⟩ 1 ∧ Readable viewing 4 ∧ Readable viewing 0 ∧ VReadable viewing 0
      ∧ VReadable viewing 1 ∧ venv (begun viewing) = .ok (env viewing) ∧ bits (viewing.arch.rg 4) 62 60 ≠ 0
      ∧ Claims.participants viewing 0 16 ≠ [])
    ∧ (Claims.participants allOff 7 16 = [] ∧ Runs allOff ∧ Claims.MaskOk allOff ⟨7, false⟩ 1 ∧ Readable allOff 4
      ∧ venv (begun allOff) = .ok (env allOff))
    ∧ VTy.float .f32 = true ∧ VTy.float .i32 = false
    ∧ (match viewStart (begun viewing) (viewing.arch.rg 4) (firstOf ((Claims.participants viewing 0 16).map fun i => (i, (0 : Int)))) with
        | .ok (x, n0) =>
          let el := (Claims.participants viewing 0 16).map fun (i : Nat) => (i, (BitVec.ofInt 64 (n0 + 0 * (i : Int))).toInt)
          (match loadView (begun viewing) ((env viewing).result f32) x (viewing.arch.rg 4) el with
            | .ok (out, _) => Claims.lowestTrap (env viewing).te 16 (fun k => (pick out k).isSome)
                (fun k => (pick out k).getD (0, noFlags)) == none
            | .error _ => false)
          && answers (storeView (begun viewing) (env viewing).rnd 16 (fun s l => settle s (env viewing) true l) x (viewing.arch.rg 4) el
              (fun i => Claims.num (env viewing) .f32 i (viewing.arch.rv 1)))
          && atHand viewing ((el.flatMap fun q => x.bytesOf q.2.toNat ++ x.scales q.2.toNat).map (withView (viewing.arch.rg 4)))
        | .error _ => false) = true ∧ Alone viewing :=
  ⟨⟨inv_of (by decide +kernel), runs_of (by decide +kernel), ⟨.inl rfl, .inl rfl⟩, .inr (by decide +kernel), .inl rfl, by unfold VReadable; decide +kernel,
      by unfold VReadable; decide +kernel, env_of (by decide +kernel), by decide +kernel⟩,
    ⟨by decide +kernel, runs_of (by decide +kernel), by unfold Claims.MaskOk MaskReadable VReadable; decide +kernel,
      .inr (by decide +kernel), env_of (by decide +kernel)⟩, by decide +kernel, by decide +kernel, by decide +kernel,
    by unfold Alone; decide +kernel⟩

/-! Where accesses trap (R152, R163): each check, failing at the first byte or element. -/

/-- May accesses go to these bytes (`Claims.Open`)? -/
def openB (s : State) (ea : Word) (n : Nat) : Bool :=
  match placeOf ea with
  | .paged => decide (bits ea 59 0 + n ≤ 0x0C00000000000000)
  | .scratch off => decide (off + n ≤ (s.core s.cur.core).spBytes)
  | _ => false

theorem open_iff (s : State) (ea : Word) (n : Nat) : Claims.Open s ea n ↔ openB s ea n = true := by
  unfold Claims.Open openB
  cases placeOf ea <;> simp

theorem firstShut_of {s : State} {a : Word} {l : List Word} (j : Nat)
    (h : ((l.take j).all (fun b => openB s b 1) && (match l.drop j with | b :: _ => b == a && !openB s a 1 | [] => false)) = true) :
    Claims.FirstShut s l (5, 0, a) := by
  rw [Bool.and_eq_true] at h
  have hl := List.take_append_drop j l
  match hd : l.drop j, h.2 with
  | b :: t, h2 =>
    simp only [Bool.and_eq_true, beq_iff_eq, Bool.not_eq_true'] at h2
    rw [hd] at hl
    exact ⟨l.take j, b, t, hl.symm, fun c hc => (open_iff ..).2 (List.all_eq_true.1 h.1 c hc),
      by rw [h2.1, open_iff, h2.2]; decide, by rw [h2.1]⟩

theorem allOpen_of {s : State} {l : List Word} (h : (l.all fun b => openB s b 1) = true) : ∀ b ∈ l, Claims.Open s b 1 :=
  fun b hb => (open_iff ..).2 (List.all_eq_true.1 h b hb)

theorem firstBarred_of {s : State} {a : Word × Want} {l : List (Word × Want)}
    (h : (match l with
      | b :: _ => b == a && placeOf a.1 == .paged && (match resolveOwn s a.1 a.2 false with | .error _ => true | .ok _ => false)
      | [] => false) = true) : ∃ x, Claims.FirstBarred s l x := by
  match l with
  | b :: t =>
    simp only [Bool.and_eq_true, beq_iff_eq] at h
    obtain ⟨⟨h1, h2⟩, h3⟩ := h
    subst h1
    cases he : resolveOwn s b.1 b.2 false with
    | error e => exact ⟨_, [], b, t, e, rfl, by simp, h2, he, rfl⟩
    | ok v => rw [he] at h3; cases h3

theorem firstFails_of {α : Type} {l : List α} {P : α → Nat × Nat × Word → Prop} {a : α} {x : Nat × Nat × Word}
    (h : l.head? = some a) (hp : P a x) : Claims.FirstFails l P x := by
  match l with
  | b :: t =>
    cases h
    exact ⟨[], a, t, rfl, by simp, hp⟩

/-- Bit 63, a window, a misalignment, a page that is not mapped: what a load or store of `n` bytes at view 0 raises. -/
def barrier (k : Nat) : Word := nth [0x8000000000000000, 0x0BFFFFFFFFFFFFFE, 0x20001, 0x100000] 0 k
def behind (k : Nat) : State := gs one [9, barrier k]

theorem witness_vectorAccessTraps_registers : ∀ k < 4, Runs (behind k) ∧ Claims.MaskOk (behind k) ⟨0, false⟩ 1 ∧ Readable (behind k) 2
    ∧ VReadable (behind k) 1 ∧ Readable (behind k) 0 ∧ venv (begun (behind k)) = .ok (env (behind k))
    ∧ bits ((behind k).arch.rg 2 + (0 : BitVec 6).signExtend 64 * 64) 62 60 = 0
    ∧ (behind k).arch.rg 2 + (0 : BitVec 6).signExtend 64 * 64 = barrier k
    ∧ (Claims.elemAddrs (behind k) 0 .i32 ((behind k).arch.rg 2) fun _ => 0).head? = some (0, barrier k)
    ∧ Claims.participants (behind k) 0 64 ≠ [] := by
  intro k h
  interval_cases k <;> exact ⟨runs_of (by decide +kernel), ⟨.inl rfl, .inl rfl⟩, .inr (by decide +kernel),
    by unfold VReadable; decide +kernel, .inl rfl, env_of (by decide +kernel), by decide +kernel, by decide +kernel, by decide +kernel,
    by decide +kernel⟩

/-- The checks of an access at view 0, whole (64 bytes) and of an element (4 bytes): each fails at its barrier. -/
theorem witness_vectorAccessTraps_flat : ∀ k < 4, ∀ w,
    (∃ x, Claims.FlatFails (begun (behind k)) (barrier k) 64 true w x)
    ∧ ∃ x, Claims.FirstFails (Claims.elemAddrs (behind k) 0 .i32 ((behind k).arch.rg 2) fun _ => 0)
        (fun r => Claims.FlatFails (begun (behind k)) r.2 4 false w) x := by
  intro k h w
  suffices hs : (∃ x, Claims.FlatFails (begun (behind k)) (barrier k) 64 true w x)
      ∧ ∃ x, Claims.FlatFails (begun (behind k)) (barrier k) 4 false w x by
    obtain ⟨h1, x, hx⟩ := hs
    exact ⟨h1, x, firstFails_of (witness_vectorAccessTraps_registers k h).2.2.2.2.2.2.2.2.1 hx⟩
  interval_cases k
  · exact ⟨⟨_, .inl ⟨by decide +kernel, rfl⟩⟩, _, .inl ⟨by decide +kernel, rfl⟩⟩
  · exact ⟨⟨_, .inr (.inl ⟨by decide +kernel, by rw [open_iff]; decide +kernel, rfl⟩)⟩,
      (5, 0, 0x0C00000000000000), .inr (.inl ⟨by decide +kernel, firstShut_of 2 (by decide +kernel)⟩)⟩
  · exact ⟨⟨_, .inr (.inr (.inl ⟨by decide +kernel, (open_iff ..).2 (by decide +kernel), by decide +kernel, rfl⟩))⟩,
      _, .inr (.inr (.inl ⟨by decide +kernel, allOpen_of (by decide +kernel), by decide +kernel, rfl⟩))⟩
  · have hb : ∃ x, Claims.FirstBarred (begun (behind 3)) [(barrier 3, w)] x := by
      refine firstBarred_of (a := (barrier 3, w)) ?_
      cases w <;> decide +kernel
    obtain ⟨x, hx⟩ := hb
    exact ⟨⟨x, .inr (.inr (.inr ⟨by decide +kernel, (open_iff ..).2 (by decide +kernel), by decide +kernel, hx⟩))⟩,
      x, .inr (.inr (.inr ⟨by decide +kernel, allOpen_of (by decide +kernel), by decide +kernel, hx⟩))⟩

/-- Through view 3: a descriptor that is not valid, bit 63, an address below the base, an element before element 0, one whose
bytes lie in the window region, one whose page is not mapped. -/
theorem witness_vectorAccessTraps_view : ∀ write : Bool, ∀ rest : List Nat,
    (∀ p ∈ [(0x4000004000000000 : Word), 0xB000004000000000, 0x3000003FFFFFFFFF, 0x3C00000000000000, 0x3000004000050000],
      ∃ x, Claims.ViewTraps (begun viewing) p (0 : Nat) (fun n0 => (0 :: rest).map fun (k : Nat) => n0 + k) write x)
    ∧ ∃ x, Claims.ViewTraps (begun viewing) view3 (-1) (fun n0 => (0 :: rest).map fun (_ : Nat) => wrapNum (n0 + (-1))) write x := by
  have hv : (viewOf (begun viewing).arch 3).valid = true := by decide +kernel
  intro write rest
  refine ⟨fun p h => ?_, ?_⟩
  · fin_cases h
    · exact ⟨_, .inl ⟨by decide +kernel, rfl⟩⟩
    · exact ⟨_, .inr (.inl ⟨hv, .inl (by decide +kernel), rfl⟩)⟩
    · exact ⟨_, .inr (.inl ⟨hv, .inr (by decide +kernel), rfl⟩)⟩
    · refine ⟨(5, 0, 0x3C00000000000000), .inr (.inr ⟨hv, by decide +kernel, by decide +kernel, firstFails_of rfl (.inr (.inl ⟨by decide +kernel,
        firstShut_of 0 (by decide +kernel)⟩))⟩)⟩
    · have hb : ∃ x, Claims.FirstBarred (begun viewing) (Claims.viewAccesses (viewOf (begun viewing).arch 3) 0x3000004000050000
          ((viewOf (begun viewing).arch 3).numberAt (bits (0x3000004000050000 : Word) 59 0)).toNat write .read) x := by
        cases write
        · exact firstBarred_of (a := (0x3000004000050000, .read)) (by decide +kernel)
        · exact firstBarred_of (a := (0x3000004000050000, .read)) (by decide +kernel)
      obtain ⟨x, hx⟩ := hb
      exact ⟨x, .inr (.inr ⟨hv, by decide +kernel, by decide +kernel, firstFails_of rfl (.inr (.inr ⟨by decide +kernel,
        allOpen_of (by decide +kernel), hx⟩))⟩)⟩
  · exact ⟨_, .inr (.inr ⟨hv, by decide +kernel, by decide +kernel, firstFails_of rfl (.inl ⟨by decide +kernel, rfl⟩)⟩)⟩

/-- View 3 without blocks. -/
def blockless : State := ctl viewing 0x103 0x8000000000001214

/-- v1 is a signalling NaN in every lane and every trap is enabled. -/
def signalling : State := ctl (ctl (vs viewing [splat 0x7FA07FA0]) 0x010 0x1E00) 4 0x4000

/-- A quantisation of v1, type bf16, behind g4 in a state: its operands, and whether its lowest trap is as said. -/
def quantises (s : State) (traps : Bool) : Bool :=
  match viewStart (begun s) (s.arch.rg 4) 0 with
  | .ok (v, n0) =>
    let q := quantBlocks v (env s).rnd ((upto 0 (elemN .bf16)).map fun k => Claims.num (env s) .bf16 k (s.arch.rv 1))
    let codes := (upto 0 (elemN .bf16)).flatMap fun i => v.bytesOf (n0.toNat + i)
    let scales := (upto 0 (elemN .bf16)).flatMap fun i => v.scales (n0.toNat + i)
    (v.block == 0 || (n0.toNat % v.block == 0 && elemN .bf16 % v.block == 0))
    && answers (checkAll (upto 0 (elemN .bf16)) fun i => quantCheck (begun s) v (s.arch.rg 4) (n0.toNat + i))
    && atHand s ((codes ++ scales).map (withView (s.arch.rg 4)))
    && (match mergeQuant (begun s, []) v (s.arch.rg 4) n0.toNat (q.1.map Prod.fst) q.2 with
      | .ok (b, w) =>
        (Claims.lowestTrap (env s).te (elemN .bf16) (fun _ => true) fun k => q.1.getD k (0, noFlags)).isSome == traps
        && (traps || (match settle w.1 (env s) true (q.1.map some) with
          | .ok u => answers (writeBytes (u, w.2) (s.arch.rg 4) b)
          | .error _ => false))
      | .error _ => false)
  | .error _ => false

theorem witness_VectorScales :
    (Runs viewing ∧ venv (begun viewing) = .ok (env viewing) ∧ Claims.MaskOk viewing ⟨0, false⟩ 1 ∧ VReadable viewing 2
      ∧ Readable viewing 4 ∧ Alone viewing)
    ∧ (match scaleStart (begun viewing) (viewing.arch.rg 4) (Claims.participants viewing 0 16) with
        | .ok (v, n0) => decide (v.block ≠ 0)
          && (let el := activeElems 16 (Claims.activeIn viewing 0) fun i => n0 + i
              answers (Claims.scaleReads (begun viewing) v (viewing.arch.rg 4) el)
              && el.all fun q => (v.scales q.2.toNat).all fun k => openB (begun viewing) (withView (viewing.arch.rg 4) k) 1
                  && answers (resolveOwn (begun viewing) (withView (viewing.arch.rg 4) k) .read false))
        | .error _ => false) = true
    ∧ (match scaleStart (begun blockless) (blockless.arch.rg 4) (Claims.participants blockless 0 16) with
        | .ok (v, _) => v.block == 0
        | .error _ => false) = true
    ∧ Runs blockless ∧ venv (begun blockless) = .ok (env blockless)
    ∧ (viewOf badView.arch (bits (badView.arch.rg 4) 62 60)).valid = false
    ∧ ([(0xB000004000000000 : Word), 0x3000003FFFFFFFFF].all fun p =>
        let s := gs viewing [0, 0, 0, p]
        let v := viewOf s.arch (bits (s.arch.rg 4) 62 60)
        v.valid && (Claims.participants s 0 16).head? == some 0 && ((s.arch.rg 4).getLsbD 63 || decide (v.numberAt (bits (s.arch.rg 4) 59 0) < 0)))
      = true
    ∧ (viewOf allOff.arch (bits (allOff.arch.rg 4) 62 60)).valid = true ∧ Claims.participants allOff 7 16 = [] :=
  ⟨⟨runs_of (by decide +kernel), env_of (by decide +kernel), ⟨.inl rfl, .inl rfl⟩, by unfold VReadable; decide +kernel,
      .inr (by decide +kernel), by unfold Alone; decide +kernel⟩, by decide +kernel, by decide +kernel, runs_of (by decide +kernel),
    env_of (by decide +kernel), by decide +kernel, by decide +kernel, by decide +kernel⟩

/-- Blocks of 32 of 16-bit values; the pointer off a block's start, and 16 values of f32, which are no whole block. -/
theorem witness_quantisation :
    (viewing.Inv ∧ Runs viewing ∧ venv (begun viewing) = .ok (env viewing) ∧ Readable viewing 4 ∧ VReadable viewing 1 ∧ Alone viewing
      ∧ bits (viewing.arch.rg 4) 62 60 ≠ 0 ∧ quantises viewing false = true)
    ∧ (signalling.Inv ∧ Runs signalling ∧ venv (begun signalling) = .ok (env signalling) ∧ quantises signalling true = true)
    ∧ bits ((gs viewing [0, 0, 0, 0x20000]).arch.rg 4) 62 60 = 0
    ∧ (let v := viewOf viewing.arch 3
       let at' := fun (p : Word) => v.numberAt (bits p 59 0)
       v.valid && v.block == 32 && decide (0 ≤ at' (view3 + 1)) && (at' (view3 + 1)).toNat % 32 != 0 && decide (0 ≤ at' view3)
         && elemN .f32 % 32 != 0 && decide (0 ≤ at' 0x3000004000050000) && (at' 0x3000004000050000).toNat % 32 == 0
         && elemN .bf16 % 32 == 0) = true
    ∧ ∃ x, Claims.FirstFails (upto 0 (elemN .bf16)) (fun i => Claims.ViewFails (begun viewing) (viewOf viewing.arch 3) 0x3000004000050000
        ((viewOf viewing.arch 3).numberAt (bits (0x3000004000050000 : Word) 59 0) + i) true .write) x := by
  refine ⟨⟨inv_of (by decide +kernel), runs_of (by decide +kernel), env_of (by decide +kernel), .inr (by decide +kernel),
      by unfold VReadable; decide +kernel, by unfold Alone; decide +kernel, by decide +kernel⟩,
    ⟨inv_of (by decide +kernel), runs_of (by decide +kernel), env_of (by decide +kernel), by decide +kernel⟩, by decide +kernel,
    by decide +kernel, ?_⟩
  have hb : ∃ x, Claims.FirstBarred (begun viewing) (Claims.viewAccesses (viewOf viewing.arch 3) 0x3000004000050000
      ((viewOf viewing.arch 3).numberAt (bits (0x3000004000050000 : Word) 59 0)).toNat true .write) x :=
    firstBarred_of (a := (0x3000004000050000, .read)) (by decide +kernel)
  obtain ⟨x, hx⟩ := hb
  have hn : 0 ≤ (viewOf viewing.arch 3).numberAt (bits (0x3000004000050000 : Word) 59 0) := by decide +kernel
  exact ⟨x, firstFails_of (a := 0) (by decide +kernel) (.inr (.inr ⟨by simpa using hn,
    by simpa using allOpen_of (s := begun viewing) (l := ((viewOf viewing.arch 3).bytesOf ((viewOf viewing.arch 3).numberAt
      (bits (0x3000004000050000 : Word) 59 0)).toNat ++ (viewOf viewing.arch 3).scales ((viewOf viewing.arch 3).numberAt
      (bits (0x3000004000050000 : Word) 59 0)).toNat).map (withView 0x3000004000050000)) (by decide +kernel), by simpa using hx⟩))⟩

/-! ### Tile unit -/

theorem tileReady_of {s : State} {l : List (BitVec 4)}
    (h : ((s.me.run != .none && (!(chunkOf s s.cur).held || decide ((chunkOf s s.cur).retired < 1024))) && inv s
      && ((s.core s.cur.core).strands.all fun p => p.1 == s.cur.strand || p.2.chunks.isEmpty) && (leads s s.cur).isNone
      && (l.all fun a => decide (a.toNat < (s.core s.cur.core).nacc)) && (s.core s.cur.core).poolBad.isEmpty
      && ((chunkOf s s.cur).accs.all fun v => v.seen.all fun x => !x.2.2) && decide ((s.core s.cur.core).nstr ≤ 4)
      && decide (((s.core s.cur.core).strands.flatMap fun p => p.2.chunks.flatMap fun ch => ch.undo).length ≤ 64)
      && (chunkOf s s.cur).watches.isEmpty) = true) : Claims.TileReady s l := by
  iterate 9 rw [Bool.and_eq_true] at h
  obtain ⟨⟨⟨⟨⟨⟨⟨⟨⟨h1, h2⟩, h3⟩, h4⟩, h5⟩, h6⟩, h0⟩, h7⟩, h8⟩, h9⟩ := h
  refine ⟨runs_of h1, inv_of h2, fun p hp hn => ?_, by simpa using h4, fun a ha => ?_, fun w => ?_, fun v hv x hx => ?_,
    by simpa using h7, by simpa using h8, by simpa using h9⟩
  · have := List.all_eq_true.1 h3 p hp
    simpa [hn] using this
  · simpa using List.all_eq_true.1 h5 a ha
  · rw [List.isEmpty_iff.1 h6]; rfl
  · simpa using List.all_eq_true.1 (List.all_eq_true.1 h0 v hv) x hx

/-- The operands of step `k` of `s` can be read, and no element of accumulator 2 raises an enabled trap. -/
def stepped (s : State) (flip : Bool) (k : Nat) : Bool :=
  let e := { env s with mode := if (pfxOf (begun s)).rnd = 6 then 6 else 1 }
  let p := Claims.operandPointers s 5 6
  match readOperand (begun s, []) p.1 (Claims.operandFormat s) e.ftz (Claims.stepA s flip k) with
  | .ok (oa, u) =>
    match readOperand u p.2 (Claims.operandFormat s) e.ftz (Claims.stepB s k) with
    | .ok (ob, _) => Claims.tileTrap e.te (Claims.enabled s)
        (fun p => tileProduct e (e.tile s k p) (Claims.stepKs s k) oa ob (Claims.accStep s 2 p) p) == none
    | .error _ => false
  | .error _ => false

/-- `operands` at its only step, and with a step count beyond it. -/
def beyond : State := regs operands fun a => { a with eng := fset a.eng 9 1 }

theorem witness_TileMultiplyStep :
    (Claims.TileReady operands [2] ∧ Readable operands 5 ∧ Readable operands 6 ∧ venv (begun operands) = .ok (env operands)
      ∧ bits (operands.arch.re 0x009) 9 0 < (bits (operands.arch.re 0x000) 12 0 + 15) / 16
      ∧ stepped operands false 0 = true ∧ stepped operands true 0 = true)
    ∧ Claims.TileReady beyond [2] ∧ Readable beyond 5 ∧ venv (begun beyond) = .ok (env beyond)
    ∧ (bits (beyond.arch.re 0x000) 12 0 + 15) / 16 ≤ bits (beyond.arch.re 0x009) 9 0 :=
  ⟨⟨tileReady_of (by decide +kernel), .inr (by decide +kernel), .inr (by decide +kernel), env_of (by decide +kernel),
      by decide +kernel⟩, tileReady_of (by decide +kernel), .inr (by decide +kernel), env_of (by decide +kernel), by decide +kernel⟩

/-- Accumulators 2 and 3 hold 1.0 and 2.0; g5 points to the scratchpad. -/
def tiles : State :=
  vs (pool (pool (gs (corner one) [17, 0, 0, 0, 0x0E00000000000000]) (accKey 2 0) (lit [0x3F800000])) (accKey 3 0) (lit [0x40000000]))
    [splat 0x40000000]

theorem witness_TileAccumulators : Claims.TileReady tiles [2, 3] ∧ venv (begun tiles) = .ok (env tiles) ∧ VReadable tiles 1
    ∧ Readable tiles 1
    ∧ Claims.tileTrap (env tiles).te (Claims.enabled tiles) (fun p =>
        let x := addX (env tiles).mode (f32.decode (env tiles).ftz (Claims.accNow tiles 2 p))
          (f32.decode (env tiles).ftz (Claims.accNow tiles 3 p))
        finish f32 ((env tiles).tile tiles 0 p) (env tiles).view x.1 x.2) = none
    ∧ (env tiles).te = 0
    ∧ Claims.TileReady tiles [2, 15]
    ∧ ∀ i < 16, ((regs tiles fun a => { a with eng := fset a.eng 3 0xFFFFFFFF }).arch.re 0x003).getLsbD i = true :=
  ⟨tileReady_of (by decide +kernel), env_of (by decide +kernel), by unfold VReadable; decide +kernel, .inr (by decide +kernel),
    by decide +kernel, by decide +kernel, tileReady_of (by decide +kernel), by decide +kernel⟩

/-- No element enabled; view 3 behind g4. -/
def unselected : State := regs tiles fun a => { a with eng := fset a.eng 3 0 }
def tiled : State := gs (viewed (corner one)) [0, 0, 0, view3]
/-- All elements enabled, for `tquant` with blocks of 32; the same with a signalling NaN in element (0, 0) and every trap enabled. -/
def quantising : State := gs (viewed one) [0, 0, 0, view3]
def strictQuant : State := ctl (ctl (pool quantising (accKey 2 0) (lit [0x7FA07FA0, 0x40800000])) 0x010 0x1E00) 4 0x4000

theorem witness_flatTiles :
    (Claims.TileReady unselected [2] ∧ Readable unselected 5 ∧ venv (begun unselected) = .ok (env unselected)
      ∧ Claims.enabled unselected = [])
    ∧ (Claims.TileReady tiles [2] ∧ Readable tiles 5 ∧ venv (begun tiles) = .ok (env tiles) ∧ Claims.enabled tiles ≠ []
      ∧ bits (tiles.arch.rg 5) 63 60 = 0
      ∧ ((Claims.enabled tiles).all fun p => answers (tileElemCheck (begun tiles) (tiles.arch.rg 5) 4 none .read (memElem tiles p))
          && answers (tileElemCheck (begun tiles) (tiles.arch.rg 5) 4 none .write (memElem tiles p))) = true
      ∧ answers (Claims.tileLoads (begun tiles) (tiles.arch.rg 5)) = true
      ∧ (match accRead (begun tiles) 2 (tileElems (begun tiles)) with
          | .ok (_, x) => answers (writeBytes (stick x ((Claims.enabled tiles).foldl
              (fun g p => g.or (satCode (env tiles).sat (Claims.accNow tiles 2 p)).2) noFlags), []) 0
              (Claims.tileData (begun tiles) (tiles.arch.rg 5) fun p => satCode (env tiles).sat (Claims.accNow tiles 2 p)))
          | .error _ => false) = true
      ∧ atHand tiles ((Claims.enabled tiles).map (Claims.tileAt tiles (tiles.arch.rg 5))) = true) :=
  ⟨⟨tileReady_of (by decide +kernel), .inr (by decide +kernel), env_of (by decide +kernel), by decide +kernel⟩,
    tileReady_of (by decide +kernel), .inr (by decide +kernel), env_of (by decide +kernel), by decide +kernel⟩

theorem witness_viewTiles :
    Claims.TileReady tiled [2] ∧ Readable tiled 4 ∧ venv (begun tiled) = .ok (env tiled)
    ∧ (Claims.enabled tiled).head? = some (0, 0) ∧ bits (tiled.arch.rg 4) 62 60 ≠ 0
    ∧ (match viewStart (begun tiled) (tiled.arch.rg 4) (memElem tiled (0, 0)) with
        | .ok (v, n0) =>
          let l := (tileElems tiled).map fun p => (tileIndex p, wrapNum (n0 + memElem tiled p))
          (match loadView (begun tiled) (fun i x => f32.round ((env tiled).tile tiled 0 (i / 16, i % 16)) x.1 x.2) v (tiled.arch.rg 4) l with
            | .ok (out, _) => Claims.trapOf (env tiled).te out == none
            | .error _ => false)
          && answers (checkAll l fun p => viewCheck (begun tiled) v (tiled.arch.rg 4) p.2 true)
          && (match accRead (begun tiled) 2 (tileElems (begun tiled)) with
            | .ok (w, x) => answers (storeView x (fun i => (env tiled).tile (begun tiled) 0 (i / 16, i % 16)) 256
                (fun s l => settleTile s (env tiled).te (l.zipIdx.filterMap fun p => p.1.map fun x => (p.2, x))) v (tiled.arch.rg 4) l
                (fun i => f32.decode (env tiled).ftz (codeAt w (i / 16, i % 16))))
            | .error _ => false)
          && atHand tiled ((l.flatMap fun p => v.bytesOf p.2.toNat ++ v.scales p.2.toNat).map (withView (tiled.arch.rg 4)))
        | .error _ => false) = true :=
  ⟨tileReady_of (by decide +kernel), .inr (by decide +kernel), env_of (by decide +kernel), by decide +kernel⟩

/-- R181's conditions on a tile quantisation, by computation. -/
def quantFits (s : State) (v : View) (n0 : Int) : Bool :=
  (v.block != 16 || (upto 0 16).all fun i => Claims.quantAt s n0 (i, 0) % 16 == 0)
  && (v.block != 32 || (s.arch.re 0x004 == 16 && n0 % 32 == 0))

/-- A tile quantisation behind g4: its checks, its bytes, and whether its lowest trap is as said. -/
def tileQuantises (s : State) (traps : Bool) : Bool :=
  let ptr := s.arch.rg 4
  let v := viewOf s.arch (bits ptr 62 60)
  let n0 := v.numberAt (bits ptr 59 0)
  let used := (quantGroups s v.block).flatMap id
  let blocks := quantTile s (env s) v (used.map fun p => (p, Claims.accNow s 2 p))
  let fl := blocks.flatMap fun q => (q.1.zip q.2.1).map fun y => (tileIndex y.1, y.2)
  v.valid && quantFits s v n0 && used.head? == some (0, 0) && decide (0 ≤ n0) && !bitOf ptr 63
  && (used.all fun p => decide (0 ≤ Claims.quantAt s n0 p) && answers (quantCheck (begun s) v ptr (Claims.quantAt s n0 p).toNat))
  && atHand s ((used.flatMap fun p => v.bytesOf (Claims.quantAt s n0 p).toNat ++ v.scales (Claims.quantAt s n0 p).toNat).map (withView ptr))
  && (match accRead (begun s) 2 used with
    | .ok (_, x) =>
      match mergeTile (x, []) v ptr (Claims.quantAt s n0) (blocks.map fun q => (q.1, q.2.1.map Prod.fst, q.2.2)) with
      | .ok (b, y) => (Claims.trapOf (env s).te fl).isSome == traps
          && (traps || (match settleTile y.1 (env s).te fl with
            | .ok u => answers (writeBytes (u, y.2) ptr b)
            | .error _ => false))
      | .error _ => false
    | .error _ => false)

theorem witness_tileQuantisation :
    (Claims.TileReady quantising [2] ∧ Readable quantising 4 ∧ venv (begun quantising) = .ok (env quantising)
      ∧ bits (quantising.arch.rg 4) 62 60 ≠ 0 ∧ tileQuantises quantising false = true)
    ∧ (Claims.TileReady strictQuant [2] ∧ venv (begun strictQuant) = .ok (env strictQuant) ∧ tileQuantises strictQuant true = true)
    ∧ (viewOf badView.arch (bits (badView.arch.rg 4) 62 60)).valid = false
    ∧ quantFits quantising (viewOf quantising.arch 3) ((viewOf quantising.arch 3).numberAt (bits (view3 + 1) 59 0)) = false
    ∧ (quantGroups (regs quantising fun a => { a with eng := fset a.eng 3 0 }) 32).flatMap id = []
    ∧ (0xB000004000000000 : Word).getLsbD 63 = true :=
  ⟨⟨tileReady_of (by decide +kernel), .inr (by decide +kernel), env_of (by decide +kernel), by decide +kernel, by decide +kernel⟩,
    ⟨tileReady_of (by decide +kernel), env_of (by decide +kernel), by decide +kernel⟩, by decide +kernel⟩

/-- Tile operands of 4 and of 2 bytes: bit 63, an element that its offset takes past bit 59, the window region, a misaligned
pointer, a page that is not mapped; the same through a view. -/
def tileBarrier (k : Nat) : Word := nth [0x8000000000000000, 0x0FFFFFFFFFFFFFFE, 0x0BFFFFFFFFFFFFFF, 0x20001, 0x100000] 0 k

theorem witness_tileAccessTraps :
    (Runs tiled ∧ (2 : BitVec 4).toNat < (tiled.core tiled.cur.core).nacc ∧ leads tiled tiled.cur = none ∧ Readable tiled 4
      ∧ venv (begun tiled) = .ok (env tiled) ∧ (Claims.enabled tiled).head? = some (0, 0) ∧ memElem tiled (0, 0) = 0)
    ∧ (Runs operands ∧ bits (operands.arch.re 0x009) 9 0 < (bits (operands.arch.re 0x000) 12 0 + 15) / 16
      ∧ ((Claims.stepA operands false 0).map Prod.snd).head? = some 0 ∧ ((Claims.stepB operands 0).map Prod.snd).head? = some 0
      ∧ answers (readOperand (begun operands, []) (Claims.operandPointers operands 5 6).1 (Claims.operandFormat operands)
          (env operands).ftz (Claims.stepA operands false 0)) = true)
    ∧ (∀ k < 5, ∀ b ∈ [2, 4], ∀ w l, ∃ x, Claims.TileTraps (begun tiled) (tileBarrier k) b w (if k = 1 then 1 else 0) l x)
    ∧ ∀ w l, ∃ x, Claims.TileTraps (begun tiled) 0xB000004000000000 4 w 0 l x := by
  refine ⟨⟨runs_of (by decide +kernel), by decide +kernel, by decide +kernel, .inr (by decide +kernel), env_of (by decide +kernel),
      by decide +kernel⟩, ⟨runs_of (by decide +kernel), by decide +kernel⟩, ?_, fun w l => ?_⟩
  · intro k hk b hb w l
    interval_cases k <;> simp only [List.mem_cons, List.not_mem_nil, or_false] at hb <;> rcases hb with rfl | rfl
    iterate 2 exact ⟨_, .inl ⟨by decide +kernel, by decide +kernel, rfl⟩⟩
    iterate 2 exact ⟨_, .inr (.inl ⟨by decide +kernel, firstFails_of rfl (.inl ⟨by decide +kernel, rfl⟩)⟩)⟩
    iterate 2 exact ⟨(5, 0, 0x0C00000000000000), .inr (.inl ⟨by decide +kernel, firstFails_of rfl (.inr (.inl ⟨by decide +kernel,
      firstShut_of 1 (by decide +kernel)⟩))⟩)⟩
    iterate 2 exact ⟨_, .inr (.inl ⟨by decide +kernel, firstFails_of rfl (.inr (.inr (.inl ⟨by decide +kernel,
      allOpen_of (by decide +kernel), by decide +kernel, rfl⟩)))⟩)⟩
    all_goals
      have hx : ∃ x, Claims.FirstBarred (begun tiled) [(tileBarrier 4, w)] x := by
        refine firstBarred_of (a := (tileBarrier 4, w)) ?_
        cases w <;> decide +kernel
      obtain ⟨x, hx⟩ := hx
      exact ⟨x, .inr (.inl ⟨by decide +kernel, firstFails_of rfl (.inr (.inr (.inr ⟨by decide +kernel,
        allOpen_of (by decide +kernel), by decide +kernel, hx⟩)))⟩)⟩
  · exact ⟨_, .inr (.inr ⟨by decide +kernel, .inr (.inl ⟨by decide +kernel, .inl (by decide +kernel), rfl⟩)⟩)⟩

/-- 256 lines are pinned already, in an open chunk that has retired an instruction, or in a held region. -/
def pinned (held : Bool) : State :=
  let s := after .nop shaped
  s.setCh { s.chunk with pins := (List.range 256).map fun k => (k, 0), held := held }

theorem witness_TileGeometryAndPins :
    (Runs shaped ∧ Readable shaped 2 ∧ leads shaped shaped.cur = none ∧ (chunkOf shaped shaped.cur).pins = [])
    ∧ (∀ held, Runs (pinned held) ∧ Readable (pinned held) 2 ∧ leads (pinned held) (pinned held).cur = none
      ∧ (chunkOf (pinned held) (pinned held).cur).pins ≠ [] ∧ (chunkOf (pinned held) (pinned held).cur).held = held
      ∧ (chunkOf (pinned held) (pinned held).cur).retired ≠ 0
      ∧ (chunkOf (pinned held) (pinned held).cur).pins.Pairwise (fun p q => p.1 < q.1)
      ∧ 256 < (chunkOf (pinned held) (pinned held).cur).pins.length + (firsts
        (((regionSpots (begun (pinned held)) ((pinned held).arch.rg 2)).1.map fun p => p.1.key / 64).filter
          fun k => (ffind (chunkOf (pinned held) (pinned held).cur).pins k).isNone)).length)
    ∧ (let s := one.setCore 0 { one.core 0 with nacc := 15 }
       Runs s ∧ (s.core s.cur.core).nacc ≤ (15 : BitVec 4).toNat)
    ∧ Runs leader ∧ (0 : BitVec 4).toNat < (leader.core leader.cur.core).nacc ∧ (leads leader leader.cur).isSome = true :=
  ⟨⟨runs_of (by decide +kernel), .inr (by decide +kernel), by decide +kernel⟩,
    fun held => by cases held <;> exact ⟨runs_of (by decide +kernel), .inr (by decide +kernel), by decide +kernel⟩,
    ⟨runs_of (by decide +kernel), by decide +kernel⟩, runs_of (by decide +kernel), by decide +kernel⟩

/-! ### Events -/

/-- A drained chunk that has stored a dword, and strand 1 of the core with an open chunk that has loaded it. -/
def drained : State := after (.pendingDrain c0) stored
def racing : State := after (.ld64 0 3 2 1) (gs { ableToIssue drained ⟨0, 1⟩ with cur := ⟨0, 1⟩ } [9, 0x20000])
def released2 : State := after (.pendingDrain c0) (after .cut (after (.kadd 1 2) (gs one [handle, 7])))

theorem grants (s : State) (h : (calm s && detOf s (s.strand c0).lid == 0 && (s.strand c0).twin.isNone
      && (s.strand c0).waiting.length == 1 && (s.strand c0).waiting.all fun ch => ch.drained) = true) :
    Claims.Calm s ∧ detOf s (s.strand c0).lid = 0 ∧ (s.strand c0).twin = none
      ∧ ∃ ch rest, (s.strand c0).waiting = ch :: rest ∧ ch.drained = true := by
  simp only [Bool.and_eq_true, beq_iff_eq, Option.isNone_iff_eq_none] at h
  obtain ⟨⟨⟨⟨h1, h2⟩, h3⟩, h4⟩, h5⟩ := h
  refine ⟨calm_of h1, h2, h3, ?_⟩
  match hw : (s.strand c0).waiting with
  | [] => rw [hw] at h4; cases h4
  | ch :: rest => exact ⟨ch, rest, rfl, List.all_eq_true.1 h5 ch (by rw [hw]; exact List.mem_cons_self ..)⟩

theorem witness_chunkGrants :
    (Claims.Calm racing ∧ detOf racing (racing.strand c0).lid = 0 ∧ (racing.strand c0).twin = none
      ∧ ∃ ch rest, (racing.strand c0).waiting = ch :: rest ∧ ch.drained = true)
    ∧ (∀ ch ∈ (racing.strand c0).waiting, ch.ops = [] ∧ Claims.PlainWrites ch ∧ ch.writes ≠ []
        ∧ inDomain (arbiterOf c0.core ch.scope) 0 = true
        ∧ ((racing.strand ⟨0, 1⟩).opened.any fun y => !y.badShadow && sigConflict y.rsig ch.wsig) = true)
    ∧ (racing.strand ⟨0, 1⟩).waiting = [] ∧ (⟨0, 1⟩ : Sid) ≠ c0
    ∧ (Claims.Calm released2 ∧ detOf released2 (released2.strand c0).lid = 0 ∧ (released2.strand c0).twin = none
      ∧ ∃ ch rest, (released2.strand c0).waiting = ch :: rest ∧ ch.drained = true)
    ∧ ∀ ch ∈ (released2.strand c0).waiting, ch.ops ≠ [] ∧ ∀ r ∈ ch.ops, Claims.travels r = true := by
  refine ⟨grants _ (by decide +kernel), ?_, by decide +kernel, by decide +kernel, grants _ (by decide +kernel), by decide +kernel⟩
  unfold Claims.PlainWrites; decide +kernel

/-- A launch of determinism class 1. -/
def atD1 (s : State) : State := match s.launch 1 with | some x => s.setLaunch 1 { x with det := 1 } | none => s

/-- Two chunks of stores of an ordered strand, the older drained. -/
def twice : State := atD1 (after (.pendingDrain c0) (after .cut (after (.st64 3 2 0) stored)))

/-- The slot's first asker, strand 1, still has a chunk that is not done. -/
def soloist2 : State :=
  let s := ableToIssue soloist ⟨0, 1⟩
  let s := { s with solo := [(.core 0, ⟨0, 1⟩), (.core 0, c0)] }
  s.setStrand ⟨0, 1⟩ { s.strand ⟨0, 1⟩ with solo := some (.core 0), stopped := true }

/-- A chunk that has retired instructions meets a synchronous trap. -/
def caught : State := me later fun st => { st with sync := some ⟨0x0E, 0, 31⟩ }
/-- The strand waits at IDLEDEPTH 2. -/
def idling : State := me (ctl one 0x070 2) fun st => { st with run := .kwait, kw := some ⟨handle, 5, 0x10000⟩ }

theorem witness_chunkSteps :
    (∃ ch, (stored.strand c0).waiting = [] ++ ch :: [] ∧ ch.drained = false)
    ∧ (∃ x y, twice.me.waiting = [x] ++ y :: [] ∧ x.drained = true
        ∧ y.drained = false ∧ ordered twice (twice.strand c0) = true)
    ∧ (detOf soloist (soloist.strand c0).lid = 0 ∧ (soloist.strand c0).solo = some (.core 0) ∧ (soloist.strand c0).soloHeld = false
        ∧ ((soloist.solo.filter fun p => p.1 == .core 0).map fun p => p.2) = [] ++ c0 :: [] ∧ (soloist.strand c0).parked = false
        ∧ (soloist.strand c0).stopped = false ∧ winnerDone soloist c0 = true)
    ∧ (detOf soloist2 (soloist2.strand c0).lid = 0 ∧ (soloist2.strand c0).solo = some (.core 0)
        ∧ ((soloist2.solo.filter fun p => p.1 == .core 0).map fun p => p.2) = [⟨0, 1⟩] ++ c0 :: []
        ∧ (∀ d ∈ [(⟨0, 1⟩ : Sid), c0], (soloist2.strand d).soloHeld = false) ∧ (soloist2.strand ⟨0, 1⟩).stopped = true
        ∧ (soloist2.strand c0).parked = false ∧ (soloist2.strand c0).stopped = false ∧ winnerDone soloist2 c0 = true)
    ∧ ((resulted.strand c0).await = some ⟨3, some (some 77)⟩ ∧ (resulted.strand c0).waiting = []
        ∧ (resulted.strand c0).opened = none ∧ (resulted.strand c0).run = .result ∧ (3 : Nat) < 32)
    ∧ let s := me one fun st => { st with stepping := true }
      (s.strand c0).stepping = true ∧ (s.strand c0).opened = none ∧ (s.strand c0).sync = none ∧ readiness s c0 = .go := by
  refine ⟨⟨(stored.strand c0).waiting.head (by decide +kernel), by decide +kernel⟩,
    ⟨twice.me.waiting[0]'(by decide +kernel),
     twice.me.waiting[1]'(by decide +kernel), by decide +kernel⟩, by decide +kernel⟩

theorem witness_boundaryTraps :
    (let s := me one fun st => { st with sync := some ⟨0x0E, 0, 31⟩ }
     (s.core c0.core).armBrk = false ∧ readiness s c0 = .trap ∧ (s.strand c0).sync = some ⟨0x0E, 0, 31⟩ ∧ (s.strand c0).run ≠ .kwait
       ∧ (s.strand c0).opened = none)
    ∧ ((caught.core c0.core).armBrk = false ∧ readiness caught c0 = .trap ∧ (caught.strand c0).run ≠ .kwait
        ∧ (caught.strand c0).sync = some ⟨0x0E, 0, 31⟩
        ∧ ((caught.strand c0).opened.any fun ch => ch.retired != 0 && !ch.badShadow) = true)
    ∧ ((pended.core c0.core).armBrk = false ∧ readiness pended c0 = .trap ∧ (pended.strand c0).sync = none
        ∧ (pended.strand c0).pend ≠ [])
    ∧ ((me one fun st => { st with run := .halted false }).strand c0).run = .halted false := by decide +kernel

theorem witness_coreRests :
    (idling.boot.powered = true ∧ (idling.core 0).asleep = false ∧ (idling.core 0).existing ≠ []
       ∧ (∀ st ∈ (idling.core 0).existing, idles st = true)
       ∧ (∃ st ∈ (idling.core 0).existing, min 3 (st.arch.cr' 0x070).toNat = 2)
       ∧ ∀ st ∈ (idling.core 0).existing, 2 ≤ (st.arch.cr' 0x070).toNat)
    ∧ (let s := one.setCore 0 { one.core 0 with asleep := true }
       s.boot.powered = true ∧ (s.core 0).asleep = true ∧ ∃ p ∈ (s.core 0).strands, canRun p.2 = true)
    ∧ (one.strand c0).run = .ready
    ∧ ((me one fun st => { st with blocked := some (⟨0, 0, false⟩, true) }).strand c0).blocked = some (⟨0, 0, false⟩, true) := by
  decide +kernel

theorem atPort_of {s : State} {n : Nat} {o : Op} {l : Nat}
    (h : (findOp s n == some o && !o.spilled && targetOf o.rel == some l && canArrive s o && s.dbg.replay.isNone
      && !bitOf s.dbg.trctl 0 && freeOp s o && !(s.die (dieOf l)).lost && fateOf s o.ctx l (isDirect o.rel) == .apply && !coreStopped s l) = true) :
    Claims.AtPort s n o l := by
  iterate 9 rw [Bool.and_eq_true] at h
  obtain ⟨⟨⟨⟨⟨⟨⟨⟨⟨h1, h2⟩, h3⟩, h4⟩, h0⟩, h9⟩, h5⟩, h6⟩, h7⟩, h8⟩ := h
  exact ⟨beq_iff_eq.1 h1, by simpa using h2, beq_iff_eq.1 h3, h4, by simpa using h0, by simpa using h9, h5, by simpa using h6,
    beq_iff_eq.1 h7, by simpa using h8⟩

/-- The last counter of the core and the greatest amount; an operation that the port holds. -/
def topHandle : Word := 0x0C000000000001F8
def heldBack : State :=
  let s := flying (.add handle 7) 5 0
  { s with eng := { s.eng with ops := [{ op (.add handle 7) with held := true }] } }

theorem witness_countersAdd :
    (Claims.AtPort (flying (.add topHandle 0xFFFFFFFF) 5 0) 1 (op (.add topHandle 0xFFFFFFFF)) 0 ∧ handleOf topHandle = some (0, 63)
      ∧ fget ((flying (.add topHandle 0xFFFFFFFF) 5 0).core 0).ctrBad false 63 = false)
    ∧ (Claims.AtPort heldBack 1 { op (.add handle 7) with held := true } 0 ∧ handleOf handle = some (0, 6)
      ∧ fget (heldBack.core 0).ctrBad false 6 = false)
    ∧ Claims.AtPort (flying (.set handle 0xFFFFFFFFFFFFFFFF) 5 0) 1 (op (.set handle 0xFFFFFFFFFFFFFFFF)) 0
    ∧ (op (.set handle 0xFFFFFFFFFFFFFFFF)).held = false :=
  ⟨⟨atPort_of (by decide +kernel), by decide +kernel⟩, ⟨atPort_of (by decide +kernel), by decide +kernel⟩,
    atPort_of (by decide +kernel), by decide +kernel⟩

/-- A strand waits for counter 6 and its request is at the port: the counter has the value, or lacks 1. -/
def drawing (a b : Word) : State :=
  me (flying (.draw handle 0x10000) a b) fun st => { st with run := .result, await := some ⟨3, none⟩ }

theorem witness_countersWait :
    (∀ c ∈ [(5 : Word), 4], Claims.AtPort (waiting (.arm handle 5 0x10000) c 0) 1 (op (.arm handle 5 0x10000)) 0
      ∧ fget ((waiting (.arm handle 5 0x10000) c 0).core 0).ctrBad false 6 = false
      ∧ Claims.Lone (waiting (.arm handle 5 0x10000) c 0) 0 c0 ∧ ((waiting (.arm handle 5 0x10000) c 0).strand c0).run = .kwait
      ∧ detOf (waiting (.arm handle 5 0x10000) c 0) ((waiting (.arm handle 5 0x10000) c 0).strand c0).lid = 0
      ∧ fget ((waiting (.arm handle 5 0x10000) c 0).core 0).ctr 0 6 = c)
    ∧ (∀ c ∈ [(100 : Word), 99], Claims.AtPort (drawing c 0x0002000400000064) 1 (op (.draw handle 0x10000)) 0
      ∧ Claims.Lone (drawing c 0x0002000400000064) 0 c0
      ∧ ((drawing c 0x0002000400000064).strand c0).await = some ⟨3, none⟩
      ∧ fget ((drawing c 0x0002000400000064).core 0).ctrBad false 6 = false
      ∧ fget ((drawing c 0x0002000400000064).core 0).ctrBad false 7 = false) := by
  constructor <;> intro c h <;> fin_cases h
  iterate 2 exact ⟨atPort_of (by decide +kernel), by decide +kernel, by unfold Claims.Lone; decide +kernel, by decide +kernel⟩
  iterate 2 exact ⟨atPort_of (by decide +kernel), by unfold Claims.Lone; decide +kernel, by decide +kernel⟩

/-- `rcas` on the last dword of the core's scratchpad. -/
def far0 : Word := 0x0D000000000133F8
def remoting : State :=
  me (flying (.remote 3 8 far0 0x55 0x1234 true) 0 0) fun st => { st with run := .result, await := some ⟨3, none⟩ }

theorem witness_remotesExecute :
    Claims.AtPort remoting 1 (op (.remote 3 8 far0 0x55 0x1234 true)) 0 ∧ remoting.Inv ∧ placeOf far0 = .remote 0 78840
    ∧ 78840 + 8 ≤ (remoting.core 0).spBytes ∧ 78840 % 8 = 0 ∧ (∀ k, fget (remoting.core 0).poolBad false k = false)
    ∧ bitOf remoting.dbg.trctl 0 = false
    ∧ (∀ d : Sid, d.core = 0 → ∀ ch ∈ (remoting.strand d).chunks,
        fget ch.poolW false (78840 / 16) = false ∧ fget ch.poolR false (78840 / 16) = false)
    ∧ Claims.Lone remoting 0 c0 ∧ (remoting.strand c0).await = some ⟨3, none⟩ := by
  refine ⟨atPort_of (by decide +kernel), inv_of (by decide +kernel), by decide +kernel, by decide +kernel, by decide +kernel,
    fun k => ?_, by decide +kernel, fun d _ ch h => ?_, by unfold Claims.Lone; decide +kernel, by decide +kernel⟩
  · rw [show (remoting.core 0).poolBad = [] by decide +kernel]; rfl
  · have := strand_all remoting (fun st => st.chunks.isEmpty) (by decide +kernel) (by decide) d
    rw [List.isEmpty_iff.1 this] at h; cases h

/-- A posted atomic at its home. -/
def posting : State := tabled (flying (.posted 2 .i32 0x20004 0x20004 (openLeaf 2) 5) 0 0)

theorem witness_postedCombine : Claims.Calm posting
    ∧ findOp posting 1 = some (op (.posted 2 .i32 0x20004 0x20004 (openLeaf 2) 5)) ∧ freeOp posting (op (.posted 2 .i32 0x20004 0x20004 (openLeaf 2) 5)) = true
    ∧ canArrive posting (op (.posted 2 .i32 0x20004 0x20004 (openLeaf 2) 5)) = true
    ∧ (match translate (dropOp posting 1) 0 0 0x20004 with
        | .ok (x, _) => decide (leafTier x.leaf < 2 ∧ bits x.leaf 15 8 = 0 ∧ bitOf x.leaf 55 = false ∧ bitOf x.leaf 6 = false)
        | .error _ => false) = true :=
  ⟨calm_of (by decide +kernel), by decide +kernel⟩

/-- The last core of the module, which no launch claims: what goes to it is refused; so is what goes to the lost die 7. -/
def lost7 : State := { State.reset with dies := [(7, { Die.reset with lost := true })] }
def refusing (r : Rel) : State := me (flying r 0 0) fun st => { st with run := .kwait, await := some ⟨3, none⟩ }
/-- What `operationsRefused` asks of the operation: it may arrive at core 25599, and the strand is there. -/
def arrives (s : State) (o : Op) (l : Nat) : Bool :=
  findOp s 1 == some o && !o.spilled && targetOf o.rel == some l && canArrive s o && freeOp s o && !o.held
  && (Claims.opInstr 1 o.rel).isSome

theorem witness_operationsRefused :
    (∀ r ∈ [Rel.add lastHandle 7, .set lastHandle 7, .arm lastHandle 5 0x10000, .draw (lastHandle - 8) 0x10000,
        .remote 3 8 0x0D000000C7FFFFF8 0x55 0x1234 true],
      arrives (refusing r) (op r) 25599 = true ∧ (op r).unit = false ∧ Claims.Lone (refusing r) 0 c0
        ∧ ((refusing r).die (dieOf 25599)).lost = false ∧ fateOf (refusing r) 0 25599 (isDirect r) = .refuse
        ∧ ((refusing r).strand c0).run = .kwait ∧ ((refusing r).strand c0).await = some ⟨3, none⟩)
    ∧ (let s := { refusing (.add lastHandle 7) with dies := lost7.dies }
       arrives s (op (.add lastHandle 7)) 25599 = true ∧ Claims.Lone s 0 c0 ∧ (s.die (dieOf 25599)).lost = true)
    ∧ (let o := { op (.add lastHandle 7) with unit := true }
       let s := { flying (.add lastHandle 7) 0 0 with eng := { (flying (.add lastHandle 7) 0 0).eng with ops := [o] } }
       arrives s o 25599 = true ∧ ctxLive s o.ctx = true ∧ (s.die (dieOf 25599)).lost = false
         ∧ fateOf s o.ctx 25599 (isDirect o.rel) = .refuse)
    ∧ (Claims.AtPort (flying (.remote 0 8 0x0D00000000013400 0 0 true) 0 0) 1 (op (.remote 0 8 0x0D00000000013400 0 0 true)) 0
      ∧ placeOf 0x0D00000000013400 = .remote 0 78848 ∧ (one.core 0).spBytes < 78848 + 8)
    ∧ (let s := (flying (.remote 1 1 far0 5 0 false) 0 0).setCore 0
          { (flying (.remote 1 1 far0 5 0 false) 0 0).core 0 with poolBad := [(78840 / 4, true)] }
       Claims.AtPort s 1 (op (.remote 1 1 far0 5 0 false)) 0 ∧ Claims.Lone s 0 c0 ∧ 78840 + 1 ≤ (s.core 0).spBytes
         ∧ remoteReads 1 1 = true ∧ fget (s.core 0).poolBad false (78840 / 4) = true) := by
  refine ⟨fun r h => ?_, by unfold Claims.Lone; decide +kernel, by decide +kernel, ⟨atPort_of (by decide +kernel), by decide +kernel⟩,
    atPort_of (by decide +kernel), by unfold Claims.Lone; decide +kernel⟩
  fin_cases h <;> (unfold Claims.Lone; decide +kernel)

/-- The occupancy of core 3200 is husked; an add to one of its counters, at once or held; the ring of context 0 is as said. -/
def farHandle : Word := 0x0C00000000190000
def spilling (base size put : Nat) (held : Bool) : State :=
  let s := tabled one
  let s := match s.launch 1 with
    | some x => s.setLaunch 1 { x with husks := [⟨3200, 0, [], none, false⟩] }
    | none => s
  let s := s.setCore 3200 { s.core 3200 with husked := [1] }
  let o := { op (.add farHandle 7) with held := held }
  let s := { s with mem := (s.mem.store 40 (leBytes 8 base)).store 48 (leBytes 8 size) }
  { s with eng := { s.eng with ops := [o], nextOp := 2 }, lu := { s.lu with contexts := [(0, ⟨put, 0, 0, false, 0⟩)] } }

theorem witness_operationsSpilled :
    (∀ b ∈ [false, true], let s := spilling 0x20000 4 3 b
      arrives { s with eng := { s.eng with ops := [op (.add farHandle 7)] } } (op (.add farHandle 7)) 3200 = true
      ∧ findOp s 1 = some { op (.add farHandle 7) with held := b } ∧ canArrive s { op (.add farHandle 7) with held := b } = true
      ∧ (s.die (dieOf 3200)).lost = false ∧ fateOf s 0 3200 true = .spill
      ∧ memWord s 40 = 0x20000 ∧ ringSize (bits (memWord s 48) 15 0) = true ∧ (ctxCopy s 0).put - (ctxCopy s 0).take = 3
      ∧ ctxLive s 0 = true
      ∧ (match unitSpot s 8 0 (0x20000 + BitVec.ofNat 64 (3 % 4 * 32)) .write false with
          | .ok p => decide (leafTier p.leaf < 2 ∧ bits p.leaf 15 8 = 0 ∧ bitOf p.leaf 55 = false ∧ bitOf p.leaf 6 = false
              ∧ 0 + 64 ≤ p.key)
          | .error _ => false) = true)
    ∧ Claims.Calm (spilling 0x20000 4 3 false)
    ∧ (let s := spilling 0x20000 4 4 false
       bits (memWord s 48) 15 0 = 4 ∧ (ctxCopy s 0).put - (ctxCopy s 0).take = 4 ∧ memWord s 40 ≠ 0)
    ∧ memWord (spilling 0 4 0 false) 40 = 0 ∧ ringSize 3 = false :=
  ⟨by decide +kernel, calm_of (by decide +kernel), by decide +kernel⟩

/-- A transfer that waits for counter 6 to reach 6; it has 5. -/
def gated : State :=
  let s := copying .queued
  { s with eng := { s.eng with copies := s.eng.copies.map fun x => { x with set := transfer ++ [(0x106, handle), (0x107, 6)] } } }

/-- What `copyStarts` asks of transfer 1. -/
def startable (s : State) : Bool :=
  match findCopy s 1 with
  | some x => x.grp == 0 && x.st == .queued
      && (s.eng.copies.all fun y => !(clusterOf y.src.core == clusterOf x.src.core && y.st == .queued) || decide (1 ≤ y.num))
      && decide (copySlots s (clusterOf x.src.core) < 32) && !gateShut s x.src 1 && s.ctx x.src == x.ctx
      && (huskOf s x.ctx x.src).isNone && (s.strand x.src).twin.isNone && (s.strand x.src).await.isSome
  | none => false

theorem witness_copyStarts :
    (startable (copying .queued) = true ∧ ∀ x ∈ (copying .queued).eng.copies, x.reg 0x106 = 0 ∧ copyBlocks x ≠ [])
    ∧ startable gated = true ∧ ∀ x ∈ gated.eng.copies, handleOf (x.reg 0x106) = some (0, 6)
        ∧ (fget (gated.core 0).ctr 0 6).toNat < (x.reg 0x107).toNat := by decide +kernel

/-- A unit's add to a counter is taken (as a Bool). -/
def addTaken (s : State) (ctx : Nat) (h : Word) : Bool :=
  match handleOf h with
  | some (l, i) => s.eng.ops.isEmpty && fateOf s ctx l true == .apply && !(s.die (dieOf l)).lost && !(s.core l).dbgHalt
      && ((s.core l).strands.all fun p => !p.2.stopped) && !fget (s.core l).ctrBad false i
  | none => h == 0

theorem addTaken_of {s : State} {ctx : Nat} {h : Word} (hh : addTaken s ctx h = true) : Claims.AddTaken s ctx h := by
  intro hn
  unfold addTaken at hh
  cases he : handleOf h with
  | none => simp [he] at hh; exact absurd hh hn
  | some p =>
    obtain ⟨l, i⟩ := p
    simp only [he] at hh
    rw [Bool.and_eq_true, Bool.and_eq_true, Bool.and_eq_true, Bool.and_eq_true, Bool.and_eq_true] at hh
    obtain ⟨⟨⟨⟨⟨h1, h2⟩, h3⟩, h4⟩, h5⟩, h6⟩ := hh
    exact ⟨l, i, rfl, List.isEmpty_iff.1 h1, beq_iff_eq.1 h2, by simpa using h3, by simpa using h4,
      fun p hp => by simpa using List.all_eq_true.1 h5 p hp, by simpa using h6⟩

theorem witness_copyBlockWrites :
    Claims.Calm (copying .running) ∧ Claims.AddTaken (copying .running) 0 handle
    ∧ ∃ x, findCopy (copying .running) 1 = some x ∧ x.grp = 0 ∧ x.st = .running
      ∧ x.snap = some ⟨(copying .running).mem, (copying .running).poison, (copying .running).tags, (copying .running).cores⟩
      ∧ x.owed = [] ∧ x.ctx = 0 ∧ x.reg 0x108 = handle ∧ ¬ (384 ∈ x.done) ∧ bits (x.reg 0x104) 15 0 = 1
      ∧ max (x.reg 0x101).toNat (384 * 512) = 0x30002
      ∧ min ((x.reg 0x101).toNat + bits (x.reg 0x105) 23 0) (384 * 512 + 512) = 0x30008
      ∧ (∀ i < 6, (match unitSpot (copying .running) (dieOf x.src.core) x.ctx (x.reg 0x100 + BitVec.ofNat 64 i) .read false with
          | .ok q => decide (leafTier q.leaf < 2 ∧ bits q.leaf 15 8 = 0 ∧ bitOf q.leaf 55 = false ∧ bitOf q.leaf 6 = false
              ∧ q.key = 0x20000 + i)
          | .error _ => false) = true)
      ∧ (match unitSpot (copying .running) (dieOf x.src.core) x.ctx 0x30002 .write true with
          | .ok q => decide (leafTier q.leaf < 2 ∧ bits q.leaf 15 8 = 0 ∧ bitOf q.leaf 55 = false ∧ bitOf q.leaf 6 = false)
          | .error _ => false) = true :=
  ⟨calm_of (by decide +kernel), addTaken_of (by decide +kernel),
    (findCopy (copying .running) 1).get (by decide +kernel), by simp, by decide +kernel⟩

/-- The operation of die 0 has not taken its slot, and die 1 has not issued. -/
def slotless : State :=
  let s := reducing false
  let s := me s fun st => { st with run := .result, await := some ⟨3, none⟩ }
  { s with eng := { s.eng with colls := (s.eng.colls.filter fun x => x.num == 1).map fun x => { x with slotted := false } } }


theorem witness_collectiveStarts :
    (∀ x ∈ (findColl (reducing false) 1).toList, let s := reducing false
      x.qgrp = 0 ∧ x.running = false ∧ x.failed = false ∧ x.changed = false ∧ s.ctx x.src = x.ctx
      ∧ huskOf s x.ctx x.src = none ∧ (s.strand x.src).twin = none ∧ x.slotted = true ∧ allIssued s x = true
      ∧ allAgree s x = true ∧ hasRemote s x = false
      ∧ stagingUsed s (collDie x) + stagingNeed s x ≤ stagingBytes s ∧ stagingQueue s x = false
      ∧ (readSource s x (sourceElems x (collMembers s x).length (collRank s x))).isSome = true)
    ∧ (findColl (reducing false) 1).isSome = true
    ∧ (findColl slotless 1).isSome = true
    ∧ ∀ x ∈ (findColl slotless 1).toList, let s := slotless
      x.qgrp = 0 ∧ x.running = false ∧ x.failed = false ∧ x.changed = false
      ∧ x.slotted = false ∧ (s.strand x.src).await = some ⟨3, none⟩
      ∧ s.ctx x.src = x.ctx ∧ huskOf s x.ctx x.src = none ∧ (s.strand x.src).twin = none
      ∧ (s.eng.colls.filter fun y => collDie y == collDie x && y.slotted).length < 16
      ∧ (∀ y ∈ s.eng.colls, collDie y = collDie x → y.slotted = true ∨ 1 ≤ y.num) ∧ gateShut s x.src 1 = false
      ∧ ∃ m ∈ collMembers s x, isLocal s m = true
          ∧ ∀ y ∈ s.eng.colls, y.grp = x.grp → y.seq = x.seq → collDie y ≠ m % 8 := by decide +kernel

/-- A partial of the view before the group's, and one of the group's. -/
theorem witness_partialsArrive : ∀ p ∈ [(⟨5, 2, 0, 0, [1, 2]⟩ : Partial), ⟨5, 3, 0, 0, [1, 2]⟩],
    let s := { reducing false with eng := { (reducing false).eng with flying := [(1, p)] } }
    (isLocal s p.member = true → (1, p) ∈ s.eng.flying)
    ∧ (∀ y ∈ s.eng.colls, ¬ (y.grp = p.grp ∧ y.seq = p.seq ∧ collDie y = 1 ∧ y.running = true))
    ∧ (p.view < (s.group p.grp).viewN ∨ (s.group p.grp).viewN ≤ p.view) ∧ ¬ (1, p) ∈ s.eng.partials := by decide +kernel

/-- The result of operation 1, in staging; of one that ends in the next 512-byte block, the first block is placed. -/
def placing (n : Nat) : State :=
  let s := reducing true
  { s with eng := { s.eng with colls := s.eng.colls.map fun x => { x with
      set := fset x.set 0x202 0x401FC, out := some (leBytes 4 11 ++ leBytes 4 22), placed := n } } }

/-- Where block `n` of an operation's result goes. -/
def plainBlock (s : State) (x : Coll) (len : Nat) : Bool :=
  match (blocksOf (x.reg 0x202).toNat len)[x.placed]? with
  | some b => match destSpot s x b.1 with
    | some p => decide (leafTier p.leaf < 2 ∧ bits p.leaf 15 8 = 0 ∧ bitOf p.leaf 55 = false ∧ bitOf p.leaf 6 = false)
    | none => false
  | none => false

theorem witness_collectivesComplete :
    (Claims.Calm (reducing true) ∧ Claims.AddTaken (reducing true) 0 handle)
    ∧ (findColl (reducing true) 1).isSome = true
    ∧ (∀ x ∈ (findColl (reducing true) 1).toList, let s := reducing true
      x.qgrp = 0 ∧ (s.group x.grp).state ≠ 3 ∧ x.reg 0x207 = handle ∧ x.ctx = 0 ∧ s.ctx x.src = x.ctx
      ∧ huskOf s x.ctx x.src = none ∧ (s.strand x.src).twin = none
      ∧ (x.out = none ∧ x.placed = 0 ∧ x.running = true ∧ x.failed = false
        ∧ x.view = (s.group x.grp).viewN ∧ hasRemote s x = false ∧ allHere s x = true
        ∧ (∀ y ∈ s.eng.colls, y.grp = x.grp → y.seq = x.seq → y.running = true → y.out = none → destOk s y = true))
      ∧ ((contributions s x).any fun ls => plainBlock s x ((collResult x (collRank s x) ls).flatMap
          fun v => leBytes (collSize x) v.toNat).length) = true)
    ∧ ∀ n ∈ [0, 1], Claims.Calm (placing n) ∧ Claims.AddTaken (placing n) 0 handle ∧ (findColl (placing n) 1).isSome = true
      ∧ ∀ x ∈ (findColl (placing n) 1).toList, let s := placing n
        x.qgrp = 0 ∧ (s.group x.grp).state ≠ 3 ∧ x.out = some (leBytes 4 11 ++ leBytes 4 22) ∧ plainBlock s x 8 = true
          ∧ x.placed = n ∧ (blocksOf (x.reg 0x202).toNat 8).length = 2 := by
  refine ⟨⟨calm_of (by decide +kernel), addTaken_of (by decide +kernel)⟩, by decide +kernel, by decide +kernel, fun n h => ?_⟩
  fin_cases h <;> exact ⟨calm_of (by decide +kernel), addTaken_of (by decide +kernel), by decide +kernel, by decide +kernel⟩

theorem witness_collectiveResults :
    ∀ x ∈ (findColl (reducing true) 1).toList, collKind x = 0 ∧ collComb x = 0 ∧ 3 ≤ collType x ∧ collPolicy x = 0 ∧ 1 < collCount x
      ∧ (∀ k ∈ [2, 4], collKind { x with set := fset x.set 0x200 (BitVec.ofNat 64 k) } = k
          ∧ ∀ l ∈ [[(1 : W32), 2], [3, 4]], l.length = collCount { x with set := fset x.set 0x200 (BitVec.ofNat 64 k) }) := by
  decide +kernel

/-- A module whose port 2 has room for one more flit. -/
def crowded : State := State.reset.setPort 2 { Port.reset with buffer := List.replicate 511 ⟨flit1, none, none⟩ }

theorem witness_suspicion :
    (hubReady crowded = true ∧ (crowded.port 2).up = true ∧ (crowded.port 2).buffer.length < 512)
    ∧ (let s := { grouped group5 with net := { (grouped group5).net with routes := [(1, 4)] } }
       hubReady s = true ∧ (routeTo s 1).isSome = true)
    ∧ let s := { grouped group5 with time := 8000 }
      hubReady s = true ∧ 1 ≠ modNum s ∧ fget s.net.beats 0 1 + 8000 ≤ s.time ∧ 8 / 8 = 1
      ∧ (s.group 5).valid = true ∧ 8 ∈ (s.group 5).full ∧ memberOf s 7 = 7 ∧ memberOf s 0 ∈ (s.group 5).full
      ∧ ¬ memberOf s 0 ∈ (s.group 5).suspects ∧ (s.die 7).lost = false := by decide +kernel

/-- This hub proposes: member 8 turns suspect, with and without a majority of {0, 1, 8} and of {0, 8}; member 9 asks to join. -/
theorem witness_viewStarts :
    (∀ q ∈ [false, true], let s := grouped { group5 with quorum := q }
      let g := s.group 5
      let h := { g with suspects := 8 :: g.suspects }
      hubReady s = true ∧ g.valid = true ∧ g.state = 0 ∧ 8 ∈ g.full ∧ ¬ 8 ∈ g.suspects ∧ isProposer s h = true
        ∧ (h.quorum = false ∨ h.viewN = 0 ∨ h.full.length < 2 * ((nextLists h).1.filter fun m => h.full.contains m).length))
    ∧ (let s := (grouped group5).setGroup 5 { group5 with quorum := true, full := [0, 8] }
       let g := s.group 5
       let h := { g with suspects := 8 :: g.suspects }
       hubReady s = true ∧ g.valid = true ∧ g.state = 0 ∧ 8 ∈ g.full ∧ ¬ 8 ∈ g.suspects ∧ isProposer s h = true
         ∧ h.quorum = true ∧ h.viewN ≠ 0 ∧ ¬ h.full.length < 2 * ((nextLists h).1.filter fun m => h.full.contains m).length)
    ∧ let g := (grouped group5).group 5
      ¬ 9 ∈ g.full ∧ ¬ 9 ∈ g.joining ∧ ¬ 9 ∈ g.joinReq ∧ ¬ 9 ∈ g.suspects ∧ isProposer (grouped group5) g = true
        ∧ g.quorum = false := by decide +kernel

/-- The clauses of Table 12.3, each on an entry in that state. -/
theorem witness_viewSteps :
    (∀ g ∈ [group5, { group5 with state := 1, pendN := 4, prop := some prop4 }, { group5 with state := 2, pendN := 4, prop := some prop4 },
        { group5 with state := 3 }], hubReady (grouped g) = true ∧ ((grouped g).group 5).valid = true)
    ∧ ((grouped group5).group 5).state = 0 ∧ ((grouped group5).group 5).viewN < 4 ∧ 3 ≤ ((grouped group5).group 5).viewN
    ∧ (let g := (grouped { group5 with state := 1, pendN := 4, prop := some { prop4 with full := [0, 8] } }).group 5
       g.state = 1 ∧ g.pendN = 4 ∧ ¬ 1 ∈ g.acks ∧ ∃ k ∈ [0, 8], k / 8 ≠ 1 ∧ ¬ k / 8 ∈ g.acks)
    ∧ (let g := (grouped { group5 with state := 1, pendN := 4, prop := some prop4 }).group 5
       ¬ 0 ∈ g.acks ∧ ∀ k ∈ [0, 1], k / 8 = 0 ∨ k / 8 ∈ g.acks)
    ∧ (let g := (grouped { group5 with state := 2, pendN := 4, prop := some prop4, deadline := 100000 }).group 5
       g.state = 2 ∧ g.pendN = 4 ∧ g.deadline ≤ (grouped group5).time ∧ g.prop = some prop4 ∧ 0 / 8 = prop4.leader / 8 ∧ 0 ∈ g.full)
    ∧ (∀ st ∈ [1, 2], let g := (grouped { group5 with state := st, pendN := 4, prop := some { prop4 with leader := 1 } }).group 5
       (g.state = 1 ∨ g.state = 2) ∧ g.prop = some { prop4 with leader := 1 } ∧ g.pendN < 5 ∧ (g.pendN = 4 ∧ 0 < 1) ∧ 3 < g.pendN
         ∧ g.pendN ≠ 5)
    ∧ (∀ q ∈ [false, true], let s := grouped { group5 with state := 1, pendN := 4, prop := some prop4, deadline := 100000, quorum := q }
       (s.group 5).full.length < 2 * ((prop4.full.filter fun m => (s.group 5).acks.contains (m / 8) || isLocal s m).filter
         fun m => (s.group 5).full.contains m).length ∧ (s.group 5).state = 1 ∧ (s.group 5).deadline ≤ s.time ∧ (s.group 5).prop = some prop4 ∧ (s.group 5).quorum = q)
    ∧ (let s := grouped { group5 with state := 1, pendN := 4, prop := some { prop4 with full := [8] }, deadline := 100000, quorum := true }
       2 * (([8] : List Nat).filter fun m => (s.group 5).acks.contains (m / 8) || isLocal s m).length ≤ (s.group 5).full.length
         ∧ (s.group 5).viewN ≠ 0)
    ∧ ((grouped { group5 with state := 3 }).group 5).state = 3
    ∧ (let g := (grouped { group5 with joining := [9] }).group 5
       ¬ 10 ∈ g.full ∧ ¬ 10 ∈ g.joining ∧ ¬ 10 ∈ g.joinReq ∧ 9 ∈ g.joining) := by
  refine ⟨?_, ?_, ?_, ?_, ?_, ?_, ?_, ?_, ?_, ?_, ?_, ?_⟩ <;> decide +kernel

theorem witness_groupsCreated : hubReady State.reset = true ∧ [1, 0].length + (List.range 1022).length ≤ 1024
    ∧ (sortMembers [1, 0]).head? = some 0 ∧ isLocal State.reset 0 = true
    ∧ (State.reset.group 7).state = 0 ∧ (State.reset.group 7).viewN = 0 ∧ (State.reset.group 7).suspects = []
    ∧ 7 ∈ (⟨[3], [7]⟩ : NotFull).back ∧ isLocal State.reset 7 = true ∧ (State.reset.die (7 % 8)).lost = false
    ∧ ¬ 7 ∈ [1, 0] ∧ ¬ 7 ∈ (⟨[3], [7]⟩ : NotFull).joining := by decide +kernel

/-- A module with two ports to module 1, of which port 2 has failed 16 times with a block on its way. -/
def failing : State :=
  let s := State.reset.setPort 2 { (buffered.port 2) with fails := 16, buffer := [⟨{ flit1 with hdr := 0x0080000000010000 }, none, none⟩] }
  { s with net := { s.net with routes := [(1, 0xC)] } }

theorem witness_ports :
    (hubReady buffered = true ∧ (buffered.port 2).up = true)
    ∧ (Flit.good { flit1 with crc := 0 } = false ∧ Flit.seq flit1 ≠ ((buffered.setPort 2 { Port.reset with rxSeq := 1 }).port 2).rxSeq + 1)
    ∧ (Flit.good flit1 = true ∧ Flit.seq flit1 = ((State.reset.port 2).rxSeq + 1) % 2 ^ 16 ∧ Flit.dmod flit1 = modNum State.reset
      ∧ anyGroup State.reset = false ∧ State.reset.net.inputs = [] ∧ localOk 0x20000 = true ∧ localOk (0x20000 + 3 - 1) = true)
    ∧ Claims.Calm State.reset
    ∧ (∃ l, flit1.msg = .block 1 0 0 0x20000 l ∧ wasApplied State.reset 1 0 = false ∧ l.length = 3
      ∧ wasApplied ({ State.reset with net := { State.reset.net with applied := [(1, 0)] } } : State) 1 0 = true)
    ∧ Flit.good idle1 = true ∧ Flit.seq idle1 = ((State.reset.port 2).rxSeq + 1) % 2 ^ 16 ∧ idle1.msg = .idle
    ∧ Flit.dmod idle1 = modNum State.reset
    ∧ buffered.net.held = []
    ∧ (buffered.port 2).buffer = [] ++ ⟨flit1, none, none⟩ :: [] ∧ Flit.seq flit1 = 1
    ∧ (∀ x ∈ (buffered.port 2).buffer, Flit.seq x.flit ≠ 2)
    ∧ (hubReady failing = true ∧ (failing.port 2).up = true ∧ 16 ≤ (failing.port 2).fails
       ∧ ∃ b, (failing.port 2).buffer = [b] ∧ b.err = none ∧ b.flit.msg ≠ .idle
          ∧ routeTo (failing.setPort 2 { failing.port 2 with up := false }) (Flit.dmod b.flit) = some 3)
    ∧ ((State.reset.setPort 2 { Port.reset with up := false }).port 2).up = false :=
  ⟨by decide +kernel, by decide +kernel, by decide +kernel, calm_of (by decide +kernel), ⟨_, rfl, by decide +kernel⟩,
    by decide +kernel, by decide +kernel, by decide +kernel, by decide +kernel, by decide +kernel, by decide +kernel, by decide +kernel,
    by decide +kernel, ⟨by decide +kernel, by decide +kernel, by decide +kernel, _, rfl, by decide +kernel⟩, by decide +kernel⟩

theorem witness_hostAccess : Claims.Calm data ∧ Claims.AddTaken (one.setCore 0 { one.core 0 with ctr := [(6, 5)] }) 0 handle
    ∧ data.boot.powered = true ∧ hubReady data = true ∧ (0 : Nat) < 2 ^ 40 ∧ localOk 0 = true ∧ anyGroup data = false ∧ data.net.inputs = []
    ∧ 0x20000 % 64 = 0 ∧ 0x20001 % 64 ≠ 0 ∧ (25599 : Nat) < 25600 ∧ (63 : Nat) < 64
    ∧ fget (data.core 25599).ctrBad false 63 = false ∧ (data.die (dieOf 25599)).lost = false
    ∧ handleOf (BitVec.ofNat 64 handle.toNat) = some (0, 6) ∧ addGroup one (BitVec.ofNat 64 handle.toNat) = none
    ∧ coreContext one 0 = some 0 ∧ handleOf (BitVec.ofNat 64 lastHandle.toNat) = some (25599, 63)
    ∧ coreContext one 25599 = none ∧ addGroup one (BitVec.ofNat 64 lastHandle.toNat) = none :=
  ⟨calm_of (by decide +kernel), addTaken_of (by decide +kernel), by decide +kernel⟩

theorem witness_unitsOfMemory :
    (((tabled one).core 0).claim = some 1 ∧ answers (translate (tabled one) 0 (ctxOf (tabled one) 1) 0x20000) = true)
    ∧ Claims.Calm noticed ∧ Claims.AddTaken noticed 0 handle
    ∧ (noticed.die 0).notices = [⟨0, 0x123, 1, 9, 77⟩] ∧ noticeGroup noticed 0 = none ∧ handleOf (memWord noticed 16) = some (0, 6)
    ∧ ringSize (bits (memWord noticed 24) 15 0) = true ∧ memWord noticed 8 ≠ 0 ∧ memWord noticed 16 = handle
    ∧ (match unitSpot noticed 0 0 (memWord noticed 8 + BitVec.ofNat 64
          ((fget (noticed.core 0).ctr 0 6).toNat % bits (memWord noticed 24) 15 0 * 32)) .write false with
        | .ok p => decide (leafTier p.leaf < 2 ∧ bits p.leaf 15 8 = 0 ∧ bitOf p.leaf 55 = false ∧ bitOf p.leaf 6 = false)
        | .error _ => false) = true
    ∧ localOk 0 = true :=
  ⟨by decide +kernel, calm_of (by decide +kernel), addTaken_of (by decide +kernel), by decide +kernel⟩

/-! ### Launches -/

/-- The record that the queue reads next, and the state in which it is checked. -/
def nextState (s : State) : State := setQueue s 0 { s.queue 0 with fetched := (s.queue 0).fetched + 1 }
def fetchedRec (s : State) : Rec :=
  ⟨some 0, none, (queueDesc s 0).ctxd, nextRecord s 0,
    (readDwords (nextState s) (queueDesc s 0).ctxd (nextRecord s 0) 32).getD [], s.time, none⟩

/-- Record 0 can be read next. -/
def fetchable (s : State) : Bool :=
  recordWaits s 0 && !queueOutranked s 0 (peekPrio s 0) && (readDwords (nextState s) (fetchedRec s).ctx (fetchedRec s).va 32).isSome

def badRecord : State := { submitted with mem := submitted.mem.store 0x4000002 [1] }
def busy : State :=
  let s := submitted.setLaunch 9 { bareLaunch 9 0 with ctx := ctx1 }
  s.setCore 0 { s.core 0 with claim := some 9 }
def detRecord : State := { submitted with mem := submitted.mem.store 0x4000004 [0x40, 0x10] }

/-- What a record's check says of it: it can be accepted at once; it waits for cores. -/
def acceptable (s : State) (now : Bool) : Bool :=
  match checkRecord (nextState s) (fetchedRec s) with
  | .ok (some x) => !modeDiffers (nextState s) (fetchedRec s) && (siteCheck (nextState s) x).isNone && canAccept (nextState s) x == now
      && (!now || (acceptLaunch (nextState s) x).isSome)
  | _ => false

theorem witness_recordsFetched :
    (fetchable submitted = true ∧ acceptable submitted true = true)
    ∧ (fetchable busy = true ∧ acceptable busy false = true)
    ∧ (fetchable detRecord = true ∧ modeDiffers (nextState detRecord) (fetchedRec detRecord) = true
      ∧ answers (checkRecord (nextState detRecord) (fetchedRec detRecord)) = true)
    ∧ (fetchable badRecord = true ∧ (match checkRecord (nextState badRecord) (fetchedRec badRecord) with
        | .error e => (match writeState (if e = 0x14 then flagRecord (nextState badRecord) (fetchedRec badRecord) else nextState badRecord)
            (fetchedRec badRecord).ctx (fetchedRec badRecord).va 0 e with
          | some v => addTaken v (fetchedRec badRecord).ctx ((fetchedRec badRecord).dwords.getD 17 0)
          | none => false)
        | .ok _ => false) = true) :=
  ⟨by decide +kernel, by decide +kernel, by decide +kernel, by decide +kernel⟩

theorem witness_acceptance : acceptable submitted true = true := by decide +kernel

/-- Can the waiting record go on? -/
def goesOn (s : State) : Bool :=
  match (s.queue 0).waitingRec with
  | some r =>
    match r.body with
    | some x => !modeDiffers s r && (siteCheck s x).isNone && canAccept s x && (acceptLaunch s x).isSome
    | none => false
  | none => false

/-- The record of another mode waits, and no launch of its queue is left: its launch is accepted under the new mode. -/
def changes (s : State) : Bool :=
  match (s.queue 0).waitingRec with
  | some r =>
    let s1 := setCtx s r.ctx { ctxCopy s r.ctx with det := r.det, steady := r.steady }
    modeDiffers s r && (s.lu.launches.all fun p => p.2.queue != some 0)
    && (match r.body with
        | some x => (siteCheck s1 x).isNone && canAccept s1 x && (acceptLaunch s1 x).isSome
        | none => (retireMode s1 r).isSome)
  | none => false

/-- The same record as a child of a launch of its context, on the way or waiting for its cores. -/
def childRec (s : State) : Rec :=
  let r : Rec := ⟨none, some 1, ctx1, 0x4000000, (fetchedRec submitted).dwords, s.time, none⟩
  match checkRecord s r with
  | .ok b => { r with body := b }
  | .error _ => r
def parent : State :=
  let s := submitted.setLaunch 1 { bareLaunch 1 7 with ctx := ctx1, lid := 1 }
  { s with lu := { s.lu with nextLid := 2 } }
def childWaits : State := { parent with lu := { parent.lu with children := [childRec parent] } }
def childFlies : State :=
  { parent with eng := { parent.eng with ops := [{ op (.launch 0x4000000 1) with ctx := ctx1 }], nextOp := 2 } }

theorem witness_recordsGoOn :
    goesOn (blocked.setCore 0 { blocked.core 0 with claim := none }) = true
    ∧ changes otherMode = true
    ∧ (match childWaits.lu.children[0]? with
        | some r => r.det == 0 && (match r.body with
          | some x => (siteCheck childWaits x).isNone && canAccept childWaits x
              && (acceptLaunch { childWaits with lu := { childWaits.lu with children := childWaits.lu.children.erase r } } x).isSome
          | none => false)
        | none => false) = true
    ∧ (match findOp childFlies 1 with
        | some o => o.rel == .launch 0x4000000 1 && freeOp childFlies o && canArrive childFlies o
            && (match readDwords (dropOp childFlies 1) o.ctx 0x4000000 32 with
              | some ds => (match checkRecord (dropOp childFlies 1) ⟨none, some 1, o.ctx, 0x4000000, ds, childFlies.time, none⟩ with
                | .ok (some x) => canAccept (dropOp childFlies 1) x && (acceptLaunch (dropOp childFlies 1) x).isSome
                | _ => false)
              | none => false)
        | none => false) = true :=
  ⟨by decide +kernel, by decide +kernel, by decide +kernel, by decide +kernel⟩

/-- A served queue whose descriptor has turned invalid, and whose submission counter has advanced. -/
def spoiled : State := { submitted with time := 20001, mem := submitted.mem.store 8 [3] }

theorem witness_queuesPolled :
    (∀ s ∈ [hub, { hub with mem := hub.mem.store 8 [3] }, { State.reset with time := 10000 }],
      s.boot.powered = true ∧ hubReady s = true ∧ (s.queue 0).served = false ∧ (s.queue 0).read = false)
    ∧ (let s := setQueue hub 0 { hub.queue 0 with read := true, polled := 10000 }
       (s.queue 0).read = true ∧ (s.queue 0).polled + 10000 ≤ s.time ∧ (s.queue 0).served = false)
    ∧ (hubReady spoiled = true ∧ (spoiled.queue 0).served = true ∧ queueInvalid spoiled (queueDesc spoiled 0) = true
      ∧ (spoiled.queue 0).read = true ∧ ¬ (spoiled.queue 0).polled + 10000 ≤ spoiled.time
      ∧ (spoiled.queue 0).seen < subCount spoiled (queueDesc spoiled 0) ∧ (spoiled.queue 0).invalid = false)
    ∧ (queueDesc { State.reset with time := 10000 } 0).en = false
    ∧ ((queueDesc hub 0).en = true ∧ queueInvalid hub (queueDesc hub 0) = false
      ∧ handleOf (queueDesc hub 0).subctr = some (100, 0) ∧ (hub.core 100).hold ≠ some (queueDesc hub 0).ctxd)
    ∧ ((hub.setCore 100 { hub.core 100 with hold := some (queueDesc hub 0).ctxd }).core 100).hold = some (queueDesc hub 0).ctxd := by
  decide +kernel

/-- The due node of `accepted` with a predicate at 0x5000000, which is 0, or 1. -/
def predicated (v : Nat) : State :=
  match accepted.launch 1 with
  | some x => { accepted.setLaunch 1 { x with nodes := x.nodes.map fun n => { n with pred := 0x5000000 } } with
                mem := accepted.mem.store 0x5000000 (leBytes 4 v) }
  | none => accepted

/-- The launch of number 1, and its first node. -/
def launch1 (s : State) (p : Launch → Bool) : Bool := match s.launch 1 with | some x => p x | none => false
def node0 (x : Launch) (p : Node → Bool) : Bool := match x.nodes[0]? with | some n => p n | none => false

theorem witness_launchesEnd :
    launch1 accepted (fun x => x.det == 0 && node0 x fun n => n.st == .due && n.pred == 0) = true
    ∧ (∀ v ∈ [0, 1], launch1 (predicated v) (fun x => x.det == 0 && node0 x fun n => n.st == .due && n.pred != 0
        && (hubRead (predicated v) x.ctx n.pred 4).map leNat == some v
        && !fget ((predicated v).core x.anchor).ctrBad false n.dctr) = true)
    ∧ launch1 allDone (fun x => x.det == 0 && canRetire allDone x && (writeState allDone x.ctx x.recVA 1 2).isSome) = true
    ∧ launch1 started (fun _ => true) = true ∧ (started.strand d0).run ≠ .none ∧ (started.strand d0).lid = 1 := by decide +kernel

theorem witness_instancesStart : due.lu.throttled = false ∧ due.dbg.replay = none
    ∧ launch1 due (fun x => x.det == 0 && node0 x fun n => (openInstances x n).contains 0 && (x.lev n.level).domain == 0
        && !(x.lev n.level).twin && chooseUnit due x n 0 == some 3200 && startsOn due x 0 3200 == some 0
        && !outranked due (keyOf due x 0 n 0) [3200]) = true := by decide +kernel

/-- A group of one strand at its quantum boundary, without and with a chunk of stores. -/
def quantalStored : State :=
  let s := match drained.launch 1 with | some x => drained.setLaunch 1 { x with det := 1, running := [(0, 0, [c0])] } | none => drained
  me s fun st => { st with run := .boundary, quantum := 4096 }

def quantumReady (s : State) : Bool :=
  calm s && quantumEnds s 1 && s.eng.ops.isEmpty && s.eng.copies.isEmpty && s.eng.colls.isEmpty && s.net.inputs.isEmpty
  && s.lu.children.isEmpty && (s.dies.all fun d => d.2.notices.isEmpty && d.2.view.isEmpty)
  && (s.lu.launches.all fun p => !p.2.running.isEmpty && p.2.nodes.all fun n => n.st != .due && n.st != .ready)
  && (s.cores.all fun p => p.2.arms.isEmpty)
  && (groupStrands s 1 == [c0]) && (s.strand c0).run == .boundary && (s.strand c0).await.isNone && (s.strand c0).debugReq.isNone
  && !(s.strand c0).parkReq && (s.strand c0).solo.isNone && (s.strand c0).twin.isNone && s.dbg.reports.isEmpty

theorem witness_quantaEnd :
    (quantumReady quantal = true ∧ (quantal.strand c0).waiting = [])
    ∧ quantumReady quantalStored = true ∧ (quantalStored.strand c0).waiting.length = 1
    ∧ ∀ ch ∈ (quantalStored.strand c0).waiting, ch.drained = true ∧ ch.ops = [] ∧ Claims.PlainWrites ch := by
  unfold Claims.PlainWrites; decide +kernel

theorem quantum_hypotheses {s : State} (h : quantumReady s = true) :
    Claims.Calm s ∧ (∀ l, (s.core l).arms = []) ∧ ∀ d, (s.die d).notices = [] ∧ (s.die d).view = [] := by
  unfold quantumReady at h
  iterate 17 rw [Bool.and_eq_true] at h
  obtain ⟨⟨⟨⟨⟨⟨⟨⟨⟨⟨⟨⟨⟨⟨⟨⟨⟨h1, _⟩, _⟩, _⟩, _⟩, _⟩, _⟩, h2⟩, _⟩, h4⟩, _⟩, _⟩, _⟩, _⟩, _⟩, _⟩, _⟩, _⟩ := h
  refine ⟨calm_of h1, fun l => ?_, fun d => ?_⟩
  · simpa [State.core] using fget_all (fun co : Core => co.arms.isEmpty) s.cores Core.reset l h4 (by decide)
  · have := fget_all (fun d : Die => d.notices.isEmpty && d.view.isEmpty) s.dies Die.reset d h2 (by decide)
    simpa [State.die] using this

/-- The victim has an open chunk with an instruction retired. -/
def pressedOpen : State := after .nop { pressed with cur := d0 }
/-- The husk area of the strand's context is not mapped. -/
def homeless : State := { asked with mem := [(3, 1)] }

theorem witness_preemption :
    (launch1 pressed (fun y => y.det == 0 && y.lid == 1) = true ∧ (pressed.core 3200).claim = some 1 ∧ (pressed.core 3200).bunch = none ∧ strandsOn pressed 1 3200 = [d0]
      ∧ bitOf pressed.dbg.trctl 0 = false ∧ preempts pressed 0 1 3200 = true ∧ (pressed.strand d0).preReq = false)
    ∧ (pressed.strand d0).opened = none ∧ launch1 pressedOpen (fun y => y.det == 0) = true
    ∧ (preempts pressedOpen 0 1 3200 = true ∧ strandsOn pressedOpen 1 3200 = [d0] ∧ (pressedOpen.core 3200).claim = some 1
      ∧ bitOf pressedOpen.dbg.trctl 0 = false ∧ (pressedOpen.core 3200).bunch = none
      ∧ ((pressedOpen.strand d0).opened.any fun ch => !ch.held && !ch.solo && !ch.drained && !ch.badShadow) = true
      ∧ (pressedOpen.strand d0).waiting = [])
    ∧ (leaveWritable asked 0 = true ∧ leaveWritable homeless 0 = false ∧ launch1 homeless (fun y => y.det == 0 && y.lid == 1) = true
      ∧ (homeless.core 0).claim = some 1 ∧ (homeless.core 0).bunch = none ∧ strandsOn homeless 1 0 = [c0]
      ∧ (homeless.strand c0).preReq = true ∧ atRest homeless c0 = true)
    ∧ (launch1 asked (fun y => y.det == 0 && y.lid == 1) = true ∧ (asked.core 0).claim = some 1 ∧ (asked.core 0).bunch = none ∧ strandsOn asked 1 0 = [c0]
      ∧ bitOf asked.dbg.trctl 0 = false ∧ (asked.strand c0).preReq = true ∧ atRest asked c0 = true)
    ∧ launch1 husked (fun x => match x.husks with
        | [h] => h.core == 0 && h.kept.isNone && (resumeSet husked x h).length == 1 && resumable husked x 0
            && !outranked husked (huskKey husked x h) [0] && x.lid == 1
            && (reviveOn husked x h).isSome
        | _ => false) = true
    ∧ husked.lu.throttled = false :=
  ⟨by decide +kernel, by decide +kernel, by decide +kernel, by decide +kernel, by decide +kernel, by decide +kernel, by decide +kernel,
    by decide +kernel⟩

/-- The bytes of its record that are not zero, by offset (Table 10.9). -/
def askedRec : FMap Byte :=
  [(2, 1), (8, 42), (0x900, 1), (0x911, 15), (0x920, 1), (0xA08, 16), (0xA10, 16), (0xA18, 16), (0xA20, 255), (0xA21, 255),
   (0xA22, 255), (0xA23, 255), (0xA28, 16), (0xB80, 1)]

/-- Sixteen lines of the record from line `a`. -/
def askedLines (a : Nat) : List (Nat × List Byte) :=
  (upto a 16).map fun k => (64 * k, (askedRec.filter fun p => p.1 / 64 == k).foldl (fun l p => l.set (p.1 % 64) p.2) (List.replicate 64 0))

/-- The strand with the bytes of its record below `n` written. -/
def askedTo (n : Nat) : State :=
  { asked with mem := asked.mem ++ (askedRec.filter fun p => p.1 < n).map fun p => (0x2000000 + p.1, p.2) }

theorem husk_lines : launch1 asked (fun y =>
    (huskWrites asked y 0).2 == [] && huskAddr asked y.ctx 0 == 0x22000000 && y.ctx == 0
    && lineWrites (huskWrites asked y 0).1 == askedLines 0 ++ (askedLines 16 ++ (askedLines 32 ++ askedLines 48))) = true := by
  decide +kernel
theorem husk_write0 : writeHusk (askedTo 0) 0 0x22000000 (askedLines 0) [] = some (askedTo 0x400) := by decide +kernel
theorem husk_write1 : writeHusk (askedTo 0x400) 0 0x22000000 (askedLines 16) [] = some (askedTo 0x800) := by decide +kernel
theorem husk_write2 : writeHusk (askedTo 0x800) 0 0x22000000 (askedLines 32) [] = some (askedTo 0xC00) := by decide +kernel
theorem husk_write3 : writeHusk (askedTo 0xC00) 0 0x22000000 (askedLines 48) [] = some (askedTo 0x1000) := by decide +kernel

theorem writeHusk_append (s : State) (ctx : Nat) (base : Word) (a b : List (Nat × List Byte)) :
    writeHusk s ctx base (a ++ b) [] = (writeHusk s ctx base a []).bind fun t => writeHusk t ctx base b [] := by
  simp [writeHusk, List.foldlM_append]

theorem asked_start : asked = askedTo 0 := by
  show asked = { asked with mem := asked.mem ++ [] }
  rw [List.append_nil]

theorem husk_written : writeHusk asked 0 0x22000000 (askedLines 0 ++ (askedLines 16 ++ (askedLines 32 ++ askedLines 48))) [] = some (askedTo 0x1000) := by
  rw [asked_start, writeHusk_append, husk_write0, Option.bind_some, writeHusk_append, husk_write1, Option.bind_some, writeHusk_append,
    husk_write2, Option.bind_some, husk_write3]

theorem husked_some : launch1 asked (fun y => (huskCore asked y 0).isSome) = true := by
  have h := husk_lines
  unfold launch1 at h ⊢
  split at h <;> [skip; cases h]
  rename_i y _
  simp only [Bool.and_eq_true, beq_iff_eq] at h
  obtain ⟨⟨⟨h1, h2⟩, h3⟩, h4⟩ := h
  rw [h3] at h2
  unfold huskCore
  dsimp only
  rw [h1, h3, h2, h4, husk_written]
  simp only [Option.bind_eq_bind, Option.bind_some, Option.isSome_some]

theorem witness_husk :
    launch1 asked (fun y => huskWritable asked y.ctx (huskAddr asked y.ctx 0) (lineWrites (huskWrites asked y 0).1)) = true
    ∧ launch1 asked (fun y => (huskCore asked y 0).isSome) = true := ⟨by decide +kernel, husked_some⟩


/-! ### Repair, power, debug -/

def site3 : RepairUnit := .core 0 0 3

/-- A strand of the core has an open chunk; every spare site of the die has been given out. -/
def unrested : State := after .nop { ableToIssue worn ⟨3, 0⟩ with cur := ⟨3, 0⟩ }
def spareless : State :=
  { worn with boot := { worn.boot with repair := (List.range 208).map fun k =>
      (k, BitVec.ofNat 64 (entryBase (.core 0 199 15) (k / 16) (k % 16) 16)) } }

/-- The site of core 0 is retired while the strand of `asked` rests: husked and reloaded. -/
def site0 : RepairUnit := .core 0 0 0
theorem reloads :
    (match placeFor asked site0 with
      | some p => (reloadCore (addEntry (askedTo 0x1000) 0 (entryFor asked site0 p.1 p.2.1 p.2.2 4 false)) 0).isSome
      | none => false) = true := by decide +kernel
theorem saves : launch1 asked (fun y => saveCore asked 0 == some (askedTo 0x1000) && y.lid == 1) = true := by
  have h := husk_lines
  unfold launch1 at h ⊢
  split at h <;> [skip; cases h]
  rename_i y hy
  simp only [Bool.and_eq_true, beq_iff_eq] at h ⊢
  obtain ⟨⟨⟨h1, h2⟩, h3⟩, h4⟩ := h
  rw [h3] at h2
  have hc : claimant asked 0 = some y := by
    rw [← hy]; show ((asked.core 0).claim.bind asked.launch) = _
    rw [show (asked.core 0).claim = some 1 by decide +kernel]; rfl
  have hb : (asked.core 0).bunch.isSome = false := by decide +kernel
  have hl : y.lid = 1 := by
    have : (asked.launch 1).map (fun x => x.lid) = some 1 := by decide +kernel
    rw [hy] at this; simpa using this
  exact ⟨by unfold saveCore; simp only [hc, h1, h3, h2, h4, husk_written, hb]; rfl, hl⟩

theorem witness_retirements :
    (unitOk (.core 7 199 15) = true ∧ unitOk site3 = true
      ∧ ceThresh worn ≤ fget ((rollWindow worn).die (siteCode worn site3).1).ce 0 (siteCode worn site3).2
      ∧ stateLost worn site3 = false ∧ (placeFor (rollWindow worn) site3).isSome = true ∧ readyToMove (rollWindow worn) site3 = true
      ∧ ((rollWindow worn).core 3).claim = none ∧ (freeEntry (rollWindow worn) 0).isSome = true
      ∧ (placeFor worn site3).isSome = true ∧ readyToMove worn site3 = true ∧ (worn.core 3).claim = none ∧ (freeEntry worn 0).isSome = true)
    ∧ (let s := worn.setCore 3 { worn.core 3 with stateLoss := true }
       stateLost s site3 = true ∧ (placeFor s site3).isSome = true ∧ readyToMove s site3 = true ∧ (s.core 3).claim = none
         ∧ (freeEntry s 0).isSome = true)
    ∧ ((placeFor (rollWindow unrested) site3).isSome = true ∧ readyToMove (rollWindow unrested) site3 = false
      ∧ (placeFor unrested site3).isSome = true ∧ readyToMove unrested site3 = false ∧ stateLost unrested site3 = false
      ∧ ceThresh unrested ≤ fget ((rollWindow unrested).die (siteCode unrested site3).1).ce 0 (siteCode unrested site3).2)
    ∧ (placeFor spareless site3 = none ∧ stateLost spareless site3 = false ∧ spareless.boot.doomed = []
      ∧ ceThresh spareless ≤ fget ((rollWindow spareless).die (siteCode spareless site3).1).ce 0 (siteCode spareless site3).2)
    ∧ placeFor (rollWindow spareless) site3 = none
    ∧ (let s := { worn with boot := { worn.boot with moves := [⟨site3, 2, none⟩] } }
       ∃ m, moveOf s site3 = some m ∧ m.reason = 2)
    ∧ ((placeFor asked site0).isSome = true ∧ readyToMove asked site0 = true ∧ movable asked 0 = true ∧ stateLost asked site0 = false)
    ∧ launch1 asked (fun y => saveCore asked 0 == some (askedTo 0x1000) && y.lid == 1) = true
    ∧ (match placeFor asked site0 with
      | some p => (reloadCore (addEntry (askedTo 0x1000) 0 (entryFor asked site0 p.1 p.2.1 p.2.2 4 false)) 0).isSome
      | none => false) = true :=
  ⟨by decide +kernel, by decide +kernel, by decide +kernel, by decide +kernel, by decide +kernel, ⟨_, rfl, rfl⟩, by decide +kernel, saves, reloads⟩

/-- The twins with no spare left on their die and every other die lost. -/
def spareTwins : State :=
  { twins with boot := spareless.boot, dies := (List.range 7).map fun d => (d + 1, { Die.reset with lost := true }) }

/-- The third run of `third x y` agrees with the first copy where `x` is 0, with the second where `y` is 0. -/
def settles (x y : BitVec 64) : Bool :=
  let s := third x y
  match (s.strand c0).third, (s.strand c0).waiting with
  | some r, [ch] =>
    let h := crc64 (writeSet s c0 ch)
    ch.drained && (r.first == h) == (x == 0) && (r.second == h) == (y == 0) && !removalBlocks s c0 && !grantBlocked s c0 ch
      && !homeLost s ch && ch.ops.isEmpty && (s.strand ⟨32, 0⟩).chunks.isEmpty && twinPair s c0 == some (c0, ⟨32, 0⟩)
  | _, _ => false

theorem witness_twinsAndWindows :
    (c0 ≠ ⟨32, 0⟩ ∧ twinPair twins c0 = some (c0, ⟨32, 0⟩) ∧ (twins.strand c0).third = none
      ∧ (match twinHeads twins c0 ⟨32, 0⟩ with | some (x, y) => !twinsAgree twins c0 ⟨32, 0⟩ x y | none => false) = true
      ∧ (twins.strand c0).mismatch ≠ 0 ∧ (twinSpare twins c0 ⟨32, 0⟩).isSome = true
      ∧ ∀ c ∈ [c0, ⟨32, 0⟩], ∀ ch ∈ (twins.strand c).chunks, ch.badShadow = false)
    ∧ (twinPair spareTwins c0 = some (c0, ⟨32, 0⟩) ∧ (twinHeads spareTwins c0 ⟨32, 0⟩).isSome = true
      ∧ twinSpare spareTwins c0 ⟨32, 0⟩ = none ∧ (spareTwins.strand c0).mismatch ≠ 0 ∧ (spareTwins.strand c0).third = none
      ∧ (match twinHeads spareTwins c0 ⟨32, 0⟩ with | some (x, y) => !twinsAgree spareTwins c0 ⟨32, 0⟩ x y | none => false) = true)
    ∧ (settles 1 2 = true ∧ settles 0 2 = true ∧ settles 1 0 = true)
    ∧ Claims.Calm (third 0 2)
    ∧ ({ worn with time := 86400000000000 } : State).boot.window < 86400000000000 / 86400000000000 :=
  ⟨⟨by decide +kernel, by decide +kernel, by decide +kernel, by decide +kernel, by decide +kernel, by decide +kernel, by decide +kernel⟩,
    ⟨by decide +kernel, by decide +kernel, by decide +kernel, by decide +kernel, by decide +kernel, by decide +kernel⟩,
    ⟨by decide +kernel, by decide +kernel, by decide +kernel⟩,
    calm_of (by decide +kernel), by decide +kernel⟩

theorem witness_clocks :
    (steadied.boot.powered = true ∧ (steadied.cluster 0).steady = false ∧ (steadied.cluster 0).changing = none ∧ steadyHere steadied 0 = true)
    ∧ (let s := ({ steadied with time := 2000 } : State)
       let t := s.setCluster 0 { s.cluster 0 with changing := some (2000, true) }
       t.boot.powered = true ∧ (t.cluster 0).changing = some (2000, true) ∧ 2000 ≤ t.time)
    ∧ let s := ({ State.reset with time := 300 } : State)
      let t := s.setCluster 0 { s.cluster 0 with steady := true, idleSince := some 0 }
      t.boot.powered = true ∧ (t.cluster 0).idleSince = some 0 ∧ (t.cluster 0).steady = true ∧ (t.cluster 0).changing = none
        ∧ steadyHere t 0 = false := by decide +kernel

/-- Every die is at 0.8 GHz. -/
def slowest : State := { State.reset with dies := (List.range 8).map fun d => (d, { Die.reset with mhz := 800 }) }

theorem witness_power :
    (State.reset.boot.powered = true ∧ 3000 ≤ plimit State.reset ∧ plimit State.reset < 3001 ∧ (7 : Nat) < 8
      ∧ (State.reset.die 7).lost = false ∧ 800 < (State.reset.die 7).mhz)
    ∧ (slowest.boot.powered = true ∧ ∀ d < 8, (slowest.die d).lost = true ∨ (slowest.die d).mhz ≤ 800)
    ∧ (let s := { State.reset with time := 1000000, boot := { State.reset.boot with overSince := some 0 } }
       s.boot.powered = true ∧ s.boot.overSince = some 0 ∧ 0 + 1000000 ≤ s.time)
    ∧ State.reset.Inv :=
  ⟨by decide +kernel, by decide +kernel, by decide +kernel, inv_of (by decide +kernel)⟩

theorem witness_startsBegin : State.reset.boot.nextCold = false
    ∧ ({ State.reset with boot := { State.reset.boot with nextCold := true } } : State).boot.nextCold = true := by decide +kernel

/-- A start of a kind at a stage, with what the store and the flash hold. -/
def starting (kind stage : Nat) (retry : List Nat) (fails : List (List StartFailure)) (flash : FMap (Nat × Bool)) (store : FMap Word) : State :=
  { State.reset with boot := { State.reset.boot with start := some ⟨kind, stage, 1, retry, fails⟩, flash := flash, store := store } }

/-- Table 17.1, R368: stage 6 zeroes HBM of a warm start and leaves it in a keep-memory one; stage 8 is the last. -/
theorem test_stages :
    (let s := fun kind stage => { starting kind stage [] [] [(0, (1, true))] [] with mem := data.mem }
     (runStage (s 1 6)).mem.isEmpty && (runStage (s 2 6)).mem == data.mem
     && bits (runStage (s 1 8)).boot.bootstat 11 8 == 1 && (runStage (s 1 8)).boot.start.isNone) = true := by decide +kernel

theorem witness_stagesRun :
    (∀ kind ∈ [0, 1, 2], ∀ stage ∈ [1, 2, 3, 4, 5, 6, 7, 8],
      let s := starting kind stage [0] [] [(0, (1, true))] []
      s.boot.start = some ⟨kind, stage, 1, [0], []⟩ ∧ ([] : List (List StartFailure)).headD [] = []
        ∧ bootChoice s.boot.flash ≠ none ∧ confBad s.boot.store = false)
    ∧ bootChoice (starting 0 2 [] [] [] []).boot.flash = none
    ∧ confBad (starting 0 8 [] [] [(0, (1, true))] [(1, 1)]).boot.store = true
    ∧ (starting 0 6 [0] [] [(0, (1, true))] []).Inv := ⟨by decide +kernel, by decide +kernel, by decide +kernel, inv_of (by decide +kernel)⟩

theorem witness_startsFail :
    ∀ e ∈ [(0, 3, (⟨3, 7, 200⟩ : StartFailure), ([] : List Nat)), (1, 4, ⟨4, 7, 3199⟩, [0, 0]), (2, 5, ⟨5, 7, 16⟩, []), (0, 6, ⟨6, 0, 0⟩, [0])],
      let s := starting e.1 e.2.1 e.2.2.2 [[e.2.2.1]] [(0, (1, true))] []
      s.boot.start = some ⟨e.1, e.2.1, 1, e.2.2.2, [[e.2.2.1]]⟩
        ∧ ([[e.2.2.1]].headD []).find? (failsStage e.1 e.2.1) = some e.2.2.1 := by decide +kernel

theorem witness_management : State.reset.boot.powered = true ∧ (1 : Nat) ≤ 255 ∧ (3 : Nat) < 4 ∧ (7 : Nat) < 8 ∧ (511 : Nat) < 512
    ∧ 1 ≠ State.reset.boot.bootSlot := by decide +kernel

/-- A chunk asks for its commit that the replayed log does not name. -/
def straying : State := { drained with dbg := { drained.dbg with replay := some ⟨1, [], 0⟩ } }

theorem witness_stops :
    (hubReady one = true ∧ one.eng.ops = [] ∧ (1 : Nat) ≠ 0 ∧ (one.launch 1).isSome = true ∧ (one.strand c0).run ≠ .none
      ∧ launch1 one (fun x => x.cores.contains 0) = true)
    ∧ (hubReady quiet = true ∧ (quiet.core 0).quiesceSince = some 0 ∧ (quiet.core 0).quiesce = true ∧ (quiet.core 0).qopen = false
      ∧ coreJoined quiet 0 = false ∧ 0 + 1000000 ≤ quiet.time ∧ ∀ p ∈ (quiet.core 0).strands, p.2.run = .none ∨ p.2.stopped = true)
    ∧ (∀ c, (one.strand c).written = []) ∧ one.eng.ops = []
    ∧ ((replaying 10000000).dbg.replay = some ⟨1, [[0, 0, 0, 0]], 0⟩ ∧ ((replaying 10000000).launch 1).isSome = true
      ∧ hubReady (replaying 10000000) = true)
    ∧ (hubReady straying = true ∧ (straying.launch 1).isSome = true ∧ straying.dbg.replay = some ⟨1, [], 0⟩
      ∧ strayEvent straying ⟨1, [], 0⟩ = true)
    ∧ ((straying.strand c0).lid = 1 ∧ (straying.strand c0).twin = none ∧ (straying.strand c0).waiting.length = 1) :=
  ⟨by decide +kernel, by decide +kernel, fun c => by
    have := strand_all one (fun st => st.written.isEmpty) (by decide +kernel) (by decide) c
    simpa using this, by decide +kernel, by decide +kernel, by decide +kernel, by decide +kernel⟩

/-- The stopped strand has a debug write outstanding. -/
def rewritten (off : Nat) : State := me one fun st => { st with stopped := true, written := [(off, 7)] }

theorem witness_debugAccess :
    State.reset.dbg.records = [] ∧ recorded.dbg.records = [[1, 2, 3, 4, 5, 6]] ∧ recorded.dbg.recPos ≠ 5
    ∧ (∀ a ∈ [0, 1], let s := ({ one with dbg := { one.dbg with reports := [⟨0, 1, 0x80000000 + a * 0x4000000, 2, 0x20000, 0x77⟩] } } : State)
       ∃ r, (s.dbg.reports.find? fun r => r.core == c0.core) = some r ∧ bits r.ctl 25 24 = c0.strand ∧ (s.strand c0).run ≠ .none
         ∧ detOf s (s.strand c0).lid = 0
         ∧ bits r.ctl 27 26 = a.toNat)
    ∧ (halted.strand c0).stopped = true ∧ (31 : Reg) ≠ 0
    ∧ (∀ off ∈ [0, 0x950, 0x958, 248], ∃ st, (hubReady (rewritten off) = true ∧ ((rewritten off).core 0).strands = [(0, st)]
        ∧ (rewritten off).eng.ops = [] ∧ off % 8 = 0 ∧ off < 0x1000 ∧ st.written = [(off, 7)]))
    ∧ (let s := one.setCore 0 { one.core 0 with watches := [(3, { Watch.reset with base := 0x0E00000000000010 })] }
       let w := fget (s.core 0).watches Watch.reset 3
       (0x80040001 : Word).getLsbD 31 = true ∧ (s.core 0).claim = some 1 ∧ bits (0x80040001 : Word) 19 16 ≤ 12
         ∧ bits (0x80040001 : Word) 27 26 ≠ 3 ∧ w.base.toNat % 2 ^ bits (0x80040001 : Word) 19 16 = 0 ∧ bits w.base 63 60 = 0
         ∧ placeOf w.base = .scratch 16)
    ∧ (State.reset.core 0).claim = none := by
  refine ⟨by decide +kernel, by decide +kernel, by decide +kernel, fun a h => ?_, by decide +kernel, by decide +kernel, fun off h => ?_,
    by decide +kernel, by decide +kernel⟩
  rotate_left
  · fin_cases h <;> exact ⟨(rewritten _).strand c0, by decide +kernel, rfl, by decide +kernel, by decide, by decide, rfl⟩
  fin_cases h
  · exact ⟨⟨0, 1, 0x80000000, 2, 0x20000, 0x77⟩, by decide +kernel⟩
  · exact ⟨⟨0, 1, 0x84000000, 2, 0x20000, 0x77⟩, by decide +kernel⟩

/-- The dump's buffer has room for the header, the lengths and the body, or for less than a header. -/
def dumping (a n : Nat) : State := { State.reset with dbg := { State.reset.dbg with dumpbuf := BitVec.ofNat 64 a, dumplen := BitVec.ofNat 64 n } }

theorem witness_traceAndDump :
    ((5 : Word).getLsbD 0 = true ∧ bits State.reset.dbg.trstart 63 62 ≠ 1 ∧ bits State.reset.dbg.trstop 63 62 ≠ 1
      ∧ (9 : Word).getLsbD 3 = true ∧ State.reset.dbg.trwait = [])
    ∧ (let s := { dumping 0x20000 0x100000 with poison := [(0x20000 / 32, true)] }
       s.boot.powered = true ∧ plainMemory s 0x20000 256 = true ∧ poisonedAt s (0x20000 + 0) = true)
    ∧ (bits (0 : Word) 1 0 = 0 ∧ bits (1 : Word) 1 0 = 1 ∧ bits (2 : Word) 1 0 = 2 ∧ hubReady State.reset = true)
    ∧ (bitOf armed.dbg.trctl 0 = true ∧ bitOf armed.dbg.trctl 3 = false ∧ armed.dbg.traceOver = false ∧ armed.dbg.tracing = false
      ∧ traceDue armed.dbg.trstart armed.time = true ∧ traceDue armed.dbg.trstop armed.time = false
      ∧ plainMemory armed (armed.dbg.trbase.toNat + armed.dbg.trnext % armed.dbg.trsize.toNat * 32) 32 = true
      ∧ armed.dbg.trnext < armed.dbg.trsize.toNat)
    ∧ (let s := { armed with dbg := { armed.dbg with tracing := true, trstop := 0xC000000000000064 } }
       bitOf s.dbg.trctl 0 = true ∧ s.dbg.tracing = true ∧ traceDue s.dbg.trstop s.time = true)
    ∧ (Claims.Calm (dumping 0xFFFFFFFFFFFF 0) ∧ plainMemory (dumping 0xFFFFFFFFFFFF 0) 0xFFFFFFFFFFFF 256 = false
      ∧ bits (0 : Word) 1 0 ≠ 3)
    ∧ (Claims.Calm (dumping 0x20000 0x100000) ∧ (dumping 0x20000 0x100000).boot.powered = true
      ∧ (let s := { dumping 0x20000 0x100000 with dbg := { (dumping 0x20000 0x100000).dbg with dumpctl := 0 } }
         plainMemory s 0x20000 (256 + (dumpBody s).length) = true ∧ 256 + (dumpBody s).length ≤ 0x100000))
    ∧ (selected one).core < 25600 ∧ (one.core (selected one).core).dbgHalt = false
    ∧ (2 : Word).getLsbD 1 = true :=
  ⟨by decide +kernel, by decide +kernel, by decide +kernel, by decide +kernel, by decide +kernel,
    ⟨calm_of (by decide +kernel), by decide +kernel⟩, ⟨calm_of (by decide +kernel), by decide +kernel⟩, by decide +kernel⟩
end Sys2Proof.Tests
end

/-! ## Proofs: `lpc` and `dbnz` (chapter 04)

An instruction that writes one general register and may jump, and the two instructions that are cases of it. -/

namespace Sys2Proof.Machine

/-- Under `NoPrefix` the next instruction follows at once (R94). -/
theorem pcAfter_of_noPrefix {s : State} (len : Nat) (h : NoPrefix s) : pcAfter s len = s.arch.pc + BitVec.ofNat 64 len := by
  unfold NoPrefix at h
  simp [pcAfter, h]

/-- gd right after its write; g0 stays zero (R15). -/
theorem wg_rg_same (u : State) (d : Reg) (v : Word) : (wg u d v).arch.rg d = if d = 0 then 0 else v := by
  rw [wg_arch, Arch.rg_wg]
  by_cases h : d = 0
  · subst h; simp
  · rw [if_pos ⟨rfl, h⟩, if_neg h]

/-- A body that wrote gd and has no result that waits, wherever it jumps. -/
theorem retire_of_wg {s : State} {x : Fx} {d : Reg} {v : Word} (len : Nat) (hs : x.s = wg (begun s) d v)
    (hl : x.late = []) :
    gOf s (retire x s.cur len) d = (if d = 0 then 0 else v) ∧ Keeps s (retire x s.cur len) { g := [d] } := by
  have hm : Mid s x.s { g := [d] } := hs ▸ (Mid.begun s _).wg d v (List.mem_singleton_self d)
  refine ⟨?_, hm.keeps len (by simp [hl])⟩
  rw [hm.gOf len d hl (hs ▸ wg_late _ d v), hs]
  exact wg_rg_same _ d v

/-- The pc of an instruction that jumps. -/
theorem pcOf_retire_jump {s : State} {x : Fx} {target : Word} (len : Nat) (hj : x.jump = some target) :
    pcOf s (retire x s.cur len) = target := by
  unfold pcOf
  rw [retire_pc]
  simp [nextPc, hj]

/-- R105: `lpc` writes gd from the pc alone. -/
theorem exec_lpc_puts (s : State) (d : Reg) (off : BitVec 19) (h : Runs s) :
    ∃ t, exec (.lpc d off) s = .next t ∧ Puts s t d (s.arch.pc + off.signExtend 64 * 4) 4 := by
  show ∃ t, execLpc d off s = .next t ∧ _
  apply putsOf s 4 d _ _ h
  rw [begun_arch]
  rfl

/-- What the body of `dbnz` completes with (R115): the write of ga, and a jump exactly when the count is not used up. -/
def dbnzFx (u : State) (a : Reg) (x target : Word) : Fx :=
  { fx (wg u a (x - 1)) with jump := if x - 1 = 0 then none else some target }

/-- R115: `dbnz` whose register can be read completes as `dbnzFx` says. -/
theorem exec_dbnz {s : State} {a : Reg} (off : BitVec 11) (h : Runs s) (ha : Readable s a) :
    exec (.dbnz a off) s
      = .next (retire (dbnzFx (begun s) a (s.arch.rg a) (s.arch.pc + off.signExtend 64 * 4)) s.cur 4) := by
  show execDbnz a off s = _
  apply runBody_ok h
  simp only [rg_begun ha, begun_arch, dbnzFx]
  by_cases hz : s.arch.rg a - 1 = 0
  · rw [if_pos hz]
    exact if_neg (not_not_intro hz)
  · rw [if_neg hz]
    exact if_pos hz

/-- R115: the pc goes to the target, or behind `dbnz` when the count is used up. -/
theorem pcOf_retire_dbnzFx (s : State) (a : Reg) (x target : Word) :
    pcOf s (retire (dbnzFx (begun s) a x target) s.cur 4) = if x - 1 = 0 then pcAfter s 4 else target := by
  by_cases hz : x - 1 = 0
  · have hm : Mid s (wg (begun s) a (x - 1)) { g := [a] } := (Mid.begun s _).wg a _ (List.mem_singleton_self a)
    rw [if_pos hz]
    exact Mid.pcAfter hm 4 (if_pos hz) rfl
  · rw [if_neg hz]
    exact pcOf_retire_jump 4 (if_neg hz)

/-- Settles O12: `lpc` is the instruction that puts its own address plus the scaled offset into gd. -/
theorem lpcAddsOffset : Obligations.LpcAddsOffset := by
  intro s d off hrun hpfx
  obtain ⟨t, hexec, hreg, hpc, hkeep⟩ := exec_lpc_puts s d off hrun
  exact ⟨rfl, t, hexec, hreg, hpc.trans (pcAfter_of_noPrefix 4 hpfx), hkeep⟩

/-- Settles O19: `dbnz` retires with the decremented register, and jumps exactly when that is not zero; g0 reads as zero, so
with ga = g0 it always jumps. -/
theorem dbnzCountsDown : Obligations.DbnzCountsDown := by
  intro s a off hrun hread hpfx
  obtain ⟨hreg, hkeep⟩ := retire_of_wg (s := s) (v := s.arch.rg a - 1) 4
    (x := dbnzFx (begun s) a (s.arch.rg a) (s.arch.pc + off.signExtend 64 * 4)) rfl rfl
  have hpc := pcOf_retire_dbnzFx s a (s.arch.rg a) (s.arch.pc + off.signExtend 64 * 4)
  rw [pcAfter_of_noPrefix 4 hpfx] at hpc
  exact ⟨rfl, _, exec_dbnz off hrun hread, hkeep, hreg, hpc⟩

end Sys2Proof.Machine

/-! ## Proofs: `nop`, `trap` and `brk` (chapter 07)

The operations that a chunk holds after an instruction, a synchronous trap of the first instruction at a boundary, and the
debug record of a strand that stops there. -/

namespace Sys2Proof.Machine

/-! ### An instruction that completes, or raises a trap, whatever the state -/

/-- Retiring adds no operation: the strand's newest chunk, open or ended, holds those that the body left in it (R6). -/
theorem retire_newest_ops (x : Fx) (c : Sid) (len : Nat) :
    ∃ older ch, ((retire x c len).strand c).chunks = older ++ [ch] ∧ ch.ops = (chunkOf x.s c).ops := by
  apply retire_cases x c len fun t =>
    ∃ (older : List Chunk) (ch : Chunk), (t.strand c).chunks = older ++ [ch] ∧ ch.ops = (chunkOf x.s c).ops
  · exact ⟨_, _, congrArg Strand.chunks (retired_strand x c len), rfl⟩
  · intro code e
    exact ⟨_, _, endAfter_chunks (retired_opened x c len), rfl⟩

/-- A body that does nothing retires: no operation is held, the pc moves on, and nothing else changes. -/
theorem retire_begun (s : State) (len : Nat) :
    Releases s (retire (fx (begun s)) s.cur len) [] ∧ pcOf s (retire (fx (begun s)) s.cur len) = pcAfter s len
    ∧ Keeps s (retire (fx (begun s)) s.cur len) {} := by
  have hm : Mid s (fx (begun s)).s {} := Mid.begun s {}
  have hchunk : chunkOf (fx (begun s)).s s.cur = chunkOf s s.cur := begun_chunk s
  obtain ⟨older, ch, hchunks, hops⟩ := retire_newest_ops (fx (begun s)) s.cur len
  rw [hchunk] at hops
  exact ⟨⟨ch, by rw [hchunks, List.getLast?_concat], by rw [hops, List.append_nil]⟩, hm.pcAfter len rfl rfl, hm.keeps len (by simp [fx])⟩

/-- A body that raises a trap whatever the state raises it with no other effect (R331). -/
theorem runBody_raise {s : State} (len code sub : Nat) (val : Word) (h : Runs s) :
    runBody s len (fun _ => raise code sub val) = .next (raiseSync (begun s) s.cur (mkTrap code sub val)) := by
  rw [runBody_error h (e := .trap (mkTrap code sub val)) rfl]
  simp only [stopped]

/-! ### A synchronous trap of the first instruction at a boundary -/

/-- The state without the strand's mark that a peer-tier read has timed out (R252), which a synchronous trap clears. -/
def peerCleared (s : State) (c : Sid) : State :=
  if (s.strand c).peerLate then s.setStrand c { s.strand c with peerLate := false } else s

theorem peerCleared_strand (s : State) (c : Sid) :
    (peerCleared s c).strand c = { s.strand c with peerLate := false } := by
  unfold peerCleared
  split
  · rw [State.strand_setStrand_same]
  · next h => rw [← Bool.eq_false_iff.2 h]

theorem onlyStrand_peerCleared (s : State) (c : Sid) : OnlyStrand s (peerCleared s c) c := by
  unfold peerCleared
  split
  · exact .setStrand ..
  · exact .refl ..

theorem peerCleared_dbg (s : State) (c : Sid) : (peerCleared s c).dbg = s.dbg := by
  unfold peerCleared
  split <;> rfl

/-- A strand none of whose chunks waits reports a trap of its chunk's first instruction at once (R331). -/
theorem raiseSync_first {s : State} {c : Sid} {ch : Chunk} (x : Trap) (hopen : (s.strand c).opened = some ch)
    (hfirst : ch.retired = 0) (hwait : (s.strand c).waiting = []) :
    raiseSync s c x = reportTrap (peerCleared s c) c x := by
  unfold raiseSync peerCleared
  by_cases hlate : (s.strand c).peerLate <;> simp [hlate, hopen, hfirst, hwait]

/-- Reporting a trap of a chunk's first instruction gives the chunk up and takes the trap at its pc (R331). -/
theorem reportTrap_first {s : State} {c : Sid} {ch : Chunk} (x : Trap) (hopen : (s.strand c).opened = some ch)
    (hfirst : ch.retired = 0) (hsync : (s.strand c).sync = none) :
    reportTrap s c x = takeTrap (s.setStrand c { s.strand c with opened := none }) c x (s.strand c).arch.pc := by
  simp only [reportTrap, hopen, hfirst, if_true, State.strand_setStrand_same, hsync, Option.filter_none, Option.getD_none]

/-- The strand at its boundary after its first instruction has raised a trap, which is still to be taken. -/
def Strand.gaveUp (st : Strand) : Strand := { st with opened := none, blocked := none, peerLate := false }

/-- R331: a synchronous trap of the first instruction at a boundary is taken there, or stops the strand there, in a state
that differs from the one before the instruction in this strand alone. -/
theorem raiseSync_atBoundary {s : State} (x : Trap) (h : AtBoundary s) :
    ∃ u, OnlyStrand (begun s) u s.cur ∧ u.dbg = s.dbg ∧ u.strand s.cur = s.me.gaveUp
      ∧ raiseSync (begun s) s.cur x = takeTrap u s.cur x s.arch.pc := by
  obtain ⟨hopen, hwait, hsync⟩ := h
  have hfirst : (chunkOf s s.cur).retired = 0 := by
    rw [chunkOf, show (s.strand s.cur).opened = none from hopen]
    rfl
  have hbegun : (begun s).strand s.cur = { s.me with opened := some (chunkOf s s.cur), blocked := none } := begun_me s
  have hclear := peerCleared_strand (begun s) s.cur
  rw [hbegun] at hclear
  refine ⟨(peerCleared (begun s) s.cur).setStrand s.cur s.me.gaveUp, (onlyStrand_peerCleared ..).trans (.setStrand ..),
    peerCleared_dbg (begun s) s.cur, State.strand_setStrand_same .., ?_⟩
  rw [raiseSync_first x (by rw [hbegun]) hfirst (by rw [hbegun]; exact hwait),
    reportTrap_first x (by rw [hclear]) hfirst (by rw [hclear]; exact hsync), hclear]
  rfl

/-! ### The debug record, and the stop of an armed `brk` -/

/-- REASON stands in the high byte of dword 1 of a debug record (Table 14.3). -/
theorem debugRecord_reason {reason wp sub inst : Nat} (hwp : wp < 4) (hsub : sub < 16) :
    (BitVec.ofNat 64 (reason * 2 ^ 56 + wp * 2 ^ 54 + sub * 2 ^ 50 + inst % 2 ^ 32)).extractLsb' 56 8
      = BitVec.ofNat 8 reason := by
  apply BitVec.eq_of_toNat_eq
  rw [BitVec.extractLsb'_toNat, BitVec.toNat_ofNat, BitVec.toNat_ofNat, Nat.shiftRight_eq_div_pow]
  omega

/-- A queue with room takes the strand's record: six dwords, the reason, the pc in dword 3 (R351, Table 14.3). -/
theorem debugRecord_appends {s : State} (c : Sid) {reason wp sub : Nat} (addr source : Word)
    (hroom : s.dbg.records.length < 256) (hwp : wp < 4) (hsub : sub < 16) :
    ∃ r, (debugRecord s c reason wp sub addr source).dbg.records = s.dbg.records ++ [r] ∧ r.length = 6
      ∧ (r.getD 1 0).extractLsb' 56 8 = BitVec.ofNat 8 reason ∧ r.getD 3 0 = (s.strand c).arch.pc := by
  unfold debugRecord
  rw [if_pos hroom]
  exact ⟨_, rfl, rfl, debugRecord_reason hwp hsub, rfl⟩

/-- Noting when a core stopped concerns the core alone: no strand, no memory, no debug register. -/
theorem noteStop_frame (s : State) (l : Nat) :
    (∀ d, (noteStop s l).strand d = s.strand d) ∧ (noteStop s l).mem = s.mem ∧ (noteStop s l).dbg = s.dbg := by
  unfold noteStop
  dsimp only
  split
  · exact ⟨fun _ => rfl, rfl, rfl⟩
  · refine ⟨fun d => ?_, rfl, rfl⟩
    apply State.strand_setCore
    rfl

/-- R352: the strand stops at its boundary, registers and memory as they are; a queue with room takes its record. -/
theorem stopAtBrk_spec (s : State) (c : Sid) :
    (stopAtBrk s c).strand c = { s.strand c with stopped := true, sync := none, opened := none, stepping := false }
    ∧ (stopAtBrk s c).mem = s.mem
    ∧ (s.dbg.records.length < 256 → ∃ r, (stopAtBrk s c).dbg.records = s.dbg.records ++ [r] ∧ r.length = 6
        ∧ (r.getD 1 0).extractLsb' 56 8 = 1 ∧ r.getD 3 0 = (s.strand c).arch.pc) := by
  obtain ⟨hstrand, hmem, hdbg⟩ := noteStop_frame s c.core
  unfold stopAtBrk
  refine ⟨?_, (OnlyStrand.debugRecord ..).mem.trans hmem, fun hroom => ?_⟩
  · rw [strand_debugRecord, State.strand_setStrand_same, hstrand]
  · obtain ⟨r, happ, hlen, hreason, hpc⟩ := debugRecord_appends (reason := 1) (wp := 0) (sub := 0)
      (s := (noteStop s c.core).setStrand c
        { (noteStop s c.core).strand c with stopped := true, sync := none, opened := none, stepping := false })
      c 0 0 (by rw [State.setStrand_dbg, hdbg]; exact hroom) (by decide) (by decide)
    rw [State.setStrand_dbg, hdbg] at happ
    rw [State.strand_setStrand_same, hstrand] at hpc
    exact ⟨r, happ, hlen, hreason, hpc⟩

theorem OnlyStrand.armBrk {s t : State} {c : Sid} (h : OnlyStrand s t c) (l : Nat) :
    (t.core l).armBrk = (s.core l).armBrk := by
  have hcore := congrArg Core.armBrk (h.core l)
  exact hcore

theorem begun_armBrk (s : State) : ((begun s).core s.cur.core).armBrk = (s.core s.cur.core).armBrk := by
  rw [begun_core_cur]

/-! ### The obligation -/

/-- R216: `nop` has no effect; `trap` and `brk` raise their traps. -/
theorem trapAndBreakpoint_holds : Claims.trapAndBreakpoint := by
  intro s n hrun
  refine ⟨⟨_, ?_, retire_begun s 4⟩, ?_, ?_⟩
  · show execNop s = _
    exact runBody_ok hrun rfl
  · show execTrap n s = _
    exact runBody_raise 4 0x0E 0 _ hrun
  · show execBrk n s = _
    exact runBody_raise 4 0x0D 0 _ hrun

/-- R216, R352: at a boundary of an armed core the trap of `brk` is the stop of the strand. -/
theorem armedBreakpointStops_holds : Claims.armedBreakpointStops := by
  intro s n hrun hbound harm
  obtain ⟨u, honly, hdbg, hstrand, htake⟩ := raiseSync_atBoundary (mkTrap 0x0D 0 (n.zeroExtend 64)) hbound
  obtain ⟨-, -, hraise⟩ := trapAndBreakpoint_holds s n hrun
  have hbrk : exec (.brk n) s = .next (stopAtBrk u s.cur) := by
    have harm' : (u.core s.cur.core).armBrk = true := (honly.armBrk _).trans ((begun_armBrk s).trans harm)
    rw [hraise, htake, takeTrap, if_pos ⟨rfl, harm'⟩]
  obtain ⟨hstop, hmem, hrecord⟩ := stopAtBrk_spec u s.cur
  rw [hstrand] at hstop hrecord
  rw [hdbg] at hrecord
  exact ⟨_, hbrk, by rw [hstop], by rw [hstop]; rfl, by rw [hstop], hmem.trans honly.mem, hrecord⟩

/-- Settles O25: `nop` retires with nothing done, `trap` and `brk` raise their traps, and on an armed core the trap of `brk`
at a boundary is taken as the stop of the strand. -/
theorem trapAndBreakInstructions : Obligations.TrapAndBreakInstructions :=
  ⟨trapAndBreakpoint_holds, armedBreakpointStops_holds⟩

end Sys2Proof.Machine
